-- ==== Sys2Proof/Word.lean ====
section
/-! DEFINITION. The word types of the machine (spec/00_scope.md R3, R4) and their plainest arithmetic. -/

namespace Sys2Proof

/-- A doubleword: a general register, an address, a control register (06 R112). -/
abbrev Word := BitVec 64

/-- A byte (00 R4). -/
abbrev Byte := BitVec 8

/-- The payload of a link word, and a row of memory-tile SRAM (08 R164, 10 R211). -/
abbrev Lanes := BitVec 256

end Sys2Proof
end

