-- ==== Sys2Proof/Syntax.lean ====
section
/-! DEFINITION. The instruction set as data: one constructor for each row of the opcode table. An encoded row carries
the fields of its 32-bit word (spec/15_isa_formats.md R312 to R322); a row without an encoding, an event, carries what
names the agent it happens to and what comes from outside the package with it (spec/95_what_each_step_holds.md). -/

namespace Sys2Proof

/-- A packet of the dynamic network: the header fields of Table 02-2 (02 R31) and the payload in doublewords.
`rsv` holds the reserved bits as they arrived, `hcrc` the check byte as it arrived. -/
structure Packet where
  dst  : Nat
  src  : Nat
  kind : Nat
  circ : Nat
  seq  : Nat
  len  : Nat
  rsv  : Nat
  addr : Nat
  hcrc : Nat
  data : List Nat
  deriving DecidableEq, Repr

/-- One constructor per row of the opcode table, in the table's order. Register operands are register numbers and
immediates are the raw field, read as signed or unsigned where the instruction is given its meaning. -/
inductive Instr where
  | add (d a b : Nat)
  | sub (d a b : Nat)
  | and (d a b : Nat)
  | or (d a b : Nat)
  | xor (d a b : Nat)
  | andn (d a b : Nat)
  | orn (d a b : Nat)
  | sll (d a b : Nat)
  | srl (d a b : Nat)
  | sra (d a b : Nat)
  | ror (d a b : Nat)
  | mul (d a b : Nat)
  | mulh (d a b : Nat)
  | mulhu (d a b : Nat)
  | div (d a b : Nat)
  | divu (d a b : Nat)
  | rem (d a b : Nat)
  | remu (d a b : Nat)
  | min (d a b : Nat)
  | max (d a b : Nat)
  | minu (d a b : Nat)
  | maxu (d a b : Nat)
  | slt (d a b : Nat)
  | sltu (d a b : Nat)
  | seq (d a b : Nat)
  | sne (d a b : Nat)
  | lea (d a b s : Nat)
  | clz (d a : Nat)
  | ctz (d a : Nat)
  | popc (d a : Nat)
  | bswap (d a : Nat)
  | sextB (d a : Nat)
  | sextH (d a : Nat)
  | sextW (d a : Nat)
  | zextB (d a : Nat)
  | zextH (d a : Nat)
  | zextW (d a : Nat)
  | csel (d a b : Nat)
  | addi (d a i : Nat)
  | andi (d a i : Nat)
  | ori (d a i : Nat)
  | xori (d a i : Nat)
  | slti (d a i : Nat)
  | sltiu (d a i : Nat)
  | slli (d a n : Nat)
  | srli (d a n : Nat)
  | srai (d a n : Nat)
  | rori (d a n : Nat)
  | lui (d h i : Nat)
  | addpc (d i : Nat)
  | extr (d a l w : Nat)
  | extru (d a l w : Nat)
  | ins (d a l w : Nat)
  | beq (a b o : Nat)
  | bne (a b o : Nat)
  | blt (a b o : Nat)
  | bge (a b o : Nat)
  | bltu (a b o : Nat)
  | bgeu (a b o : Nat)
  | jal (o : Nat)
  | jalr (a i : Nat)
  | ldB (t b c p o : Nat)
  | ldBu (t b c p o : Nat)
  | ldH (t b c p o : Nat)
  | ldHu (t b c p o : Nat)
  | ldW (t b c p o : Nat)
  | ldWu (t b c p o : Nat)
  | ldD (t b c p o : Nat)
  | ldX (t b c p o : Nat)
  | stB (t b c p o : Nat)
  | stH (t b c p o : Nat)
  | stW (t b c p o : Nat)
  | stD (t b c p o : Nat)
  | stX (t b c p o : Nat)
  | pf (w b c p o : Nat)
  | amoAdd (d a b o s z : Nat)
  | amoAnd (d a b o s z : Nat)
  | amoOr (d a b o s z : Nat)
  | amoXor (d a b o s z : Nat)
  | amoSwap (d a b o s z : Nat)
  | amoMin (d a b o s z : Nat)
  | amoMax (d a b o s z : Nat)
  | amoMinu (d a b o s z : Nat)
  | amoMaxu (d a b o s z : Nat)
  | cas (d a b o s z : Nat)
  | aincb (d a b o s z : Nat)
  | adecz (d a o s z : Nat)
  | fenceAcq (s m : Nat)
  | fenceRel (s m : Nat)
  | fenceFull (s m : Nat)
  | fencePersist (s m : Nat)
  | l1inv (c : Nat)
  | dinv (a : Nat)
  | waitwNe (d a b z : Nat)
  | waitwEq (d a b z : Nat)
  | qpush (g s q t r : Nat)
  | qpop (d s q t a : Nat)
  | qpeek (d s q t a : Nat)
  | qclasp (g q t r l : Nat)
  | qstat (d q c : Nat)
  | bqpop (d q a n : Nat)
  | qbind (s q b o : Nat)
  | strm (d a : Nat)
  | strmwait (a : Nat)
  | strmkill (a : Nat)
  | copy (d a : Nat)
  | cwait (a : Nat)
  | cpoll (d a : Nat)
  | place (d a : Nat)
  | sect (a b : Nat)
  | mark (d : Nat)
  | cutwait (a : Nat)
  | release (a : Nat)
  | tqpush (a b : Nat)
  | renq (a b : Nat)
  | tspawn (d a b : Nat)
  | texit
  | yield
  | tresume (a : Nat)
  | trap (c : Nat)
  | eret
  | crr (d n : Nat)
  | crw (a n : Nat)
  | crs (d a n : Nat)
  | crc (d a n : Nat)
  | tlbinv (d a r k : Nat)
  | halt
  | selftest (d a : Nat)
  | asyncTrapEntry (core slot : Nat)
  | timerExpiry (core slot : Nat)
  | blockedWake (core slot : Nat)
  | waitwPoll (core slot : Nat)
  | loadDataReturn (core slot idx : Nat)
  | wcbDrain (core idx : Nat)
  | storePerformed (core idx : Nat)
  | walkDone (die idx : Nat)
  | faultEntryWrite (die : Nat)
  | fqbaseWrite (die v : Nat)
  | fqheadWrite (die v : Nat)
  | fresume (die seq : Nat)
  | engineCommandStart (core kind : Nat)
  | threadCommandStart (core : Nat)
  | streamLineReturn (core stream elem : Nat)
  | streamPark (core stream : Nat)
  | streamDrainPop (core stream : Nat)
  | copyLine (core copy : Nat)
  | streamComplete (core stream : Nat)
  | copyComplete (core copy : Nat)
  | configStreamApply (core stream : Nat)
  | monselClear (die mon v : Nat)
  | lossOfDecoupling (q : Nat)
  | probeStart (core slot : Nat)
  | probeHop (probe : Nat)
  | governorEvaluation (watts tj amps : Nat)
  | thermalStop (tj : Nat)
  | thermalRestart (tj : Nat)
  | coldReset
  | warmReset
  | functionReset
  | resetctlWarm (v : Nat)
  | rootctlGo (v : Nat)
  | hostMemRead (range off cache : Nat)
  | hostMemWrite (range off mask : Nat) (data : List Nat)
  | snoopResponse (line mask : Nat) (data : List Nat)
  | hostAppend (q : Nat) (desc : List Nat)
  | hostAccessCompletion (id : Nat) (data : List Nat) (status : Nat)
  | persistAck (core slot ok : Nat)
  | hostLinkDown
  | msixUnmask (vec : Nat)
  | getVersion
  | getCapabilities (ver : Nat)
  | negotiateAlgorithms (asym hash : Nat)
  | getDigests
  | getCertificate (chain off len : Nat)
  | challenge (chain : Nat) (nonce : List Nat)
  | getMeasurements (index : Nat) (nonce : List Nat)
  | mctpControl (cmd arg : Nat)
  | mgmtReadStatus
  | mgmtSetPowerCap (watts : Nat)
  | mgmtClearPowerCap
  | mgmtWarmReset (key : Nat)
  | mgmtFirmwareUpdate (image svn good : Nat)
  | flitReceive (port seq ack ok nak : Nat)
  | portFailure (port why : Nat)
  | portTrainingDone (port ok : Nat)
  | lnkctlRetrain (port : Nat)
  | portDisable (port : Nat)
  | portEnable (port : Nat)
  | packetReceive (port : Nat) (pkt : Packet)
  | remoteRequest
  | remoteResponse
  | requestTimeout (tag : Nat)
  | circuitDataReceive
  | circuitCreditReceive
  | stepDataReceive
  | stepAckReceive
  | stepTimeout (core copy : Nat)
  | pick (die : Nat)
  | taskComplete (task : Nat)
  | releaseBufferAppend (die : Nat)
  | spillRefill (q : Nat)
  | qcfgResume (q : Nat)
  | placementTimeout (load : Nat)
  | startToken (load : Nat)
  | switchRoute (tile port vc : Nat)
  | fire (tile slot : Nat)
  | csrcEmit (tile slot : Nat)
  | bankSwap (tile : Nat)
  | timedTick (tile : Nat)
  | blockReady (tile : Nat)
  | groupAdvance (tile group : Nat)
  | outputMove (tile : Nat)
  | stagingSend (tile : Nat)
  | tstoreWrite (tile : Nat)
  | generatorStep (tile gen : Nat)
  | fifoTake (tile : Nat)
  | fifoEmit (tile : Nat)
  | lbufTake (tile : Nat)
  | rptCapture (tile : Nat)
  | cdownScan (tile : Nat)
  | cdownDecrement (tile : Nat)
  | ltabLookup (tile : Nat)
  | selftestDone (test pass : Nat)
  | segmentCommit (load : Nat)
  | scrubVisit (line result : Nat)
  | scrubClear (line : Nat)
  | scrubPoison (line : Nat)
  | loadctlPreempt (die load : Nat)
  | loadctlRestore (die load : Nat)
  | loadctlKill (die load : Nat)
  | elementAlign (tile : Nat)
  | drainSave (load : Nat)
  | resumeToken (load : Nat)
  | occupancySweep
  | loadFinish (load : Nat)
  | registerWrite (off size v : Nat)
  | powerOff
  | aPortTake (tile : Nat)
  | bPortTake (tile port : Nat)
  | resultEntersOutputRegister (tile slot : Nat)
  | multiplyOrDivideCompletes (core slot : Nat)
  deriving DecidableEq, Repr

end Sys2Proof
end

