-- ==== Sys2Proof/Config.lean ====
section
/-! DEFINITION. What the spec leaves open: free values without a body, so that no proof can see what they are
(log 12). -/

namespace Sys2Proof.Config

/-- The value of use n where the spec states no value (log 12); the first argument says where it is used. -/
opaque free (use n : Nat) : Nat

/-- HCRC: the CRC-8 of a packet header's bits [127:8] (02 R31); the spec names no polynomial (log 12). -/
opaque hcrc (header : Nat) : Nat

/-- Bits of an SPDM or MCTP answer that rest on keys, certificates, nonces and measurements (03 R65, R66; log 12). -/
opaque answer (code : Nat) (asked : List Nat) : List Nat

/-- SHA-256 over what a measurement block covers (03 Table 03-11), and the key material of 03 R64: the seed that helper data in
the flash reconstructs, the device key derived from it, the alias key derived from that and the measurements, and an ECDSA
signature under a key. The spec names the functions and gives no flash contents (log 12). -/
opaque sha (block : Nat) (covered : List Nat) : Nat
opaque seed : Nat
opaque deviceKey (seed : Nat) : Nat
opaque aliasKey (deviceKey : Nat) (meas : List Nat) : Nat
opaque sign (key : Nat) (data : List Nat) : Nat

/-- Byte o of a part of a saved load's block, from what the part holds (13 R272, R273): the spec lists the contents and gives
no places (log 12, 83). -/
opaque saved (what : List Nat) (o : Nat) : Nat

end Sys2Proof.Config
end

