-- ==== Sys2Proof/WellFormed.lean ====
section
/-! DEFINITION. Which instructions are well formed: every field within its width, and the limits that the spec puts on
field values (spec/15_isa_formats.md R313 to R323, and Tables 16-6, 17-9, 18-14 and R410). A word whose fields break
one of these limits is illegal, so a well-formed instruction is one that some legal word encodes. An event is
well formed always: its operands are inputs. -/

namespace Sys2Proof

/-- The control-register numbers of Table 19-3 (19 R406). -/
def crnListed (n : Nat) : Bool :=
  decide (n ≤ 0x007) || n == 0x010 || n == 0x011 || (decide (0x020 ≤ n) && decide (n ≤ 0x022)) ||
  (decide (0x030 ≤ n) && decide (n ≤ 0x033)) || n == 0x040 || n == 0x080 || n == 0x100 || n == 0x101 ||
  (decide (0x110 ≤ n) && decide (n ≤ 0x112)) || n == 0x120 || (decide (0x180 ≤ n) && decide (n ≤ 0x18F))

/-- The limits on the fields of each instruction. -/
def Instr.wf (i : Instr) : Bool :=
  match i with
  | .add d a b => decide (d < 32) && decide (a < 32) && decide (b < 32)
  | .sub d a b => decide (d < 32) && decide (a < 32) && decide (b < 32)
  | .and d a b => decide (d < 32) && decide (a < 32) && decide (b < 32)
  | .or d a b => decide (d < 32) && decide (a < 32) && decide (b < 32)
  | .xor d a b => decide (d < 32) && decide (a < 32) && decide (b < 32)
  | .andn d a b => decide (d < 32) && decide (a < 32) && decide (b < 32)
  | .orn d a b => decide (d < 32) && decide (a < 32) && decide (b < 32)
  | .sll d a b => decide (d < 32) && decide (a < 32) && decide (b < 32)
  | .srl d a b => decide (d < 32) && decide (a < 32) && decide (b < 32)
  | .sra d a b => decide (d < 32) && decide (a < 32) && decide (b < 32)
  | .ror d a b => decide (d < 32) && decide (a < 32) && decide (b < 32)
  | .mul d a b => decide (d < 32) && decide (a < 32) && decide (b < 32)
  | .mulh d a b => decide (d < 32) && decide (a < 32) && decide (b < 32)
  | .mulhu d a b => decide (d < 32) && decide (a < 32) && decide (b < 32)
  | .div d a b => decide (d < 32) && decide (a < 32) && decide (b < 32)
  | .divu d a b => decide (d < 32) && decide (a < 32) && decide (b < 32)
  | .rem d a b => decide (d < 32) && decide (a < 32) && decide (b < 32)
  | .remu d a b => decide (d < 32) && decide (a < 32) && decide (b < 32)
  | .min d a b => decide (d < 32) && decide (a < 32) && decide (b < 32)
  | .max d a b => decide (d < 32) && decide (a < 32) && decide (b < 32)
  | .minu d a b => decide (d < 32) && decide (a < 32) && decide (b < 32)
  | .maxu d a b => decide (d < 32) && decide (a < 32) && decide (b < 32)
  | .slt d a b => decide (d < 32) && decide (a < 32) && decide (b < 32)
  | .sltu d a b => decide (d < 32) && decide (a < 32) && decide (b < 32)
  | .seq d a b => decide (d < 32) && decide (a < 32) && decide (b < 32)
  | .sne d a b => decide (d < 32) && decide (a < 32) && decide (b < 32)
  | .lea d a b s => decide (d < 32) && decide (a < 32) && decide (b < 32) && decide (s < 4)
  | .clz d a => decide (d < 32) && decide (a < 32)
  | .ctz d a => decide (d < 32) && decide (a < 32)
  | .popc d a => decide (d < 32) && decide (a < 32)
  | .bswap d a => decide (d < 32) && decide (a < 32)
  | .sextB d a => decide (d < 32) && decide (a < 32)
  | .sextH d a => decide (d < 32) && decide (a < 32)
  | .sextW d a => decide (d < 32) && decide (a < 32)
  | .zextB d a => decide (d < 32) && decide (a < 32)
  | .zextH d a => decide (d < 32) && decide (a < 32)
  | .zextW d a => decide (d < 32) && decide (a < 32)
  | .csel d a b => decide (d < 32) && decide (a < 32) && decide (b < 32)
  | .addi d a i => decide (d < 32) && decide (a < 32) && decide (i < 65536)
  | .andi d a i => decide (d < 32) && decide (a < 32) && decide (i < 65536)
  | .ori d a i => decide (d < 32) && decide (a < 32) && decide (i < 65536)
  | .xori d a i => decide (d < 32) && decide (a < 32) && decide (i < 65536)
  | .slti d a i => decide (d < 32) && decide (a < 32) && decide (i < 65536)
  | .sltiu d a i => decide (d < 32) && decide (a < 32) && decide (i < 65536)
  | .slli d a n => decide (d < 32) && decide (a < 32) && decide (n < 64)
  | .srli d a n => decide (d < 32) && decide (a < 32) && decide (n < 64)
  | .srai d a n => decide (d < 32) && decide (a < 32) && decide (n < 64)
  | .rori d a n => decide (d < 32) && decide (a < 32) && decide (n < 64)
  | .lui d h i => decide (d < 32) && decide (h < 4) && decide (i < 65536)
  | .addpc d i => decide (d < 32) && decide (i < 65536)
  | .extr d a l w => decide (d < 32) && decide (a < 32) && decide (l < 64) && decide (w < 64) && decide (l + w < 64)
  | .extru d a l w => decide (d < 32) && decide (a < 32) && decide (l < 64) && decide (w < 64) && decide (l + w < 64)
  | .ins d a l w => decide (d < 32) && decide (a < 32) && decide (l < 64) && decide (w < 64) && decide (l + w < 64)
  | .beq a b o => decide (a < 32) && decide (b < 32) && decide (o < 65536)
  | .bne a b o => decide (a < 32) && decide (b < 32) && decide (o < 65536)
  | .blt a b o => decide (a < 32) && decide (b < 32) && decide (o < 65536)
  | .bge a b o => decide (a < 32) && decide (b < 32) && decide (o < 65536)
  | .bltu a b o => decide (a < 32) && decide (b < 32) && decide (o < 65536)
  | .bgeu a b o => decide (a < 32) && decide (b < 32) && decide (o < 65536)
  | .jal o => decide (o < 67108864)
  | .jalr a i => decide (a < 32) && decide (i < 65536)
  | .ldB t b c p o => decide (t < 32) && decide (b < 32) && decide (c < 8) && decide (p < 4) && decide (o < 2048) && decide (p ≠ 3)
  | .ldBu t b c p o => decide (t < 32) && decide (b < 32) && decide (c < 8) && decide (p < 4) && decide (o < 2048) && decide (p ≠ 3)
  | .ldH t b c p o => decide (t < 32) && decide (b < 32) && decide (c < 8) && decide (p < 4) && decide (o < 2048) && decide (p ≠ 3)
  | .ldHu t b c p o => decide (t < 32) && decide (b < 32) && decide (c < 8) && decide (p < 4) && decide (o < 2048) && decide (p ≠ 3)
  | .ldW t b c p o => decide (t < 32) && decide (b < 32) && decide (c < 8) && decide (p < 4) && decide (o < 2048) && decide (p ≠ 3)
  | .ldWu t b c p o => decide (t < 32) && decide (b < 32) && decide (c < 8) && decide (p < 4) && decide (o < 2048) && decide (p ≠ 3)
  | .ldD t b c p o => decide (t < 32) && decide (b < 32) && decide (c < 8) && decide (p < 4) && decide (o < 2048) && decide (p ≠ 3)
  | .ldX t b c p o => decide (t < 16) && decide (b < 32) && decide (c < 8) && decide (p < 4) && decide (o < 2048) && decide (p ≠ 3)
  | .stB t b c p o => decide (t < 32) && decide (b < 32) && decide (c < 8) && decide (p < 2) && decide (o < 2048)
  | .stH t b c p o => decide (t < 32) && decide (b < 32) && decide (c < 8) && decide (p < 2) && decide (o < 2048)
  | .stW t b c p o => decide (t < 32) && decide (b < 32) && decide (c < 8) && decide (p < 2) && decide (o < 2048)
  | .stD t b c p o => decide (t < 32) && decide (b < 32) && decide (c < 8) && decide (p < 2) && decide (o < 2048)
  | .stX t b c p o => decide (t < 16) && decide (b < 32) && decide (c < 8) && decide (p < 2) && decide (o < 2048)
  | .pf w b c p o => decide (w < 2) && decide (b < 32) && decide (c < 8) && decide (p < 2) && decide (o < 2048)
  | .amoAdd d a b o s z => decide (d < 32) && decide (a < 32) && decide (b < 32) && decide (o < 4) && decide (s < 8) && decide (z < 2) && decide (s ≤ 4)
  | .amoAnd d a b o s z => decide (d < 32) && decide (a < 32) && decide (b < 32) && decide (o < 4) && decide (s < 8) && decide (z < 2) && decide (s ≤ 4)
  | .amoOr d a b o s z => decide (d < 32) && decide (a < 32) && decide (b < 32) && decide (o < 4) && decide (s < 8) && decide (z < 2) && decide (s ≤ 4)
  | .amoXor d a b o s z => decide (d < 32) && decide (a < 32) && decide (b < 32) && decide (o < 4) && decide (s < 8) && decide (z < 2) && decide (s ≤ 4)
  | .amoSwap d a b o s z => decide (d < 32) && decide (a < 32) && decide (b < 32) && decide (o < 4) && decide (s < 8) && decide (z < 2) && decide (s ≤ 4)
  | .amoMin d a b o s z => decide (d < 32) && decide (a < 32) && decide (b < 32) && decide (o < 4) && decide (s < 8) && decide (z < 2) && decide (s ≤ 4)
  | .amoMax d a b o s z => decide (d < 32) && decide (a < 32) && decide (b < 32) && decide (o < 4) && decide (s < 8) && decide (z < 2) && decide (s ≤ 4)
  | .amoMinu d a b o s z => decide (d < 32) && decide (a < 32) && decide (b < 32) && decide (o < 4) && decide (s < 8) && decide (z < 2) && decide (s ≤ 4)
  | .amoMaxu d a b o s z => decide (d < 32) && decide (a < 32) && decide (b < 32) && decide (o < 4) && decide (s < 8) && decide (z < 2) && decide (s ≤ 4)
  | .cas d a b o s z => decide (d < 32) && decide (a < 32) && decide (b < 32) && decide (o < 4) && decide (s < 8) && decide (z < 2) && decide (s ≤ 4)
  | .aincb d a b o s z => decide (d < 32) && decide (a < 32) && decide (b < 32) && decide (o < 4) && decide (s < 8) && decide (z < 2) && decide (s ≤ 4)
  | .adecz d a o s z => decide (d < 32) && decide (a < 32) && decide (o < 4) && decide (s < 8) && decide (z < 2) && decide (s ≤ 4)
  | .fenceAcq s m => decide (s < 8) && decide (m < 256) && decide (s ≤ 5)
  | .fenceRel s m => decide (s < 8) && decide (m < 256) && decide (s ≤ 5)
  | .fenceFull s m => decide (s < 8) && decide (m < 256) && decide (s ≤ 5)
  | .fencePersist s m => decide (s < 8) && decide (m < 256) && decide (s ≤ 5)
  | .l1inv c => decide (c < 4) && decide (c ≠ 0)
  | .dinv a => decide (a < 32)
  | .waitwNe d a b z => decide (d < 32) && decide (a < 32) && decide (b < 32) && decide (z < 2)
  | .waitwEq d a b z => decide (d < 32) && decide (a < 32) && decide (b < 32) && decide (z < 2)
  | .qpush g s q t r => decide (g < 32) && decide (s < 32) && decide (q < 16) && decide (t < 2) && decide (r < 2) && decide ((t = 1 ∨ g = 0))
  | .qpop d s q t a => decide (d < 32) && decide (s < 32) && decide (q < 16) && decide (t < 2) && decide (a < 2) && decide ((t = 1 ∨ s = 0))
  | .qpeek d s q t a => decide (d < 32) && decide (s < 32) && decide (q < 16) && decide (t < 2) && decide (a < 2) && decide ((t = 1 ∨ s = 0))
  | .qclasp g q t r l => decide (g < 32) && decide (q < 16) && decide (t < 2) && decide (r < 2) && decide (l < 8) && decide (l ≠ 0 ∧ (t = 1 ∨ g = 0))
  | .qstat d q c => decide (d < 32) && decide (q < 16) && decide (c < 4)
  | .bqpop d q a n => decide (d < 32) && decide (q < 16) && decide (a < 2) && decide (n < 64)
  | .qbind s q b o => decide (s < 32) && decide (q < 16) && decide (b < 2) && decide (o < 2) && decide ((b = 0 ∨ o = 0))
  | .strm d a => decide (d < 32) && decide (a < 32)
  | .strmwait a => decide (a < 32)
  | .strmkill a => decide (a < 32)
  | .copy d a => decide (d < 32) && decide (a < 32)
  | .cwait a => decide (a < 32)
  | .cpoll d a => decide (d < 32) && decide (a < 32)
  | .place d a => decide (d < 32) && decide (a < 32)
  | .sect a b => decide (a < 32) && decide (b < 32)
  | .mark d => decide (d < 32)
  | .cutwait a => decide (a < 32)
  | .release a => decide (a < 32)
  | .tqpush a b => decide (a < 32) && decide (b < 32)
  | .renq a b => decide (a < 32) && decide (b < 32)
  | .tspawn d a b => decide (d < 32) && decide (a < 32) && decide (b < 32)
  | .texit => true
  | .yield => true
  | .tresume a => decide (a < 32)
  | .trap c => decide (c < 4096)
  | .eret => true
  | .crr d n => decide (d < 32) && decide (n < 4096) && crnListed n
  | .crw a n => decide (a < 32) && decide (n < 4096) && crnListed n
  | .crs d a n => decide (d < 32) && decide (a < 32) && decide (n < 4096) && crnListed n
  | .crc d a n => decide (d < 32) && decide (a < 32) && decide (n < 4096) && crnListed n
  | .tlbinv d a r k => decide (d < 32) && decide (a < 32) && decide (r < 2) && decide (k < 8) && decide (k ≤ 4)
  | .halt => true
  | .selftest d a => decide (d < 32) && decide (a < 32)
  | .asyncTrapEntry _ _ => true
  | .timerExpiry _ _ => true
  | .blockedWake _ _ => true
  | .waitwPoll _ _ => true
  | .loadDataReturn _ _ _ => true
  | .wcbDrain _ _ => true
  | .storePerformed _ _ => true
  | .walkDone _ _ => true
  | .faultEntryWrite _ => true
  | .fqbaseWrite _ _ => true
  | .fqheadWrite _ _ => true
  | .fresume _ _ => true
  | .engineCommandStart _ _ => true
  | .threadCommandStart _ => true
  | .streamLineReturn _ _ _ => true
  | .streamPark _ _ => true
  | .streamDrainPop _ _ => true
  | .copyLine _ _ => true
  | .streamComplete _ _ => true
  | .copyComplete _ _ => true
  | .configStreamApply _ _ => true
  | .monselClear _ _ _ => true
  | .lossOfDecoupling _ => true
  | .probeStart _ _ => true
  | .probeHop _ => true
  | .governorEvaluation _ _ _ => true
  | .thermalStop _ => true
  | .thermalRestart _ => true
  | .coldReset => true
  | .warmReset => true
  | .functionReset => true
  | .resetctlWarm _ => true
  | .rootctlGo _ => true
  | .hostMemRead _ _ _ => true
  | .hostMemWrite _ _ _ _ => true
  | .snoopResponse _ _ _ => true
  | .hostAppend _ _ => true
  | .hostAccessCompletion _ _ _ => true
  | .persistAck _ _ _ => true
  | .hostLinkDown => true
  | .msixUnmask _ => true
  | .getVersion => true
  | .getCapabilities _ => true
  | .negotiateAlgorithms _ _ => true
  | .getDigests => true
  | .getCertificate _ _ _ => true
  | .challenge _ _ => true
  | .getMeasurements _ _ => true
  | .mctpControl _ _ => true
  | .mgmtReadStatus => true
  | .mgmtSetPowerCap _ => true
  | .mgmtClearPowerCap => true
  | .mgmtWarmReset _ => true
  | .mgmtFirmwareUpdate _ _ _ => true
  | .flitReceive _ _ _ _ _ => true
  | .portFailure _ _ => true
  | .portTrainingDone _ _ => true
  | .lnkctlRetrain _ => true
  | .portDisable _ => true
  | .portEnable _ => true
  | .packetReceive _ _ => true
  | .remoteRequest => true
  | .remoteResponse => true
  | .requestTimeout _ => true
  | .circuitDataReceive => true
  | .circuitCreditReceive => true
  | .stepDataReceive => true
  | .stepAckReceive => true
  | .stepTimeout _ _ => true
  | .pick _ => true
  | .taskComplete _ => true
  | .releaseBufferAppend _ => true
  | .spillRefill _ => true
  | .qcfgResume _ => true
  | .placementTimeout _ => true
  | .startToken _ => true
  | .switchRoute _ _ _ => true
  | .fire _ _ => true
  | .csrcEmit _ _ => true
  | .bankSwap _ => true
  | .timedTick _ => true
  | .blockReady _ => true
  | .groupAdvance _ _ => true
  | .outputMove _ => true
  | .stagingSend _ => true
  | .tstoreWrite _ => true
  | .generatorStep _ _ => true
  | .fifoTake _ => true
  | .fifoEmit _ => true
  | .lbufTake _ => true
  | .rptCapture _ => true
  | .cdownScan _ => true
  | .cdownDecrement _ => true
  | .ltabLookup _ => true
  | .selftestDone _ _ => true
  | .segmentCommit _ => true
  | .scrubVisit _ _ => true
  | .scrubClear _ => true
  | .scrubPoison _ => true
  | .loadctlPreempt _ _ => true
  | .loadctlRestore _ _ => true
  | .loadctlKill _ _ => true
  | .elementAlign _ => true
  | .drainSave _ => true
  | .resumeToken _ => true
  | .occupancySweep => true
  | .loadFinish _ => true
  | .registerWrite _ _ _ => true
  | .powerOff => true
  | .aPortTake _ => true
  | .bPortTake _ _ => true
  | .resultEntersOutputRegister _ _ => true
  | .multiplyOrDivideCompletes _ _ => true

end Sys2Proof
end

