-- ==== Sys2Proof/Decode.lean ====
section
/-! DEFINITION. Decoding and encoding of the access instruction words (spec/15_isa_formats.md R312 to R323): decoding
is total on every word and on every list of bytes, and answers none for a word that is illegal (R323). -/

namespace Sys2Proof

/-- The n bits of w from bit lo upward (00 R3). -/
def fld (w lo n : Nat) : Nat := w / 2 ^ lo % 2 ^ n

/-- The instructions of major 0x01 (Table 15-3), by their discriminating field. -/
def parse01 (f w : Nat) : Option Instr :=
  match f with
  | 0 => some (.add (fld w 21 5) (fld w 16 5) (fld w 11 5))
  | 16 => some (.sub (fld w 21 5) (fld w 16 5) (fld w 11 5))
  | 32 => some (.and (fld w 21 5) (fld w 16 5) (fld w 11 5))
  | 48 => some (.or (fld w 21 5) (fld w 16 5) (fld w 11 5))
  | 64 => some (.xor (fld w 21 5) (fld w 16 5) (fld w 11 5))
  | 80 => some (.andn (fld w 21 5) (fld w 16 5) (fld w 11 5))
  | 96 => some (.orn (fld w 21 5) (fld w 16 5) (fld w 11 5))
  | 112 => some (.sll (fld w 21 5) (fld w 16 5) (fld w 11 5))
  | 128 => some (.srl (fld w 21 5) (fld w 16 5) (fld w 11 5))
  | 144 => some (.sra (fld w 21 5) (fld w 16 5) (fld w 11 5))
  | 160 => some (.ror (fld w 21 5) (fld w 16 5) (fld w 11 5))
  | 176 => some (.mul (fld w 21 5) (fld w 16 5) (fld w 11 5))
  | 192 => some (.mulh (fld w 21 5) (fld w 16 5) (fld w 11 5))
  | 208 => some (.mulhu (fld w 21 5) (fld w 16 5) (fld w 11 5))
  | 224 => some (.div (fld w 21 5) (fld w 16 5) (fld w 11 5))
  | 240 => some (.divu (fld w 21 5) (fld w 16 5) (fld w 11 5))
  | 256 => some (.rem (fld w 21 5) (fld w 16 5) (fld w 11 5))
  | 272 => some (.remu (fld w 21 5) (fld w 16 5) (fld w 11 5))
  | 288 => some (.min (fld w 21 5) (fld w 16 5) (fld w 11 5))
  | 304 => some (.max (fld w 21 5) (fld w 16 5) (fld w 11 5))
  | 320 => some (.minu (fld w 21 5) (fld w 16 5) (fld w 11 5))
  | 336 => some (.maxu (fld w 21 5) (fld w 16 5) (fld w 11 5))
  | 352 => some (.slt (fld w 21 5) (fld w 16 5) (fld w 11 5))
  | 368 => some (.sltu (fld w 21 5) (fld w 16 5) (fld w 11 5))
  | 384 => some (.seq (fld w 21 5) (fld w 16 5) (fld w 11 5))
  | 400 => some (.sne (fld w 21 5) (fld w 16 5) (fld w 11 5))
  | 416 | 417 | 418 | 419 => some (.lea (fld w 21 5) (fld w 16 5) (fld w 11 5) (fld w 0 2))
  | 432 => if fld w 11 5 = 0 then some (.clz (fld w 21 5) (fld w 16 5)) else none
  | 448 => if fld w 11 5 = 0 then some (.ctz (fld w 21 5) (fld w 16 5)) else none
  | 464 => if fld w 11 5 = 0 then some (.popc (fld w 21 5) (fld w 16 5)) else none
  | 480 => if fld w 11 5 = 0 then some (.bswap (fld w 21 5) (fld w 16 5)) else none
  | 496 => if fld w 11 5 = 0 then some (.sextB (fld w 21 5) (fld w 16 5)) else none
  | 497 => if fld w 11 5 = 0 then some (.sextH (fld w 21 5) (fld w 16 5)) else none
  | 498 => if fld w 11 5 = 0 then some (.sextW (fld w 21 5) (fld w 16 5)) else none
  | 512 => if fld w 11 5 = 0 then some (.zextB (fld w 21 5) (fld w 16 5)) else none
  | 513 => if fld w 11 5 = 0 then some (.zextH (fld w 21 5) (fld w 16 5)) else none
  | 514 => if fld w 11 5 = 0 then some (.zextW (fld w 21 5) (fld w 16 5)) else none
  | 528 => some (.csel (fld w 21 5) (fld w 16 5) (fld w 11 5))
  | _ => none

/-- The instructions of major 0x0A (R316), by their discriminating field. -/
def parse0A (f w : Nat) : Option Instr :=
  match f with
  | 0 => some (.slli (fld w 21 5) (fld w 16 5) (fld w 0 6))
  | 1 => some (.srli (fld w 21 5) (fld w 16 5) (fld w 0 6))
  | 2 => some (.srai (fld w 21 5) (fld w 16 5) (fld w 0 6))
  | 3 => some (.rori (fld w 21 5) (fld w 16 5) (fld w 0 6))
  | _ => none

/-- The instructions of major 0x0B (R316). -/
def parse0B (w : Nat) : Option Instr :=
  if fld w 18 3 = 0 then some (.lui (fld w 21 5) (fld w 16 2) (fld w 0 16)) else none

/-- The instructions of major 0x0C (R316). -/
def parse0C (w : Nat) : Option Instr :=
  if fld w 16 5 = 0 then some (.addpc (fld w 21 5) (fld w 0 16)) else none

/-- The instructions of major 0x0D (R316), by their discriminating field. -/
def parse0D (f w : Nat) : Option Instr :=
  match f with
  | 0 => if fld w 0 2 = 0 then some (.extr (fld w 21 5) (fld w 16 5) (fld w 8 6) (fld w 2 6)) else none
  | 1 => if fld w 0 2 = 0 then some (.extru (fld w 21 5) (fld w 16 5) (fld w 8 6) (fld w 2 6)) else none
  | 2 => if fld w 0 2 = 0 then some (.ins (fld w 21 5) (fld w 16 5) (fld w 8 6) (fld w 2 6)) else none
  | _ => none

/-- The instructions of major 0x17 (R316). -/
def parse17 (w : Nat) : Option Instr :=
  if fld w 21 5 = 0 then some (.jalr (fld w 16 5) (fld w 0 16)) else none

/-- The instructions of major 0x1F (R317). -/
def parse1F (w : Nat) : Option Instr :=
  if fld w 21 1 = 0 then some (.ldX (fld w 22 4) (fld w 16 5) (fld w 13 3) (fld w 11 2) (fld w 0 11)) else none

/-- The instructions of major 0x20 (R317). -/
def parse20 (w : Nat) : Option Instr :=
  if fld w 11 1 = 0 then some (.stB (fld w 21 5) (fld w 16 5) (fld w 13 3) (fld w 12 1) (fld w 0 11)) else none

/-- The instructions of major 0x21 (R317). -/
def parse21 (w : Nat) : Option Instr :=
  if fld w 11 1 = 0 then some (.stH (fld w 21 5) (fld w 16 5) (fld w 13 3) (fld w 12 1) (fld w 0 11)) else none

/-- The instructions of major 0x22 (R317). -/
def parse22 (w : Nat) : Option Instr :=
  if fld w 11 1 = 0 then some (.stW (fld w 21 5) (fld w 16 5) (fld w 13 3) (fld w 12 1) (fld w 0 11)) else none

/-- The instructions of major 0x23 (R317). -/
def parse23 (w : Nat) : Option Instr :=
  if fld w 11 1 = 0 then some (.stD (fld w 21 5) (fld w 16 5) (fld w 13 3) (fld w 12 1) (fld w 0 11)) else none

/-- The instructions of major 0x24 (R317). -/
def parse24 (w : Nat) : Option Instr :=
  if fld w 11 1 = 0 ∧ fld w 21 1 = 0 then some (.stX (fld w 22 4) (fld w 16 5) (fld w 13 3) (fld w 12 1) (fld w 0 11)) else none

/-- The instructions of major 0x25 (R317). -/
def parse25 (w : Nat) : Option Instr :=
  if fld w 11 1 = 0 ∧ fld w 22 4 = 0 then some (.pf (fld w 21 1) (fld w 16 5) (fld w 13 3) (fld w 12 1) (fld w 0 11)) else none

/-- The instructions of major 0x26 (Table 15-5), by their discriminating field. -/
def parse26 (f w : Nat) : Option Instr :=
  match f with
  | 0 => if fld w 1 1 = 1 then some (.amoAdd (fld w 21 5) (fld w 16 5) (fld w 11 5) (fld w 5 2) (fld w 2 3) (fld w 0 1)) else none
  | 1 => if fld w 1 1 = 1 then some (.amoAnd (fld w 21 5) (fld w 16 5) (fld w 11 5) (fld w 5 2) (fld w 2 3) (fld w 0 1)) else none
  | 2 => if fld w 1 1 = 1 then some (.amoOr (fld w 21 5) (fld w 16 5) (fld w 11 5) (fld w 5 2) (fld w 2 3) (fld w 0 1)) else none
  | 3 => if fld w 1 1 = 1 then some (.amoXor (fld w 21 5) (fld w 16 5) (fld w 11 5) (fld w 5 2) (fld w 2 3) (fld w 0 1)) else none
  | 4 => if fld w 1 1 = 1 then some (.amoSwap (fld w 21 5) (fld w 16 5) (fld w 11 5) (fld w 5 2) (fld w 2 3) (fld w 0 1)) else none
  | 5 => if fld w 1 1 = 1 then some (.amoMin (fld w 21 5) (fld w 16 5) (fld w 11 5) (fld w 5 2) (fld w 2 3) (fld w 0 1)) else none
  | 6 => if fld w 1 1 = 1 then some (.amoMax (fld w 21 5) (fld w 16 5) (fld w 11 5) (fld w 5 2) (fld w 2 3) (fld w 0 1)) else none
  | 7 => if fld w 1 1 = 1 then some (.amoMinu (fld w 21 5) (fld w 16 5) (fld w 11 5) (fld w 5 2) (fld w 2 3) (fld w 0 1)) else none
  | 8 => if fld w 1 1 = 1 then some (.amoMaxu (fld w 21 5) (fld w 16 5) (fld w 11 5) (fld w 5 2) (fld w 2 3) (fld w 0 1)) else none
  | 9 => if fld w 1 1 = 1 then some (.cas (fld w 21 5) (fld w 16 5) (fld w 11 5) (fld w 5 2) (fld w 2 3) (fld w 0 1)) else none
  | 10 => if fld w 1 1 = 1 then some (.aincb (fld w 21 5) (fld w 16 5) (fld w 11 5) (fld w 5 2) (fld w 2 3) (fld w 0 1)) else none
  | 11 => if fld w 1 1 = 1 ∧ fld w 11 5 = 0 then some (.adecz (fld w 21 5) (fld w 16 5) (fld w 5 2) (fld w 2 3) (fld w 0 1)) else none
  | _ => none

/-- The instructions of major 0x27 (R319), by their discriminating field. -/
def parse27 (f w : Nat) : Option Instr :=
  match f with
  | 0 => if fld w 0 11 = 0 then some (.fenceAcq (fld w 19 3) (fld w 11 8)) else none
  | 1 => if fld w 0 11 = 0 then some (.fenceRel (fld w 19 3) (fld w 11 8)) else none
  | 2 => if fld w 0 11 = 0 then some (.fenceFull (fld w 19 3) (fld w 11 8)) else none
  | 3 => if fld w 0 11 = 0 then some (.fencePersist (fld w 19 3) (fld w 11 8)) else none
  | _ => none

/-- The instructions of major 0x28 (R319), by their discriminating field. -/
def parse28 (f w : Nat) : Option Instr :=
  match f with
  | 0 => if fld w 2 10 = 0 ∧ fld w 16 10 = 0 then some (.l1inv (fld w 0 2)) else none
  | 1 => if fld w 0 12 = 0 ∧ fld w 21 5 = 0 then some (.dinv (fld w 16 5)) else none
  | _ => none

/-- The instructions of major 0x29 (R319), by their discriminating field. -/
def parse29 (f w : Nat) : Option Instr :=
  match f with
  | 0 => if fld w 1 3 = 1 then some (.waitwNe (fld w 21 5) (fld w 16 5) (fld w 11 5) (fld w 0 1)) else none
  | 1 => if fld w 1 3 = 1 then some (.waitwEq (fld w 21 5) (fld w 16 5) (fld w 11 5) (fld w 0 1)) else none
  | _ => none

/-- The instructions of major 0x2C (Table 15-6), by their discriminating field. -/
def parse2C (f w : Nat) : Option Instr :=
  match f with
  | 0 => if fld w 0 7 = 0 then some (.qpush (fld w 21 5) (fld w 16 5) (fld w 12 4) (fld w 8 1) (fld w 7 1)) else none
  | 1 => if fld w 0 7 = 0 then some (.qpop (fld w 21 5) (fld w 16 5) (fld w 12 4) (fld w 8 1) (fld w 7 1)) else none
  | 2 => if fld w 0 7 = 0 then some (.qpeek (fld w 21 5) (fld w 16 5) (fld w 12 4) (fld w 8 1) (fld w 7 1)) else none
  | 3 => if fld w 3 4 = 0 ∧ fld w 16 5 = 0 then some (.qclasp (fld w 21 5) (fld w 12 4) (fld w 8 1) (fld w 7 1) (fld w 0 3)) else none
  | 4 => if fld w 2 7 = 0 ∧ fld w 16 5 = 0 then some (.qstat (fld w 21 5) (fld w 12 4) (fld w 0 2)) else none
  | 5 => if fld w 6 1 = 0 ∧ fld w 8 1 = 0 ∧ fld w 16 5 = 0 then some (.bqpop (fld w 21 5) (fld w 12 4) (fld w 7 1) (fld w 0 6)) else none
  | 6 => if fld w 2 7 = 0 ∧ fld w 21 5 = 0 then some (.qbind (fld w 16 5) (fld w 12 4) (fld w 1 1) (fld w 0 1)) else none
  | _ => none

/-- The instructions of major 0x30 (Table 15-7), by their discriminating field. -/
def parse30 (f w : Nat) : Option Instr :=
  match f with
  | 0 => if fld w 11 5 = 0 then some (.strm (fld w 21 5) (fld w 16 5)) else none
  | 16 => if fld w 11 5 = 0 ∧ fld w 21 5 = 0 then some (.strmwait (fld w 16 5)) else none
  | 32 => if fld w 11 5 = 0 ∧ fld w 21 5 = 0 then some (.strmkill (fld w 16 5)) else none
  | 48 => if fld w 11 5 = 0 then some (.copy (fld w 21 5) (fld w 16 5)) else none
  | 64 => if fld w 11 5 = 0 ∧ fld w 21 5 = 0 then some (.cwait (fld w 16 5)) else none
  | 80 => if fld w 11 5 = 0 then some (.cpoll (fld w 21 5) (fld w 16 5)) else none
  | _ => none

/-- The instructions of major 0x31 (Table 15-7), by their discriminating field. -/
def parse31 (f w : Nat) : Option Instr :=
  match f with
  | 0 => if fld w 11 5 = 0 then some (.place (fld w 21 5) (fld w 16 5)) else none
  | 16 => if fld w 21 5 = 0 then some (.sect (fld w 16 5) (fld w 11 5)) else none
  | 32 => if fld w 11 10 = 0 then some (.mark (fld w 21 5)) else none
  | 48 => if fld w 11 5 = 0 ∧ fld w 21 5 = 0 then some (.cutwait (fld w 16 5)) else none
  | 64 => if fld w 11 5 = 0 ∧ fld w 21 5 = 0 then some (.release (fld w 16 5)) else none
  | _ => none

/-- The instructions of major 0x32 (Table 15-7), by their discriminating field. -/
def parse32 (f w : Nat) : Option Instr :=
  match f with
  | 0 => if fld w 21 5 = 0 then some (.tqpush (fld w 16 5) (fld w 11 5)) else none
  | 16 => if fld w 21 5 = 0 then some (.renq (fld w 16 5) (fld w 11 5)) else none
  | 32 => some (.tspawn (fld w 21 5) (fld w 16 5) (fld w 11 5))
  | 48 => if fld w 11 15 = 0 then some (.texit) else none
  | 64 => if fld w 11 15 = 0 then some (.yield) else none
  | 80 => if fld w 11 5 = 0 ∧ fld w 21 5 = 0 then some (.tresume (fld w 16 5)) else none
  | _ => none

/-- The instructions of major 0x3C (Table 15-8), by their discriminating field. -/
def parse3C (f w : Nat) : Option Instr :=
  match f with
  | 0 => if fld w 16 10 = 0 then some (.trap (fld w 0 12)) else none
  | 1 => if fld w 0 12 = 0 ∧ fld w 16 10 = 0 then some (.eret) else none
  | 2 => if fld w 16 5 = 0 then some (.crr (fld w 21 5) (fld w 0 12)) else none
  | 3 => if fld w 21 5 = 0 then some (.crw (fld w 16 5) (fld w 0 12)) else none
  | 4 => some (.crs (fld w 21 5) (fld w 16 5) (fld w 0 12))
  | 5 => some (.crc (fld w 21 5) (fld w 16 5) (fld w 0 12))
  | 6 => if fld w 4 8 = 0 then some (.tlbinv (fld w 21 5) (fld w 16 5) (fld w 3 1) (fld w 0 3)) else none
  | 7 => if fld w 0 12 = 0 ∧ fld w 16 10 = 0 then some (.halt) else none
  | 8 => if fld w 0 12 = 0 then some (.selftest (fld w 21 5) (fld w 16 5)) else none
  | _ => none

/-- The instruction of a word whose major opcode is m (R314, Table 15-2). -/
def parseMajor (m w : Nat) : Option Instr :=
  match m with
  | 0x01 => parse01 (fld w 0 11) w
  | 0x04 => some (.addi (fld w 21 5) (fld w 16 5) (fld w 0 16))
  | 0x05 => some (.andi (fld w 21 5) (fld w 16 5) (fld w 0 16))
  | 0x06 => some (.ori (fld w 21 5) (fld w 16 5) (fld w 0 16))
  | 0x07 => some (.xori (fld w 21 5) (fld w 16 5) (fld w 0 16))
  | 0x08 => some (.slti (fld w 21 5) (fld w 16 5) (fld w 0 16))
  | 0x09 => some (.sltiu (fld w 21 5) (fld w 16 5) (fld w 0 16))
  | 0x0A => parse0A (fld w 6 10) w
  | 0x0B => parse0B w
  | 0x0C => parse0C w
  | 0x0D => parse0D (fld w 14 2) w
  | 0x10 => some (.beq (fld w 21 5) (fld w 16 5) (fld w 0 16))
  | 0x11 => some (.bne (fld w 21 5) (fld w 16 5) (fld w 0 16))
  | 0x12 => some (.blt (fld w 21 5) (fld w 16 5) (fld w 0 16))
  | 0x13 => some (.bge (fld w 21 5) (fld w 16 5) (fld w 0 16))
  | 0x14 => some (.bltu (fld w 21 5) (fld w 16 5) (fld w 0 16))
  | 0x15 => some (.bgeu (fld w 21 5) (fld w 16 5) (fld w 0 16))
  | 0x16 => some (.jal (fld w 0 26))
  | 0x17 => parse17 w
  | 0x18 => some (.ldB (fld w 21 5) (fld w 16 5) (fld w 13 3) (fld w 11 2) (fld w 0 11))
  | 0x19 => some (.ldBu (fld w 21 5) (fld w 16 5) (fld w 13 3) (fld w 11 2) (fld w 0 11))
  | 0x1A => some (.ldH (fld w 21 5) (fld w 16 5) (fld w 13 3) (fld w 11 2) (fld w 0 11))
  | 0x1B => some (.ldHu (fld w 21 5) (fld w 16 5) (fld w 13 3) (fld w 11 2) (fld w 0 11))
  | 0x1C => some (.ldW (fld w 21 5) (fld w 16 5) (fld w 13 3) (fld w 11 2) (fld w 0 11))
  | 0x1D => some (.ldWu (fld w 21 5) (fld w 16 5) (fld w 13 3) (fld w 11 2) (fld w 0 11))
  | 0x1E => some (.ldD (fld w 21 5) (fld w 16 5) (fld w 13 3) (fld w 11 2) (fld w 0 11))
  | 0x1F => parse1F w
  | 0x20 => parse20 w
  | 0x21 => parse21 w
  | 0x22 => parse22 w
  | 0x23 => parse23 w
  | 0x24 => parse24 w
  | 0x25 => parse25 w
  | 0x26 => parse26 (fld w 7 4) w
  | 0x27 => parse27 (fld w 22 4) w
  | 0x28 => parse28 (fld w 12 4) w
  | 0x29 => parse29 (fld w 4 7) w
  | 0x2C => parse2C (fld w 9 3) w
  | 0x30 => parse30 (fld w 0 11) w
  | 0x31 => parse31 (fld w 0 11) w
  | 0x32 => parse32 (fld w 0 11) w
  | 0x3C => parse3C (fld w 12 4) w
  | _ => none

/-- The instruction whose fixed fields a word holds. -/
def parse (w : Nat) : Option Instr := parseMajor (fld w 26 6) w

/-- Decoding of a 32-bit word: the instruction it encodes, or none when the word is illegal (R323). -/
def decode (w : Nat) : Option Instr :=
  match parse w with
  | some i => if i.wf then some i else none
  | none => none

/-- A word from its bytes, the first at the lowest address and so the least significant (R312, 00 R3). -/
def wordOfBytes : List Byte → Nat
  | [] => 0
  | b :: bs => b.toNat + 256 * wordOfBytes bs

/-- The n bytes of a number, least significant first (00 R3). -/
def bytesOf : Nat → Nat → List Byte
  | 0, _ => []
  | n + 1, w => BitVec.ofNat 8 w :: bytesOf n (w / 256)

/-- Decoding of the bytes at an instruction address: the instruction of the first four, and the bytes after them. -/
def decodeBytes (bs : List Byte) : Option (Instr × List Byte) :=
  match bs with
  | b0 :: b1 :: b2 :: b3 :: rest =>
    match decode (wordOfBytes [b0, b1, b2, b3]) with
    | some i => some (i, rest)
    | none => none
  | _ => none

/-- What the decoder reads from an instruction whose table bits are w, laid out in memory as the hardware stores it. -/
def decodeTableWord (nbits w : Nat) : Option Instr :=
  match decodeBytes (bytesOf 4 (w % 2 ^ nbits)) with
  | some (i, _) => some i
  | none => none

/-- The word that holds fields of given widths, the first in the lowest bits (R313, 00 R3). -/
def pack : List (Nat × Nat) → Nat
  | [] => 0
  | (v, w) :: r => v % 2 ^ w + 2 ^ w * pack r

/-- The word of an instruction, from the same tables of the spec; none for an event, which has no encoding. -/
def encode (i : Instr) : Option Nat :=
  match i with
  | .add d a b => some (pack [(0, 11), (b, 5), (a, 5), (d, 5), (0x01, 6)])
  | .sub d a b => some (pack [(16, 11), (b, 5), (a, 5), (d, 5), (0x01, 6)])
  | .and d a b => some (pack [(32, 11), (b, 5), (a, 5), (d, 5), (0x01, 6)])
  | .or d a b => some (pack [(48, 11), (b, 5), (a, 5), (d, 5), (0x01, 6)])
  | .xor d a b => some (pack [(64, 11), (b, 5), (a, 5), (d, 5), (0x01, 6)])
  | .andn d a b => some (pack [(80, 11), (b, 5), (a, 5), (d, 5), (0x01, 6)])
  | .orn d a b => some (pack [(96, 11), (b, 5), (a, 5), (d, 5), (0x01, 6)])
  | .sll d a b => some (pack [(112, 11), (b, 5), (a, 5), (d, 5), (0x01, 6)])
  | .srl d a b => some (pack [(128, 11), (b, 5), (a, 5), (d, 5), (0x01, 6)])
  | .sra d a b => some (pack [(144, 11), (b, 5), (a, 5), (d, 5), (0x01, 6)])
  | .ror d a b => some (pack [(160, 11), (b, 5), (a, 5), (d, 5), (0x01, 6)])
  | .mul d a b => some (pack [(176, 11), (b, 5), (a, 5), (d, 5), (0x01, 6)])
  | .mulh d a b => some (pack [(192, 11), (b, 5), (a, 5), (d, 5), (0x01, 6)])
  | .mulhu d a b => some (pack [(208, 11), (b, 5), (a, 5), (d, 5), (0x01, 6)])
  | .div d a b => some (pack [(224, 11), (b, 5), (a, 5), (d, 5), (0x01, 6)])
  | .divu d a b => some (pack [(240, 11), (b, 5), (a, 5), (d, 5), (0x01, 6)])
  | .rem d a b => some (pack [(256, 11), (b, 5), (a, 5), (d, 5), (0x01, 6)])
  | .remu d a b => some (pack [(272, 11), (b, 5), (a, 5), (d, 5), (0x01, 6)])
  | .min d a b => some (pack [(288, 11), (b, 5), (a, 5), (d, 5), (0x01, 6)])
  | .max d a b => some (pack [(304, 11), (b, 5), (a, 5), (d, 5), (0x01, 6)])
  | .minu d a b => some (pack [(320, 11), (b, 5), (a, 5), (d, 5), (0x01, 6)])
  | .maxu d a b => some (pack [(336, 11), (b, 5), (a, 5), (d, 5), (0x01, 6)])
  | .slt d a b => some (pack [(352, 11), (b, 5), (a, 5), (d, 5), (0x01, 6)])
  | .sltu d a b => some (pack [(368, 11), (b, 5), (a, 5), (d, 5), (0x01, 6)])
  | .seq d a b => some (pack [(384, 11), (b, 5), (a, 5), (d, 5), (0x01, 6)])
  | .sne d a b => some (pack [(400, 11), (b, 5), (a, 5), (d, 5), (0x01, 6)])
  | .lea d a b s => some (pack [(s, 2), (104, 9), (b, 5), (a, 5), (d, 5), (0x01, 6)])
  | .clz d a => some (pack [(432, 16), (a, 5), (d, 5), (0x01, 6)])
  | .ctz d a => some (pack [(448, 16), (a, 5), (d, 5), (0x01, 6)])
  | .popc d a => some (pack [(464, 16), (a, 5), (d, 5), (0x01, 6)])
  | .bswap d a => some (pack [(480, 16), (a, 5), (d, 5), (0x01, 6)])
  | .sextB d a => some (pack [(496, 16), (a, 5), (d, 5), (0x01, 6)])
  | .sextH d a => some (pack [(497, 16), (a, 5), (d, 5), (0x01, 6)])
  | .sextW d a => some (pack [(498, 16), (a, 5), (d, 5), (0x01, 6)])
  | .zextB d a => some (pack [(512, 16), (a, 5), (d, 5), (0x01, 6)])
  | .zextH d a => some (pack [(513, 16), (a, 5), (d, 5), (0x01, 6)])
  | .zextW d a => some (pack [(514, 16), (a, 5), (d, 5), (0x01, 6)])
  | .csel d a b => some (pack [(528, 11), (b, 5), (a, 5), (d, 5), (0x01, 6)])
  | .addi d a i => some (pack [(i, 16), (a, 5), (d, 5), (0x04, 6)])
  | .andi d a i => some (pack [(i, 16), (a, 5), (d, 5), (0x05, 6)])
  | .ori d a i => some (pack [(i, 16), (a, 5), (d, 5), (0x06, 6)])
  | .xori d a i => some (pack [(i, 16), (a, 5), (d, 5), (0x07, 6)])
  | .slti d a i => some (pack [(i, 16), (a, 5), (d, 5), (0x08, 6)])
  | .sltiu d a i => some (pack [(i, 16), (a, 5), (d, 5), (0x09, 6)])
  | .slli d a n => some (pack [(n, 6), (0, 10), (a, 5), (d, 5), (0x0A, 6)])
  | .srli d a n => some (pack [(n, 6), (1, 10), (a, 5), (d, 5), (0x0A, 6)])
  | .srai d a n => some (pack [(n, 6), (2, 10), (a, 5), (d, 5), (0x0A, 6)])
  | .rori d a n => some (pack [(n, 6), (3, 10), (a, 5), (d, 5), (0x0A, 6)])
  | .lui d h i => some (pack [(i, 16), (h, 2), (0, 3), (d, 5), (0x0B, 6)])
  | .addpc d i => some (pack [(i, 16), (0, 5), (d, 5), (0x0C, 6)])
  | .extr d a l w => some (pack [(0, 2), (w, 6), (l, 6), (0, 2), (a, 5), (d, 5), (0x0D, 6)])
  | .extru d a l w => some (pack [(0, 2), (w, 6), (l, 6), (1, 2), (a, 5), (d, 5), (0x0D, 6)])
  | .ins d a l w => some (pack [(0, 2), (w, 6), (l, 6), (2, 2), (a, 5), (d, 5), (0x0D, 6)])
  | .beq a b o => some (pack [(o, 16), (b, 5), (a, 5), (0x10, 6)])
  | .bne a b o => some (pack [(o, 16), (b, 5), (a, 5), (0x11, 6)])
  | .blt a b o => some (pack [(o, 16), (b, 5), (a, 5), (0x12, 6)])
  | .bge a b o => some (pack [(o, 16), (b, 5), (a, 5), (0x13, 6)])
  | .bltu a b o => some (pack [(o, 16), (b, 5), (a, 5), (0x14, 6)])
  | .bgeu a b o => some (pack [(o, 16), (b, 5), (a, 5), (0x15, 6)])
  | .jal o => some (pack [(o, 26), (0x16, 6)])
  | .jalr a i => some (pack [(i, 16), (a, 5), (0, 5), (0x17, 6)])
  | .ldB t b c p o => some (pack [(o, 11), (p, 2), (c, 3), (b, 5), (t, 5), (0x18, 6)])
  | .ldBu t b c p o => some (pack [(o, 11), (p, 2), (c, 3), (b, 5), (t, 5), (0x19, 6)])
  | .ldH t b c p o => some (pack [(o, 11), (p, 2), (c, 3), (b, 5), (t, 5), (0x1A, 6)])
  | .ldHu t b c p o => some (pack [(o, 11), (p, 2), (c, 3), (b, 5), (t, 5), (0x1B, 6)])
  | .ldW t b c p o => some (pack [(o, 11), (p, 2), (c, 3), (b, 5), (t, 5), (0x1C, 6)])
  | .ldWu t b c p o => some (pack [(o, 11), (p, 2), (c, 3), (b, 5), (t, 5), (0x1D, 6)])
  | .ldD t b c p o => some (pack [(o, 11), (p, 2), (c, 3), (b, 5), (t, 5), (0x1E, 6)])
  | .ldX t b c p o => some (pack [(o, 11), (p, 2), (c, 3), (b, 5), (0, 1), (t, 4), (0x1F, 6)])
  | .stB t b c p o => some (pack [(o, 11), (0, 1), (p, 1), (c, 3), (b, 5), (t, 5), (0x20, 6)])
  | .stH t b c p o => some (pack [(o, 11), (0, 1), (p, 1), (c, 3), (b, 5), (t, 5), (0x21, 6)])
  | .stW t b c p o => some (pack [(o, 11), (0, 1), (p, 1), (c, 3), (b, 5), (t, 5), (0x22, 6)])
  | .stD t b c p o => some (pack [(o, 11), (0, 1), (p, 1), (c, 3), (b, 5), (t, 5), (0x23, 6)])
  | .stX t b c p o => some (pack [(o, 11), (0, 1), (p, 1), (c, 3), (b, 5), (0, 1), (t, 4), (0x24, 6)])
  | .pf w b c p o => some (pack [(o, 11), (0, 1), (p, 1), (c, 3), (b, 5), (w, 1), (0, 4), (0x25, 6)])
  | .amoAdd d a b o s z => some (pack [(z, 1), (1, 1), (s, 3), (o, 2), (0, 4), (b, 5), (a, 5), (d, 5), (0x26, 6)])
  | .amoAnd d a b o s z => some (pack [(z, 1), (1, 1), (s, 3), (o, 2), (1, 4), (b, 5), (a, 5), (d, 5), (0x26, 6)])
  | .amoOr d a b o s z => some (pack [(z, 1), (1, 1), (s, 3), (o, 2), (2, 4), (b, 5), (a, 5), (d, 5), (0x26, 6)])
  | .amoXor d a b o s z => some (pack [(z, 1), (1, 1), (s, 3), (o, 2), (3, 4), (b, 5), (a, 5), (d, 5), (0x26, 6)])
  | .amoSwap d a b o s z => some (pack [(z, 1), (1, 1), (s, 3), (o, 2), (4, 4), (b, 5), (a, 5), (d, 5), (0x26, 6)])
  | .amoMin d a b o s z => some (pack [(z, 1), (1, 1), (s, 3), (o, 2), (5, 4), (b, 5), (a, 5), (d, 5), (0x26, 6)])
  | .amoMax d a b o s z => some (pack [(z, 1), (1, 1), (s, 3), (o, 2), (6, 4), (b, 5), (a, 5), (d, 5), (0x26, 6)])
  | .amoMinu d a b o s z => some (pack [(z, 1), (1, 1), (s, 3), (o, 2), (7, 4), (b, 5), (a, 5), (d, 5), (0x26, 6)])
  | .amoMaxu d a b o s z => some (pack [(z, 1), (1, 1), (s, 3), (o, 2), (8, 4), (b, 5), (a, 5), (d, 5), (0x26, 6)])
  | .cas d a b o s z => some (pack [(z, 1), (1, 1), (s, 3), (o, 2), (9, 4), (b, 5), (a, 5), (d, 5), (0x26, 6)])
  | .aincb d a b o s z => some (pack [(z, 1), (1, 1), (s, 3), (o, 2), (10, 4), (b, 5), (a, 5), (d, 5), (0x26, 6)])
  | .adecz d a o s z => some (pack [(z, 1), (1, 1), (s, 3), (o, 2), (11, 9), (a, 5), (d, 5), (0x26, 6)])
  | .fenceAcq s m => some (pack [(0, 11), (m, 8), (s, 3), (0, 4), (0x27, 6)])
  | .fenceRel s m => some (pack [(0, 11), (m, 8), (s, 3), (1, 4), (0x27, 6)])
  | .fenceFull s m => some (pack [(0, 11), (m, 8), (s, 3), (2, 4), (0x27, 6)])
  | .fencePersist s m => some (pack [(0, 11), (m, 8), (s, 3), (3, 4), (0x27, 6)])
  | .l1inv c => some (pack [(c, 2), (0, 24), (0x28, 6)])
  | .dinv a => some (pack [(4096, 16), (a, 5), (0, 5), (0x28, 6)])
  | .waitwNe d a b z => some (pack [(z, 1), (1, 10), (b, 5), (a, 5), (d, 5), (0x29, 6)])
  | .waitwEq d a b z => some (pack [(z, 1), (9, 10), (b, 5), (a, 5), (d, 5), (0x29, 6)])
  | .qpush g s q t r => some (pack [(0, 7), (r, 1), (t, 1), (0, 3), (q, 4), (s, 5), (g, 5), (0x2C, 6)])
  | .qpop d s q t a => some (pack [(0, 7), (a, 1), (t, 1), (1, 3), (q, 4), (s, 5), (d, 5), (0x2C, 6)])
  | .qpeek d s q t a => some (pack [(0, 7), (a, 1), (t, 1), (2, 3), (q, 4), (s, 5), (d, 5), (0x2C, 6)])
  | .qclasp g q t r l => some (pack [(l, 3), (0, 4), (r, 1), (t, 1), (3, 3), (q, 4), (0, 5), (g, 5), (0x2C, 6)])
  | .qstat d q c => some (pack [(c, 2), (512, 10), (q, 4), (0, 5), (d, 5), (0x2C, 6)])
  | .bqpop d q a n => some (pack [(n, 6), (0, 1), (a, 1), (10, 4), (q, 4), (0, 5), (d, 5), (0x2C, 6)])
  | .qbind s q b o => some (pack [(o, 1), (b, 1), (768, 10), (q, 4), (s, 5), (0, 5), (0x2C, 6)])
  | .strm d a => some (pack [(0, 16), (a, 5), (d, 5), (0x30, 6)])
  | .strmwait a => some (pack [(16, 16), (a, 5), (0, 5), (0x30, 6)])
  | .strmkill a => some (pack [(32, 16), (a, 5), (0, 5), (0x30, 6)])
  | .copy d a => some (pack [(48, 16), (a, 5), (d, 5), (0x30, 6)])
  | .cwait a => some (pack [(64, 16), (a, 5), (0, 5), (0x30, 6)])
  | .cpoll d a => some (pack [(80, 16), (a, 5), (d, 5), (0x30, 6)])
  | .place d a => some (pack [(0, 16), (a, 5), (d, 5), (0x31, 6)])
  | .sect a b => some (pack [(16, 11), (b, 5), (a, 5), (0, 5), (0x31, 6)])
  | .mark d => some (pack [(32, 21), (d, 5), (0x31, 6)])
  | .cutwait a => some (pack [(48, 16), (a, 5), (0, 5), (0x31, 6)])
  | .release a => some (pack [(64, 16), (a, 5), (0, 5), (0x31, 6)])
  | .tqpush a b => some (pack [(0, 11), (b, 5), (a, 5), (0, 5), (0x32, 6)])
  | .renq a b => some (pack [(16, 11), (b, 5), (a, 5), (0, 5), (0x32, 6)])
  | .tspawn d a b => some (pack [(32, 11), (b, 5), (a, 5), (d, 5), (0x32, 6)])
  | .texit => some (pack [(48, 26), (0x32, 6)])
  | .yield => some (pack [(64, 26), (0x32, 6)])
  | .tresume a => some (pack [(80, 16), (a, 5), (0, 5), (0x32, 6)])
  | .trap c => some (pack [(c, 12), (0, 14), (0x3C, 6)])
  | .eret => some (pack [(4096, 26), (0x3C, 6)])
  | .crr d n => some (pack [(n, 12), (2, 9), (d, 5), (0x3C, 6)])
  | .crw a n => some (pack [(n, 12), (3, 4), (a, 5), (0, 5), (0x3C, 6)])
  | .crs d a n => some (pack [(n, 12), (4, 4), (a, 5), (d, 5), (0x3C, 6)])
  | .crc d a n => some (pack [(n, 12), (5, 4), (a, 5), (d, 5), (0x3C, 6)])
  | .tlbinv d a r k => some (pack [(k, 3), (r, 1), (1536, 12), (a, 5), (d, 5), (0x3C, 6)])
  | .halt => some (pack [(28672, 26), (0x3C, 6)])
  | .selftest d a => some (pack [(32768, 16), (a, 5), (d, 5), (0x3C, 6)])
  | .asyncTrapEntry _ _ => none
  | .timerExpiry _ _ => none
  | .blockedWake _ _ => none
  | .waitwPoll _ _ => none
  | .loadDataReturn _ _ _ => none
  | .wcbDrain _ _ => none
  | .storePerformed _ _ => none
  | .walkDone _ _ => none
  | .faultEntryWrite _ => none
  | .fqbaseWrite _ _ => none
  | .fqheadWrite _ _ => none
  | .fresume _ _ => none
  | .engineCommandStart _ _ => none
  | .threadCommandStart _ => none
  | .streamLineReturn _ _ _ => none
  | .streamPark _ _ => none
  | .streamDrainPop _ _ => none
  | .copyLine _ _ => none
  | .streamComplete _ _ => none
  | .copyComplete _ _ => none
  | .configStreamApply _ _ => none
  | .monselClear _ _ _ => none
  | .lossOfDecoupling _ => none
  | .probeStart _ _ => none
  | .probeHop _ => none
  | .governorEvaluation _ _ _ => none
  | .thermalStop _ => none
  | .thermalRestart _ => none
  | .coldReset => none
  | .warmReset => none
  | .functionReset => none
  | .resetctlWarm _ => none
  | .rootctlGo _ => none
  | .hostMemRead _ _ _ => none
  | .hostMemWrite _ _ _ _ => none
  | .snoopResponse _ _ _ => none
  | .hostAppend _ _ => none
  | .hostAccessCompletion _ _ _ => none
  | .persistAck _ _ _ => none
  | .hostLinkDown => none
  | .msixUnmask _ => none
  | .getVersion => none
  | .getCapabilities _ => none
  | .negotiateAlgorithms _ _ => none
  | .getDigests => none
  | .getCertificate _ _ _ => none
  | .challenge _ _ => none
  | .getMeasurements _ _ => none
  | .mctpControl _ _ => none
  | .mgmtReadStatus => none
  | .mgmtSetPowerCap _ => none
  | .mgmtClearPowerCap => none
  | .mgmtWarmReset _ => none
  | .mgmtFirmwareUpdate _ _ _ => none
  | .flitReceive _ _ _ _ _ => none
  | .portFailure _ _ => none
  | .portTrainingDone _ _ => none
  | .lnkctlRetrain _ => none
  | .portDisable _ => none
  | .portEnable _ => none
  | .packetReceive _ _ => none
  | .remoteRequest => none
  | .remoteResponse => none
  | .requestTimeout _ => none
  | .circuitDataReceive => none
  | .circuitCreditReceive => none
  | .stepDataReceive => none
  | .stepAckReceive => none
  | .stepTimeout _ _ => none
  | .pick _ => none
  | .taskComplete _ => none
  | .releaseBufferAppend _ => none
  | .spillRefill _ => none
  | .qcfgResume _ => none
  | .placementTimeout _ => none
  | .startToken _ => none
  | .switchRoute _ _ _ => none
  | .fire _ _ => none
  | .csrcEmit _ _ => none
  | .bankSwap _ => none
  | .timedTick _ => none
  | .blockReady _ => none
  | .groupAdvance _ _ => none
  | .outputMove _ => none
  | .stagingSend _ => none
  | .tstoreWrite _ => none
  | .generatorStep _ _ => none
  | .fifoTake _ => none
  | .fifoEmit _ => none
  | .lbufTake _ => none
  | .rptCapture _ => none
  | .cdownScan _ => none
  | .cdownDecrement _ => none
  | .ltabLookup _ => none
  | .selftestDone _ _ => none
  | .segmentCommit _ => none
  | .scrubVisit _ _ => none
  | .scrubClear _ => none
  | .scrubPoison _ => none
  | .loadctlPreempt _ _ => none
  | .loadctlRestore _ _ => none
  | .loadctlKill _ _ => none
  | .elementAlign _ => none
  | .drainSave _ => none
  | .resumeToken _ => none
  | .occupancySweep => none
  | .loadFinish _ => none
  | .registerWrite _ _ _ => none
  | .powerOff => none
  | .aPortTake _ => none
  | .bPortTake _ _ => none
  | .resultEntersOutputRegister _ _ => none
  | .multiplyOrDivideCompletes _ _ => none

end Sys2Proof
end

