-- ==== Sys2Proof/Machine/Tab.lean ====
section
/-! DEFINITION. Sparse tables: data by key, in one canonical form. A table lists the keys whose value differs from a
default, in strictly rising order; every other key reads as the default. Memory is one such table (Mem). -/

namespace Sys2Proof.Machine

/-- A sparse table: the keys listed, each with its value. -/
abbrev Tab (α : Type) := List (Nat × α)

/-- What key k reads as: the value listed for it, else the default d. -/
def Tab.get {α : Type} (d : α) (t : Tab α) (k : Nat) : α :=
  match t with
  | [] => d
  | (k', v) :: r => if k' = k then v else Tab.get d r k

/-- The table without key k. -/
def Tab.del {α : Type} (t : Tab α) (k : Nat) : Tab α :=
  match t with
  | [] => []
  | (k', v) :: r => if k' = k then Tab.del r k else (k', v) :: Tab.del r k

/-- The table with key k listed at its place in the order. -/
def Tab.ins {α : Type} (t : Tab α) (k : Nat) (v : α) : Tab α :=
  match t with
  | [] => [(k, v)]
  | (k', v') :: r => if k < k' then (k, v) :: (k', v') :: r else (k', v') :: Tab.ins r k v

/-- The table after key k is given value v; writing the default removes the entry. -/
def Tab.set {α : Type} [DecidableEq α] (d : α) (t : Tab α) (k : Nat) (v : α) : Tab α :=
  if v = d then Tab.del t k else Tab.ins (Tab.del t k) k v

/-- The canonical form: keys strictly rising, all at least lo, and no entry equal to the default. -/
def Tab.wfFrom {α : Type} [DecidableEq α] (d : α) (lo : Nat) (t : Tab α) : Bool :=
  match t with
  | [] => true
  | (k, v) :: r => decide (lo ≤ k) && !(decide (v = d)) && Tab.wfFrom d (k + 1) r

/-- The canonical form of a table. -/
def Tab.wf {α : Type} [DecidableEq α] (d : α) (t : Tab α) : Bool := Tab.wfFrom d 0 t

/-- The keys listed. -/
def Tab.keys {α : Type} (t : Tab α) : List Nat := t.map (fun e => e.1)

/-- Memory: bytes by address, an unlisted address reading zero (01 R26: a cold reset clears every byte). -/
abbrev Mem := Tab Byte

/-- The byte at an address. -/
def Mem.read (m : Mem) (a : Nat) : Byte := Tab.get 0 m a

/-- Memory after a byte is written. -/
def Mem.write (m : Mem) (a : Nat) (v : Byte) : Mem := Tab.set 0 m a v

/-- Memory is in canonical form. -/
def Mem.wf (m : Mem) : Bool := Tab.wf 0 m

/-- The n bytes from address a upward as one number, the lowest address least significant (00 R3). -/
def Mem.readN (m : Mem) (a : Nat) : Nat → Nat
  | 0 => 0
  | n + 1 => (Mem.read m a).toNat + 256 * Mem.readN m (a + 1) n

/-- Memory after the n low bytes of v are written from address a upward. -/
def Mem.writeN (m : Mem) (a : Nat) : Nat → Nat → Mem
  | 0, _ => m
  | n + 1, v => Mem.writeN (Mem.write m a (BitVec.ofNat 8 v)) (a + 1) n (v / 256)

/-- The doubleword at an address. -/
def Mem.readD (m : Mem) (a : Nat) : Word := BitVec.ofNat 64 (Mem.readN m a 8)

/-- Memory after a doubleword is written. -/
def Mem.writeD (m : Mem) (a : Nat) (v : Word) : Mem := Mem.writeN m a 8 v.toNat

end Sys2Proof.Machine
end

