-- ==== Sys2Proof/Machine/State.lean ====
section
/-! DEFINITION. The state of the package as plain data, the reasons a step may stop, and the state after reset.
INVENTORY.md lists every piece of state with the rule of spec/ that names it. Things counted by the package (cores,
slots, queues, tiles) are held in sparse tables: a key that is not listed reads as its reset value. -/

namespace Sys2Proof.Machine

/-- Why the model stops a step with a fault. No instruction faults: what the spec calls a fault is a trap, a park or a
report, and so a next state. -/
inductive Fault where
  /-- Raised by step when a turn of the agenda names a core above 255 or a slot above 15, which the package does not
  have (06 R112). Safe: it only forbids schedules of agents that do not exist. -/
  | noSuchSlot
  deriving DecidableEq, Repr

/-- Why the model has no meaning for an instruction. -/
inductive Refusal where
  /-- An instruction without a meaning yet, by its mnemonic. Safe: nothing is claimed of it. -/
  | notModelled (mnemonic : String)
  deriving DecidableEq, Repr

/-! ## Access threads -/

/-- Table 06-1. -/
inductive SlotState where
  | free | ready | blockedQueue | blockedWait | parked | stopped | trapped
  deriving DecidableEq, Repr

/-- What a blocked slot waits for (Table 06-2), or what keeps a ready slot's next instruction from issuing. -/
inductive Wait where
  | none
  | queue (binding : Nat)                      -- a queue operation on a binding (18 R373)
  | engine (core : Nat)                        -- a full engine queue (18 R383, R386)
  | word (line due : Nat)                      -- waitw: the line watched and the next poll's cycle (17 R366)
  | command (handle : Nat)                     -- strmwait, cwait (18 R384)
  | cut (load : Nat)                           -- cutwait (18 R391)
  | walk                                       -- a page walk of this slot is in flight (07 R139)
  | remote (tag : Nat)                         -- a remote atomic, waitw read or fetch (02 R36)
  | host (id : Nat)                            -- an access to host memory that must return first (03 R52)
  | flush (sent : Bool)                        -- fence.persist: the flush-line read (03 R54)
  | test (id : Nat)                            -- selftest (19 R409)
  | yield (until_ : Nat) (others : List Nat)   -- yield (18 R396)
  | inval (loads : List (Nat × Nat))           -- tlbinv: accesses that must end first (07 R145)
  | halt                                       -- halt (19 R408)
  deriving DecidableEq, Repr

/-- A queue binding of a slot (06 R127, 18 R370): the queue, the identifier bound, and the direction. -/
structure Bind where
  key    : Nat
  qid    : Word
  out    : Bool
  branch : Bool
  decthr : Word
  deriving DecidableEq, Repr

/-- An entry of a slot's pending list (19 R401). A report that R108 or R168 merges carries the key of its source. -/
structure Pend where
  cause : Nat
  tval  : Word
  src   : Nat
  deriving DecidableEq, Repr

/-- A synchronous trap that waits until every earlier instruction has finished (16 R347). word is the instruction word at
its TEPC, 0 where none could be fetched (07 Table 07-11). -/
structure Sync where
  cause : Nat
  tval  : Word
  epc   : Word
  word  : Nat
  deriving DecidableEq, Repr

/-- An outstanding load or prefetch (06 R125, 17 R353). tag is the remote tag or host request it waits on, plus one;
fwd holds the bytes its thread's own stores held when it issued (11 R230). -/
structure OutLoad where
  seq    : Nat
  dst    : Nat
  size   : Nat
  signed : Bool
  cls    : Nat
  path   : Nat
  mt     : Nat
  va     : Word
  pa     : Nat
  epc    : Word
  issued : Nat
  isPf   : Bool
  tag    : Nat
  fwd    : Tab (Option Byte)
  deriving DecidableEq, Repr

/-- A multiply or divide that has issued (06 R117, 16 R347). -/
structure OutMul where
  dst  : Nat
  val  : Word
  done : Nat
  deriving DecidableEq, Repr

/-- One thread slot (06 R112; 19 Table 19-3). nextAt is the first core cycle in which its next instruction may issue; late
lists registers that a control-register read has given a value, each with the cycle from which it can be read (06 R117). dur
tells of the flush-line read of its fence.persist: 0 none, 1 under way, 2 ended, 3 under way but an MT 4 write has followed, 4
ended with an error (17 R363). -/
structure Slot where
  st        : SlotState
  regs      : Tab Word
  pc        : Word
  binds     : Tab (Option Bind)
  tstat     : Word
  tcause    : Word
  tepc      : Word
  tval      : Word
  tscratch  : Word
  asid      : Word
  ptbase    : Word
  timecmp   : Word
  qctl      : Word
  decthr    : Word
  blkthr    : Word
  pltimeout : Word
  errinj    : Word
  pend      : List Pend
  sync      : Option Sync
  outs      : List OutLoad
  muls      : List OutMul
  seq       : Nat
  acq       : Nat
  iacq      : Nat
  wait      : Wait
  since     : Nat
  probed    : Bool
  task      : Nat
  load      : Nat
  cut       : Nat
  thr       : Nat
  isFeed    : Bool
  parkDie   : Nat
  parkSeq   : Nat
  wasParked : Bool
  resumed   : Bool
  fetched   : Option (Word × Nat)
  word      : Nat
  marks     : Nat
  nextAt    : Nat := 0
  late      : List (Nat × Nat) := []
  dur       : Nat := 0
  deriving DecidableEq, Repr

/-- A free slot as reset leaves it: TIMECMP all ones, BLKTHR 0x0010_0000, PLTIMEOUT 0x3E8, every other register zero
(Tables 06-9, 19-4; log 1 for the general registers, DESIGN CHOICE). -/
def Slot.reset : Slot :=
  { st := .free, regs := [], pc := 0, binds := [], tstat := 0, tcause := 0, tepc := 0, tval := 0, tscratch := 0,
    asid := 0, ptbase := 0, timecmp := 0xFFFFFFFFFFFFFFFF, qctl := 0, decthr := 0, blkthr := 0x100000,
    pltimeout := 0x3E8, errinj := 0, pend := [], sync := none, outs := [], muls := [], seq := 0, acq := 0, iacq := 0,
    wait := .none, since := 0, probed := false, task := 0, load := 0, cut := 0, thr := 0,
    isFeed := false, parkDie := 0, parkSeq := 0, wasParked := false, resumed := false, fetched := none, word := 0,
    marks := 0 }

/-! ## Link words -/

/-- A link word (08 R164, Table 08-1). -/
structure LW where
  pay   : Lanes
  vc    : Nat
  kind  : Nat
  level : Nat
  route : Nat
  resid : BitVec 24
  sbpar : BitVec 4
  deriving DecidableEq, Repr

/-! ## Access cores -/

/-- An entry of the write-combining buffer (06 R122): the bytes its stores wrote by offset in the line, and for each
store its place in program order and its alias class. line is
the byte key of its address over 64 (Machine/Memory.lean). phase 0 held, 1 drain started, 2 sent to the host as posted.
va is the address of its first store, mode the
mode of the thread; load and wave are the load and segment of a protected load's store (12 R267), load 0 for any other. -/
structure Wcb where
  slot  : Nat
  line  : Nat
  bytes : Tab (Option Byte)
  sts   : List (Nat × Nat)
  mt    : Nat
  merge : Bool
  va    : Word
  last  : Nat
  phase : Nat
  tag   : Nat
  load  : Nat
  wave  : Nat
  mode  : Nat
  force : Bool
  deriving DecidableEq, Repr

/-- A line of an L1 cache: when it was installed and its 64 bytes (06 R119). -/
structure Line where
  at_  : Nat
  data : BitVec 512
  deriving DecidableEq, Repr

/-- A translation held in a TLB (07 R142, R143): 2^bits bytes from va, mapped to pa, with the leaf it was read from. -/
structure Tlb where
  asid : Nat
  va   : Nat
  bits : Nat
  pa   : Nat
  leaf : Word
  deriving DecidableEq, Repr

/-- A page walk in flight or in line for one (07 R143). acc: 0 read, 1 write, 2 atomic, 3 fetch. slot is the slot that
waits for it; a number above the package's slots names another party (Machine/Mmu.lean), whose address space, table and
mode the other fields hold. -/
structure Walk where
  slot : Nat
  va   : Word
  acc  : Nat
  asid : Nat := 0
  ptb  : Word := 0
  mode : Nat := 0
  deriving DecidableEq, Repr

/-- A command in an engine queue (06 R123, R125): kind 1 stream, 2 copy, 3 thread, 0 an address that renq entered and
whose block is not read yet. words holds its blocks. num is its
command number, 2^32 for a command that renq entered, which has no handle; wave the segment of a protected load in which
it was issued, else 0. -/
structure Cmd where
  kind  : Nat
  num   : Nat
  blk   : Word
  words : List (List Word)
  asid  : Word
  ptb   : Word
  mode  : Nat
  by_   : Nat
  epc   : Word
  insn  : Nat
  load  : Nat
  task  : Nat
  wave  : Nat
  dead  : Bool
  deriving DecidableEq, Repr

/-- An element in an engine: its bytes as a number, and whether it carries poison (12 R263). -/
structure Elem where
  val  : Nat
  pois : Bool
  deriving DecidableEq, Repr

/-- A line a reading stream fetched: the first and last element it holds and whether it was late (06 R132). -/
structure Fetch where
  first : Nat
  last  : Nat
  late  : Bool
  deriving DecidableEq, Repr

/-- A translation fault an engine has met: at which element or line, the address, reason, level, access (07 R150). -/
structure EFault where
  pos    : Nat
  va     : Word
  reason : Nat
  level  : Nat
  acc    : Nat
  deriving DecidableEq, Repr

/-- A stream (06 R123 to R132; 18 R378 to R380). st: 1 running, 2 parked, 3 ended, its record not yet written. pos is
the next element to deliver or write, buf what is fetched, part the word being packed, outw words to push, each with
the number of elements delivered once it is pushed; key and ikey
are its target and index queues; emptyAt and idxAt the cycle after which it requests a token of each; for a reading
stream emptyAt is one more than the element that was the next when its queue was found empty, emptyC that cycle. markPos lists
markers to come (position, wave, kind), markHist the positions of those sent. ahead tells that a configuration stream was
aimed at a load that had not been granted, or not restored (18 R379). -/
structure Stream where
  cmd     : Cmd
  st      : Nat
  status  : Nat
  pos     : Nat
  buf     : Tab (Option Elem)
  lines   : List Fetch
  part    : List Elem
  outw    : List (Nat × LW)
  key     : Nat
  ikey    : Nat
  emptyAt : Nat
  emptyC  : Nat
  idxAt   : Nat
  idx     : Tab (Option Nat)
  idxNext : Nat
  held    : List Elem
  fault   : Option EFault
  parkSeq : Nat
  parkDie : Nat
  resumed : Bool
  fetched : Nat
  consumed : Nat
  late    : Nat
  dropped : Nat
  config  : List Nat
  marked  : Nat
  markPos : List (Nat × Nat × Nat)
  markHist : List (Nat × Nat)
  drained : Bool
  ahead   : Bool
  deriving DecidableEq, Repr

/-- A copy (18 R381): its step, the offset of the next line in it, and for a send step the attempt under way: when the
last line left. recv lists the offsets a receive step has written. tag is the transaction tag of the attempt, or of the data
that a receive step took last. -/
structure CopyEng where
  cmd     : Cmd
  st      : Nat
  status  : Nat
  step    : Nat
  off     : Nat
  attempt : Nat
  sentAt  : Nat
  recv    : List Nat
  bytes   : Nat
  steps   : Nat
  fault   : Option EFault
  parkSeq : Nat
  parkDie : Nat
  resumed : Bool
  peer    : Nat
  tag     : Nat := 0
  deriving DecidableEq, Repr

/-- A line that an engine or a block read asked of another package or of the host (02 R34, 03 R52): for whom, the line,
its 64 bytes, whether it is poisoned, and whether the access failed. -/
structure EData where
  eid  : Nat
  line : Nat
  data : Nat
  pois : Bool
  bad  : Bool
  deriving DecidableEq, Repr

/-- How a command ended (18 R384): its kind and number, whether it completed, its block and its issuing slot. -/
structure Ended where
  kind : Nat
  num  : Nat
  ok   : Bool
  blk  : Word
  by_  : Nat
  deriving DecidableEq, Repr

/-- A receive step that has run (02 R44): its sender and slot, the command and step it ran in, the offsets that have come
again since it last acknowledged, and the tag of the data that came last. -/
structure RStep where
  peer : Nat
  slot : Nat
  cmd  : Cmd
  step : Nat
  recv : List Nat := []
  tag  : Nat := 0
  deriving DecidableEq, Repr

/-- One access core (06). hist remembers how the last commands of each kind ended (18 R384). -/
structure Core where
  tvec    : Word
  mtvec   : Word
  tfbase  : Word
  rr      : Nat
  scan    : Nat
  issued  : Nat
  last    : Nat
  stamp   : Nat
  l1d     : Tab (Option Line)
  l1i     : Tab (Option Line)
  tlb1    : List Tlb
  wcb     : List Wcb
  engq    : List Cmd
  streams : Tab (Option Stream)
  copies  : Tab (Option CopyEng)
  numStrm : Nat
  numCopy : Nat
  hist    : List Ended
  got     : List EData
  asked   : List (Nat × Nat)
  pendW   : Tab Nat
  rsteps  : List RStep
  retired : Bool
  deriving DecidableEq, Repr

/-- A core as reset leaves it (19 Table 19-4; 06 R116). -/
def Core.reset : Core :=
  { tvec := 0, mtvec := 0, tfbase := 0, rr := 0, scan := 0, issued := 0, last := 0, stamp := 0, l1d := [], l1i := [],
    tlb1 := [], wcb := [], engq := [], streams := [], copies := [], numStrm := 0, numCopy := 0, hist := [], got := [],
    asked := [], pendW := [], rsteps := [],
    retired := false }

/-! ## Queues -/

/-- A queue entry (18 R371): its word and, with MCAST, the consumers that have yet to take it, and whether one has. -/
structure QTok where
  w    : LW
  set  : List Nat
  took : Bool := false
  deriving DecidableEq, Repr

/-- A hardware queue: a die queue or a load queue circuit (06 R128, R129; 18 R369 to R372). eFrom and fFrom are the
cycle after which a wait on empty or full is being counted, or 0; eAt and fAt the cycle last counted otherwise, plus one. served is the place in
the order of requests of the last one that took a token (18 R372). route is the ROUTE of the last producer's identifier,
portW tells that a word of the fabric waits for the full circuit. -/
structure Queue where
  live   : Bool
  bound  : Bool
  cap    : Nat
  mcast  : Bool
  asid   : Word
  toks   : List QTok
  prods  : List Nat
  cons   : List Nat
  ewait  : Nat
  eFrom  : Nat
  fwait  : Nat
  fFrom  : Nat
  lod    : Nat
  lowAt  : Nat
  run    : Nat
  armed  : Bool
  decthr : Word
  decBy  : Nat
  route  : Nat
  portW  : Bool
  eAt    : Nat := 0
  fAt    : Nat := 0
  served : Nat := 0
  deriving DecidableEq, Repr

/-- A queue that does not exist. -/
def Queue.none : Queue :=
  { live := false, bound := false, cap := 0, mcast := false, asid := 0, toks := [], prods := [], cons := [],
    ewait := 0, eFrom := 0, fwait := 0, fFrom := 0, lod := 0, lowAt := 0, run := 0, armed := true, decthr := 0, decBy := 0,
    route := 0, portW := false }

/-! ## Task queues and tasks -/

/-- A task queue (04 R67, R68; 03 R57). -/
structure TaskQ where
  qcfg    : Word
  qspill  : Word
  qptb    : Word
  qerr    : Word
  started : Nat
  done    : Nat
  stopped : Bool
  pend    : Bool
  drops   : Nat
  accept  : Nat
  stored  : List (List Word)
  spHead  : Nat
  spCount : Nat
  eligAt  : Nat
  pendAt  : Nat
  told    : Bool
  deriving DecidableEq, Repr

def TaskQ.reset : TaskQ :=
  { qcfg := 0, qspill := 0, qptb := 0, qerr := 0, started := 0, done := 0, stopped := false, pend := false, drops := 0,
    accept := 0, stored := [], spHead := 0, spCount := 0, eligAt := 0, pendAt := 0, told := false }

/-- A started task (04 R75 to R77). phase: 0 running, 1 signal, 2 releasing from entry next, 3 message. succ is the snapshot of
its successor list that the completion read, from entry first on; dec tells how far the decrement of entry next is: 0 not
begun, 1 on its way to another package, 2 done, with old the doubleword it found, 3 failed. -/
structure Task where
  q     : Nat
  desc  : List Word
  asid  : Word
  ptb   : Word
  load  : Nat
  start : Nat
  phase : Nat
  next  : Nat
  fault : Bool
  succ  : Option (List (Word × Word)) := none
  first : Nat := 0
  dec   : Nat := 0
  old   : Word := 0
  deriving DecidableEq, Repr

/-! ## The fabric -/

/-- An operator slot's output register (08 R175): the words still to leave, each with the mesh ports (bits 0 to 3) and
the feed side (bit 4) it must still go to and the slot inputs (3·slot + input) that must still take it. -/
structure OutTok where
  w     : LW
  ports : Nat
  takes : List Nat
  paths : List Nat
  deriving DecidableEq, Repr

/-- A resident token of an input (08 R173): the word and the data firings left, 0xFFFF for until a clasp. -/
structure Resident where
  w    : LW
  left : Nat
  deriving DecidableEq, Repr

/-- A result on its way to the output register (20 R414): the cycle or tick it enters, the word or words it makes,
and the local-store entry it writes (64 for none). -/
structure Flight where
  due  : Nat
  toks : List OutTok
  ls   : Nat
  deriving DecidableEq, Repr

/-- Operator state (20 R427; 21 R432, R436, R437, R442, R443). -/
structure OpSt where
  mode : Nat
  n    : Nat
  j    : Nat
  vals : List Nat
  buf0 : List Nat
  buf1 : List Nat
  rec_ : List Nat
  deriving DecidableEq, Repr

/-- An operator slot (08 R172 to R177). fired counts what it has taken, by which a deadlock probe sees that it moved. -/
structure OpSlot where
  res    : Tab (Option Resident)
  out    : List OutTok
  flight : List Flight
  outAt  : Nat
  stop   : Bool
  st     : OpSt
  fired  : Nat
  deriving DecidableEq, Repr

def OpSt.zero : OpSt := { mode := 0, n := 0, j := 0, vals := [], buf0 := [], buf1 := [], rec_ := [] }
def OpSlot.empty : OpSlot := { res := [], out := [], flight := [], outAt := 0, stop := false, st := OpSt.zero, fired := 0 }

/-- A word in an input channel: the fabric cycle from which it stands there, the copies still to be forwarded once it
is matched, and whether it is matched for local delivery (08 R163, R167, R180). -/
structure ChTok where
  w     : LW
  at_   : Nat
  fwd   : Nat
  local_ : Bool
  met   : Bool
  deriving DecidableEq, Repr

/-- A local-store entry or an SRAM row: 256 bits, the tag of R211, and poison (12 R262). -/
structure Row where
  v     : Lanes
  kind  : Nat
  level : Nat
  pois  : Bool
  deriving DecidableEq, Repr

def Row.zero : Row := { v := 0, kind := 0, level := 0, pois := false }

/-- A stationary block being loaded or used (09 R198, R200): raw words as taken, each with BFMT + 64 · TCAP of its bank
in place of its ROUTE; whether the last has come, the cycle in which it becomes ready, and whether it is. -/
structure Block where
  words : List LW
  full  : Bool
  due   : Nat
  ready : Bool
  deriving DecidableEq, Repr

/-- A column group's progress (09 R201): its chunk counted from the start token, rows retired in it, terms done, rows
retired in all, the same before the fabric cycle in which it last advanced, and that cycle plus one. -/
structure Group where
  chunk : Nat
  d     : Nat
  p     : Nat
  ret   : Nat
  prev  : Nat
  last  : Nat
  deriving DecidableEq, Repr

def Group.zero : Group := { chunk := 0, d := 0, p := 0, ret := 0, prev := 0, last := 0 }

/-- Matrix-tile state (09). Chunks are counted from the start token: base is that of the first stationary block held,
aBase that of the first A word held, outBase that of the output block under way. due is the cycle, plus one, in which
the move of R204 is due; left the ports to which the first staged word has yet to go. An accumulator of KIND 2 holds its
binary64 encoding; one of another kind that left the 72-bit range holds 2^72 or -2^72. -/
structure Mat where
  acc    : Tab Int
  inval  : Tab Bool
  blocks : List Block
  base   : Nat
  aWords : List LW
  aBase  : Nat
  outBase : Nat
  groups : Tab Group
  remain : Nat
  stage  : List LW
  left   : Nat
  due    : Nat
  stop   : Bool
  terms  : Tab Nat
  arows  : Tab Nat
  gcyc   : Tab Nat
  stall  : Nat
  stallAt : Nat
  sat    : Nat
  nfin   : Nat
  deriving DecidableEq, Repr

def Mat.zero : Mat :=
  { acc := [], inval := [], blocks := [], base := 0, aWords := [], aBase := 0, outBase := 0, groups := [], remain := 0,
    stage := [], left := 0, due := 0, stop := false, terms := [], arows := [], gcyc := [], stall := 0, stallAt := 0,
    sat := 0, nfin := 0 }

/-- An address generator's place in its walk (10 R217). -/
structure Gen where
  pass : Nat
  b    : Nat
  i0   : Nat
  i1   : Nat
  i2   : Nat
  i3   : Nat
  done : Bool
  deriving DecidableEq, Repr

def Gen.zero : Gen := { pass := 0, b := 0, i0 := 0, i1 := 0, i2 := 0, i3 := 0, done := false }

/-- Memory-tile state (10). bufs: 0 empty, 1 filling, 2 full; passed: the generators that have passed over a full buffer,
as a mask; ages: the cycle in which each token of a fifo was taken. In rpt mode count is the length of the capture, y the
level of its closing clasp. -/
structure MemT where
  rows   : Tab Row
  bufs   : Tab Nat
  passed : Tab Nat
  wbuf   : Nat
  woff   : Nat
  gens   : Tab Gen
  lastG  : Nat
  head   : Nat
  count  : Nat
  y      : Nat
  x      : Nat
  rn     : Nat
  rst    : Nat
  rpos   : Nat
  rpass  : Nat
  scan   : Nat
  scanAt : Nat
  takeAt : Nat
  ages   : List Nat
  stop   : Bool
  inw    : Nat
  emitw  : Nat
  bankw  : Nat
  disc   : Nat
  deriving DecidableEq, Repr

def MemT.zero : MemT :=
  { rows := [], bufs := [], passed := [], wbuf := 0, woff := 0, gens := [], lastG := 3, head := 0, count := 0, y := 0,
    x := 0, rn := 0, rst := 0, rpos := 0, rpass := 0, scan := 0, scanAt := 0, takeAt := 0, ages := [], stop := false,
    inw := 0, emitw := 0, bankw := 0, disc := 0 }

/-- A report of a tile or bezel that its owner thread has not taken yet (05 R108, 08 R168): its merge key, cause, the
TVAL without its DROPS field, and the drops so far. -/
structure Report where
  src   : Nat
  cause : Nat
  tval  : Word
  drops : Nat
  deriving DecidableEq, Repr

/-- One tile of a granted cut (08, 09, 10). kind: 0 vector, 1 matrix, 2 memory. bank says which bank is active. sendq
lists the words that the tile itself has yet to send: the cycle from which each may leave, the word, the ports, and a mask
of the operator slots (bits 0 to 15) whose results go ahead of it and of the generators (bits 20 to 23) that made it. akind is the kind of the marker it is aligned for, marked the
channels whose marker it has taken, kept the tokens it keeps of each channel (13 R276). did counts what its mode has done, as OpSlot.fired does for a slot. freed holds
for a channel the fabric cycle, plus one, in which words last left it, times 4, plus their number (R163); lsOld for a
local-store entry the cycle from which a write of it is seen, and what it read as before (R175). -/
structure Tile where
  kind    : Nat
  bank0   : Tab Nat
  bank1   : Tab Nat
  bank    : Bool
  ls      : Tab Row
  chans   : Tab (List ChTok)
  slots   : Tab OpSlot
  pipes   : Tab Nat
  pipeAt  : Tab Nat
  started : Bool
  startAt : Nat
  tick    : Nat
  tickAt  : Nat
  frozen  : Nat
  misEnd  : Bool
  misFld  : Nat
  flights : List (Nat × Nat × OutTok)
  mat     : Mat
  mem     : MemT
  did     : Nat
  pred    : Nat
  check   : Nat
  replay  : Nat
  skip    : Nat
  aligned : Bool
  akind   : Nat
  marked  : List Nat
  kept    : Tab (List ChTok)
  saved   : Bool
  wave    : Nat
  sendq   : List (Nat × LW × Nat × Nat)
  sentAt  : Tab Nat
  freed   : Tab Nat := []
  lsOld   : Tab (Option (Nat × Row)) := []
  deriving DecidableEq, Repr

def Tile.empty : Tile :=
  { kind := 0, bank0 := [], bank1 := [], bank := false, ls := [], chans := [], slots := [], pipes := [], pipeAt := [],
    started := false, startAt := 0, tick := 0, tickAt := 0, frozen := 0, misEnd := false, misFld := 0,
    flights := [], mat := Mat.zero, mem := MemT.zero, did := 0, pred := 0, check := 0, replay := 0, skip := 0, aligned := false,
    akind := 0, marked := [], kept := [], saved := false, wave := 0, sendq := [], sentAt := [] }

/-! ## Loads -/

/-- What a load is doing (13 Table 13-1, Table 13-4; 18 R387, R388, R391). -/
inductive LoadState where
  | pending | configured | running | draining | saved | restoring | placed | killing | finished | killed
  deriving DecidableEq, Repr

/-- A cut of a load: its entry (Table 05-2), its need table and its place. -/
structure Cut where
  w      : Nat
  h      : Nat
  nthr   : Nat
  entry  : Word
  qstore : Nat
  dieReq : Nat
  need   : List (Word × Word)
  die    : Nat
  x0     : Nat
  y0     : Nat
  deriving DecidableEq, Repr

/-- A word in a bridge (08 R193): which bridge, the fabric cycle it arrives, the word. -/
structure BrWord where
  br  : Nat
  at_ : Nat
  w   : LW
  deriving DecidableEq, Repr

/-- What a wave or a drain keeps of a load (12 R266, 13 R273): element records by cut and element, thread contexts by
slot, streams, copies and engine-queue entries by core and place. -/
structure Snap where
  wave    : Nat
  tiles   : Tab Tile
  slots   : List (Nat × Slot)
  streams : List (Nat × Stream)
  copies  : List (Nat × CopyEng)
  cmds    : List (Nat × Cmd)
  queues  : Tab Queue
  bridges : List BrWord
  result  : Option Word
  deriving DecidableEq, Repr

/-- A live load (05 R100; 12; 13; 18 R387). granted and gcycle are the network cycle, plus one, and the core cycle of its grant. wave is the last segment that committed, top the last that a wave opened, cmark the last
wave whose markers the circuits have been given. cgptr is the address of its header. why tells what it drains for: 1 a LOADCTL, whose die is cmdDie, 2 a
compaction, 3 a lasting verdict in it; redrain that the drain begins anew (12 R256). zero
tells whether the last occupancy sweep found nothing, quiet whether it found the load quiescent, count what has moved
since (13 R283). cfg holds the words of the configuration streams until the grant; img what its image has reserved, by die:
facet slots and spill units (13 R272), blk the number of its load block, plus one. steps lists the send steps of
a killed load that await an acknowledgement: peer, step slot, and the core cycle in which they wait no more (13 R285). retire tells that its identifier retires once it has ended (18 R391). -/
structure Load where
  st      : LoadState
  asid    : Word
  ptb     : Word
  prot    : Bool
  mustdie : Bool
  hdr     : Word
  cuts    : List Cut
  brg     : List Word
  bord    : List Word
  byPlace : Bool
  owner   : Option Nat
  task    : Nat
  q       : Nat
  prio    : Nat
  entry   : Word
  arg     : Word
  cgptr   : Word
  granted : Nat
  gcycle  : Nat
  pendAt  : Nat
  told    : Bool
  pltime  : Nat
  arms    : List (Nat × Nat)
  bridges : List BrWord
  result  : Option Word
  wave    : Nat
  top     : Nat
  cmark   : Nat
  rbacks  : Nat
  snaps   : List Snap
  reports : List Report
  seen    : Tab Nat
  zero    : Bool
  count   : Nat
  cmdDie  : Option Nat
  why     : Nat
  redrain : Bool
  retire  : Bool
  quiet   : Bool
  cfg     : List (List Nat)
  img     : List (Nat × Nat × Nat)
  blk     : Nat := 0
  steps   : List (Nat × Nat × Nat) := []
  deriving DecidableEq, Repr

/-! ## Dies, monitors, machine checks, faults -/

/-- A monitor unit (06 R133, R134). clrAt is the core cycle of its last clearing by CLR, plus one. -/
structure Monitor where
  sel  : Word
  cnt  : Nat
  sum  : Nat
  min_ : Nat
  max_ : Nat
  hist : Tab Nat
  clrAt : Nat := 0
  deriving DecidableEq, Repr

def Monitor.reset : Monitor :=
  { sel := 0, cnt := 0, sum := 0, min_ := 0xFFFFFFFFFFFFFFFF, max_ := 0, hist := [] }

/-- A compaction under way (05 R102, R103): the queue of the pending task or the pending load's identifier, where its cuts
go (die, column, row), and where each cut that moves goes (load, cut, column, row). -/
structure Compact where
  q     : Nat
  load  : Nat
  pos   : List (Nat × Nat × Nat)
  moves : List (Nat × Nat × Nat × Nat)
  deriving DecidableEq, Repr

/-- One base die with the fabric die on it (01 R15). sick holds the unhealthy tiles of a facet as a mask, lost the retired
local-store entries (facet, vector tile, entry), retire the parts that leave once their facet is free (facet, 0 and a tile
or 1 and 64 times a vector tile plus an entry). pickAt is the network cycle in which it last picked, plus one. wcache
is the walk cache: table entries by their address. fqNet is the network cycle, plus one, in which a fault-queue number was
last given, fqFirst the first number given in it. -/
structure Die where
  ageint   : Nat
  rrptr    : Tab Nat
  relBuf   : List (Nat × List Word)
  sick     : Tab Word
  lost     : List (Nat × Nat × Nat)
  retire   : List (Nat × Nat × Nat)
  fbez     : Tab Nat
  sepcore  : Bool
  compen   : Bool
  plto     : Nat
  hbmsep   : Bool
  tenway   : Tab Nat
  tenhbm   : Word
  loadstat : Word
  savepool : Word
  poolFac  : Nat
  poolBlk  : Nat
  poolSp   : Nat
  fqbase   : Word
  fqhead   : Nat
  fqtail   : Nat
  fqlost   : Nat
  fqstale  : Nat
  fqSeq    : Nat
  fqWait   : List (Nat × List Word)
  total    : Nat
  mlost    : Nat
  mread    : Nat
  mnext    : Nat
  mrec     : Tab (Option (List Word))
  mons     : Tab Monitor
  tlb2     : List Tlb
  walks    : List Walk
  dcache   : Tab (Option (BitVec 512))
  pickAt   : Nat
  wcache   : List (Nat × Word)
  fqNet    : Nat
  fqFirst  : Nat
  deriving DecidableEq, Repr

/-- A die as reset leaves it: AGEINT 50, COMPEN 1, PLTO 0x3E8, every STK 0b111 (Tables 04-6, 05-4, 05-6). -/
def Die.reset : Die :=
  { ageint := 0x32, rrptr := [], relBuf := [], sick := [], lost := [], retire := [], fbez := [], sepcore := false,
    compen := true, plto := 0x3E8, hbmsep := false, tenway := [], tenhbm := 0xFFFFFFFFFFFF, loadstat := 0,
    savepool := 0, poolFac := 0, poolBlk := 0, poolSp := 0, fqbase := 0, fqhead := 0, fqtail := 0, fqlost := 0,
    fqstale := 0, fqSeq := 0, fqWait := [], total := 0, mlost := 0, mread := 0, mnext := 0, mrec := [], mons := [],
    tlb2 := [], walks := [], dcache := [], pickAt := 0, wcache := [], fqNet := 0, fqFirst := 0 }

/-- A provisional line (12 R267): the load, the segment, the line, the bytes written, whether what was written carried
poison (12 R263), and the cores whose threads wrote it. line is the byte key of its address over 64 (Machine/Memory.lean). -/
structure Prov where
  load  : Nat
  wave  : Nat
  line  : Nat
  bytes : Tab (Option Byte)
  pois  : Bool := false
  cores : List Nat := []
  deriving DecidableEq, Repr

/-- A self-test under way (12 R259, 19 R409): the lane, when it ends, and the slot whose selftest waits for it. -/
structure Test where
  id   : Nat
  part : List Nat
  due  : Nat
  slot : Option Nat
  inj  : Bool
  recAt : Option (Nat × Nat)
  load : Nat
  deriving DecidableEq, Repr

/-- A deadlock probe (13 R286 to R288): its origin and what that waits for; the network cycle of its last hop, plus one;
the hops made; the paths it is on, each from its latest party back to its first; and, once a path has come back to the
origin, what it has still to retrace. A party on a path stands with what tells whether it has moved since. -/
structure Probe where
  id    : Nat
  slot  : Nat
  since : Nat
  wait  : Wait
  at_   : Nat
  hops  : Nat
  paths : List (List (Nat × Nat))
  back  : Option (List (Nat × Nat))
  deriving DecidableEq, Repr

/-! ## The package edge -/

/-- A Rolrix Link port (02 R28, R29, Table 02-6). ackAt is the core cycle of the last acknowledgement, or in which the
oldest flit that waits for one was sent; failed tells that it has failed and has not been up since. A flit of unack has its
number, which part of its packet it carries, and the packet; wire holds, for each flit on its way to the port, the part and the
packet that it carries, and rxq the packets that have come whole. -/
structure Port where
  ctl    : Word
  corr   : Nat
  replay : Nat
  drops  : Nat
  late   : Nat
  downs  : Nat
  st     : Nat
  tries  : Nat
  rxNext : Nat
  rxBad  : Bool
  txNext : Nat
  unack  : List (Nat × Nat × Packet)
  wire   : List (Nat × Packet)
  rxq    : List Packet
  resent : Nat
  ackAt  : Nat
  failed : Bool
  deriving DecidableEq, Repr

def Port.reset : Port :=
  { ctl := 0x0000006400140000, corr := 0, replay := 0, drops := 0, late := 0, downs := 0, st := 0, tries := 0,
    rxNext := 0, rxBad := false, txNext := 0, unack := [], wire := [], rxq := [], resent := 0,
    ackAt := 0, failed := false }

/-- An outstanding remote request (02 R36). who: what waits for it (0 load, 1 store, 2 atomic, 3 fetch, 4 waitw,
5 read of an engine, 6 write of one, 7 a read or write of an engine whose command was killed, a the load it was of, 8 the write of a provisional line, 9 the
decrement of a task's successor, a the task); a and b
place it (slot and sequence number, core and entry). id is a number that it keeps when it is sent again. -/
structure Remote where
  pkt   : Packet
  who   : Nat
  a     : Nat
  b     : Nat
  tries : Nat
  sent  : Nat
  id    : Nat := 0
  deriving DecidableEq, Repr

/-- An outstanding access to host memory (03 R52, R53): kind 0 read, 1 write, 2 atomic, 3 fetch, 4 waitw,
5 read of an engine, 6 write of one, 7 either of a killed command (a its load), 8 the zero-length read behind a posted write
(a the core, b the write's number). -/
structure HostReq where
  kind : Nat
  a    : Nat
  b    : Nat
  addr : Nat
  deriving DecidableEq, Repr

/-- A border-circuit end (02 R37 to R40): the load that holds it, its table entry, the next sequence number, the sequence
numbers of the packets without credit, the packets held (sequence number, sender, words), and the words to deliver or, of
an outgoing circuit, to pack. -/
structure Border where
  load  : Nat
  entry : Word
  seq   : Nat
  open_ : List Nat
  held  : List (Nat × Nat × List LW)
  words : List LW
  deriving DecidableEq, Repr

/-- A message that leaves the package. -/
inductive Out where
  | msix (vec : Nat) (addr data : Word)
  | packet (port : Nat) (p : Packet)
  | flit (port seq part : Nat) (p : Packet)
  | linkAck (port next : Nat)
  | linkNak (port next : Nat)
  | snoop (line : Nat)
  | hostRead (id addr size : Nat)
  | hostWrite (id addr mask : Nat) (data : List Nat) (line : Bool)
  | hostAtomic (id addr op size : Nat) (a b : Word)
  | hostFlush (addr : Nat)
  | memData (range off : Nat) (data : List Nat) (poison unsupported : Bool)
  | memDone (range off : Nat) (unsupported : Bool)
  | spdm (code : Nat) (data : List Nat)
  | mctp (code : Nat) (data : List Nat)
  | barData (off size : Nat) (v : Nat) (unsupported : Bool)
  | unsupported
  | doe (data : List Nat)
  | thermal
  deriving DecidableEq, Repr

/-- A flash image slot (03 R63): whether its signature verifies under its public key, its security version, the image, and
whether its public key is one of the two whose hashes the boot ROM holds. -/
structure Image where
  good : Bool
  svn  : Nat
  id   : Nat
  key  : Bool := true
  deriving DecidableEq, Repr

/-- What boot finds: the flash (03 R63), the silicon (03 R60, R64) and the domain description (02 R30). Facet tiles
that fail are listed as (die · 192 + facet, tile), local-store entries as (die · 192 + facet, vector tile, entry). badSig
lists the records of the repair log whose signature does not verify; cfgOk tells whether the configuration partition's does. -/
structure Facts where
  imageA  : Image
  imageB  : Image
  minSvn  : Nat
  puf     : Bool
  badCore : List Nat
  badTile : List (Nat × Nat)
  badLs   : List (Nat × Nat × Nat)
  fatal   : Bool
  memOk   : Bool
  domain  : Bool
  longest : Nat
  pkg     : Nat
  routes  : List (Nat × Word)
  ports   : List Nat
  hbmsep  : List Nat
  svcBase : Word
  svcSize : Word
  repairs : List (List Nat)
  atomics : Bool
  badSig  : List (List Nat) := []
  cfgOk   : Bool := true
  deriving DecidableEq, Repr

/-- The package as a whole (01, 03). seed, devKey, aliasKey and cert are what R64 makes at boot, meas the measurements of R65. -/
structure Package where
  devState : Nat
  errCode  : Nat
  svn      : Nat
  pkgNo    : Nat
  bootSlot : Nat
  rootPc   : Word
  rootArg  : Word
  rootCtl  : Word
  persist  : Word
  hostUr   : Nat
  sfInv    : Nat
  fclk     : Nat
  steps    : Nat
  pcause   : Nat
  tjmax    : Nat
  quiet    : Nat
  cap      : Option Nat
  powered  : Bool
  hostUp   : Bool
  warmWait : Bool
  step6    : Bool
  svcBase  : Word
  svcSize  : Word
  facts    : Facts
  spdmVer  : Nat
  spdmNeg  : Bool
  trans    : List (List Nat × Nat)
  seed     : Option Nat := none
  devKey   : Nat := 0
  aliasKey : Nat := 0
  cert     : Nat := 0
  meas     : List Nat := []
  deriving DecidableEq, Repr

/-! ## Turns -/

/-- A thing that may happen next. -/
inductive Act where
  | issue (core slot : Nat)         -- the slot issues its next instruction, where its core may issue it now (06 R116)
  | event (i : Instr)               -- an event of the opcode table
  | dropL1 (core line : Nat)        -- an L1 data line is replaced
  | dropL1i (core line : Nat)       -- an instruction-cache line is replaced
  | dropTlb1 (core n : Nat)         -- an L1 TLB entry is replaced
  | dropTlb2 (die n : Nat)          -- a second-level TLB entry is replaced
  | dropDesc (die line : Nat)       -- a descriptor-cache line is replaced
  | dropWalk (die n : Nat)          -- a walk-cache entry is replaced
  | wire (port part : Nat) (pkt : Packet)   -- the far side puts a flit on the wire: a part of a packet (02 R28)
  | pack (circ : Nat)               -- the converter of an outgoing border circuit packs what it holds (02 R37)
  | hostRead (off size : Nat)       -- the host reads through BAR0 (03 R47, R59)
  | hostOther                       -- a host request outside Table 03-1 (03 R46)
  | hostCdat (entry : Nat)          -- the host reads a CDAT entry over the DOE mailbox (03 Table 03-1)
  | heldMem                         -- a CXL.mem request held over a warm reset is performed (03 R60)
  | raiseMinimum (svn : Nat)        -- firmware raises the minimum-version record (03 R63)
  | coreUpset (core : Nat) (w : Word)   -- a transient error in a unit of a core, placed as ERRINJ places one (12 R255)
  | engineUpset (core eid : Nat)    -- a transient error in what an engine writes (12 R255)
  | fabricUpset (errs : List (Nat × Nat × Nat × Nat × Nat))   -- mismatches of one fabric cycle: tile, slot, lane, opcode, SRC (12 R256)
  | arrayError (key kind n : Nat)   -- an uncorrectable error: 0 SRAM row, 1 local-store entry, 2 accumulator (12 R261)
  | lineError (line : Nat)          -- one in a dirty last-level cache line (12 R261; 01 R25)
  | provError (load line : Nat)     -- one in a provisional line (12 R261)
  | queueError (key n : Nat)        -- one in a word of queue storage (12 R261)
  | idle                            -- nothing happens
  deriving DecidableEq, Repr

/-- A turn: core, fabric and network cycles that pass first, and then what happens (log 5, 6). -/
structure Turn where
  core : Nat
  fab  : Nat
  net  : Nat
  act  : Act
  deriving DecidableEq, Repr

/-- The whole machine. -/
structure State where
  agenda : List Turn
  cur    : Nat
  pos    : Nat
  clock  : Nat
  cycle  : Nat
  fab    : Nat
  net    : Nat
  fabPh  : Nat
  netPh  : Nat
  pkg    : Package
  mem    : Mem
  poison : Tab Bool
  prov   : List Prov
  slots  : Tab Slot
  cores  : Tab Core
  dies   : Tab Die
  tqs    : Tab TaskQ
  tasks  : Tab (Option Task)
  nTask  : Nat
  queues : Tab Queue
  loads  : Tab (Option Load)
  tiles  : Tab Tile
  ports  : Tab Port
  droute : Tab Word
  msix   : Tab Word
  msixP  : List Nat
  inbox  : List (Nat × Packet)
  remotes : Tab (Option Remote)
  nTag   : Nat
  nStep  : Nat
  served : List (Nat × Nat × Packet)
  hostRq : Tab (Option HostReq)
  nHost  : Nat
  snoop  : List (Nat × Bool)
  snooped : List Nat
  borders : Tab (Option Border)
  early  : List (Nat × Nat × Nat × List LW)
  tests  : List Test
  upsets : List (Nat × Word)
  memHeld : List Instr
  nTest  : Nat
  probes : List Probe
  nProbe : Nat
  compact : Option Compact
  sweepAt : Nat
  fresh  : Nat
  out    : List Out
  deriving DecidableEq, Repr

/-- What boot finds unless a state says otherwise (log 3, DESIGN CHOICE): image A verifies, every part is healthy,
package 0 alone, no ports, the service region in the LPDDR of die 0, 64 GiB from 0x1000_0000_0000. -/
def Facts.default : Facts :=
  { imageA := { good := true, svn := 1, id := 1 }, imageB := { good := false, svn := 0, id := 0 }, minSvn := 0,
    puf := true, badCore := [], badTile := [], badLs := [], fatal := false, memOk := true, domain := true, longest := 0,
    pkg := 0, routes := [], ports := [], hbmsep := [], svcBase := 0x100000000000, svcSize := 0x1000000000,
    repairs := [],
    atomics := true }

/-- The package registers after a cold reset, before boot (01 R24, 03 R59; log 2 for fields that boot sets). -/
def Package.reset : Package :=
  { devState := 0, errCode := 0, svn := 0, pkgNo := 0, bootSlot := 0, rootPc := 0, rootArg := 0, rootCtl := 0,
    persist := 0, hostUr := 0, sfInv := 0, fclk := 0x34, steps := 0, pcause := 0, tjmax := 0, quiet := 0, cap := none,
    powered := true, hostUp := true, warmWait := false, step6 := false, svcBase := 0, svcSize := 0,
    facts := Facts.default, spdmVer := 0, spdmNeg := false, trans := [] }

/-- The machine right after a cold reset is asserted: boot has not begun (03 R59, R60: DEVSTAT.STATE is 0). -/
def State.reset : State :=
  { agenda := [], cur := 0, pos := 0, clock := 1, cycle := 0, fab := 0, net := 0, fabPh := 0, netPh := 0,
    pkg := Package.reset, mem := [], poison := [], prov := [], slots := [], cores := [], dies := [], tqs := [],
    tasks := [], nTask := 1, queues := [], loads := [], tiles := [], ports := [], droute := [], msix := [],
    msixP := [], inbox := [], remotes := [], nTag := 0, nStep := 0, served := [], hostRq := [], nHost := 0, snoop := [],
    snooped := [], borders := [], early := [], tests := [], upsets := [], memHeld := [], nTest := 0, probes := [], nProbe := 0, compact := none, sweepAt := 0,
    fresh := 0, out := [] }

end Sys2Proof.Machine
end

