-- ==== Sys2Proof/Machine/Ops.lean ====
section
/-! DEFINITION. Named operations over the state: reading and writing its tables, bit fields, the address map, memory
at its home, messages that leave, fault-queue entries, machine-check records, and taking and returning from a trap. -/

namespace Sys2Proof.Machine

/-! ## Bit fields (00 R3) -/

/-- The n bits of a doubleword from bit lo upward. -/
def bits (w : Word) (lo n : Nat) : Nat := fld w.toNat lo n

/-- The doubleword whose n bits from bit lo upward are v. -/
def field (lo n v : Nat) : Word := BitVec.ofNat 64 (v % 2 ^ n * 2 ^ lo)

/-- A doubleword with its n bits from bit lo upward replaced by v. -/
def setBits (w : Word) (lo n v : Nat) : Word := (w &&& ~~~(field lo n (2 ^ n - 1))) ||| field lo n v

/-- Bit i of a doubleword. -/
def bit (w : Word) (i : Nat) : Bool := bits w i 1 == 1

/-- v[n-1:0] sign-extended to 64 bits (00 Table 00-4). -/
def sext64 (v n : Nat) : Word :=
  if v % 2 ^ n < 2 ^ (n - 1) then BitVec.ofNat 64 (v % 2 ^ n) else BitVec.ofNat 64 (v % 2 ^ n + 2 ^ 64 - 2 ^ n)

/-- v[n-1:0] zero-extended to 64 bits (00 Table 00-4). -/
def zext64 (v n : Nat) : Word := BitVec.ofNat 64 (v % 2 ^ n)

/-- A count that stops at a largest value. -/
def satAdd (a b top : Nat) : Nat := if a + b > top then top else a + b

/-- Remove the n-th entry of a list. -/
def dropNth {α : Type} (l : List α) (n : Nat) : List α := l.take n ++ l.drop (n + 1)

/-- Replace the n-th entry of a list. -/
def setNth {α : Type} (l : List α) (n : Nat) (a : α) : List α :=
  if n < l.length then l.take n ++ a :: l.drop (n + 1) else l

/-- 1 for true, 0 for false. -/
def b2n (b : Bool) : Nat := if b then 1 else 0

/-- The next value the spec does not state, for a use (log 12). -/
def State.free (s : State) (use : Nat) : State × Nat := ({ s with fresh := s.fresh + 1 }, Config.free use s.fresh)

/-! ## The state's tables -/

/-- The number of slot t of core c among the package's slots. -/
def slotKey (c t : Nat) : Nat := c * 16 + t

def State.slot (s : State) (k : Nat) : Slot := Tab.get Slot.reset s.slots k
def State.setSlot (s : State) (k : Nat) (x : Slot) : State := { s with slots := Tab.set Slot.reset s.slots k x }
def State.core (s : State) (c : Nat) : Core := Tab.get Core.reset s.cores c
def State.setCore (s : State) (c : Nat) (x : Core) : State := { s with cores := Tab.set Core.reset s.cores c x }
def State.die (s : State) (d : Nat) : Die := Tab.get Die.reset s.dies d
def State.setDie (s : State) (d : Nat) (x : Die) : State := { s with dies := Tab.set Die.reset s.dies d x }
def State.tq (s : State) (q : Nat) : TaskQ := Tab.get TaskQ.reset s.tqs q
def State.setTq (s : State) (q : Nat) (x : TaskQ) : State := { s with tqs := Tab.set TaskQ.reset s.tqs q x }
def State.queue (s : State) (k : Nat) : Queue := Tab.get Queue.none s.queues k
def State.setQueue (s : State) (k : Nat) (x : Queue) : State := { s with queues := Tab.set Queue.none s.queues k x }
def State.tile (s : State) (k : Nat) : Tile := Tab.get Tile.empty s.tiles k
def State.setTile (s : State) (k : Nat) (x : Tile) : State := { s with tiles := Tab.set Tile.empty s.tiles k x }
def State.port (s : State) (p : Nat) : Port := Tab.get Port.reset s.ports p
def State.setPort (s : State) (p : Nat) (x : Port) : State := { s with ports := Tab.set Port.reset s.ports p x }
def State.load (s : State) (l : Nat) : Option Load := Tab.get none s.loads l
def State.setLoad (s : State) (l : Nat) (x : Load) : State := { s with loads := Tab.set none s.loads l (some x) }
def State.dropLoad (s : State) (l : Nat) : State := { s with loads := Tab.set none s.loads l none }
def State.task (s : State) (t : Nat) : Option Task := Tab.get none s.tasks t
def State.setTask (s : State) (t : Nat) (x : Option Task) : State := { s with tasks := Tab.set none s.tasks t x }
def State.stream (s : State) (c n : Nat) : Option Stream := Tab.get none (s.core c).streams n
def State.setStream (s : State) (c n : Nat) (x : Option Stream) : State :=
  s.setCore c { s.core c with streams := Tab.set none (s.core c).streams n x }
def State.copy (s : State) (c n : Nat) : Option CopyEng := Tab.get none (s.core c).copies n
def State.setCopy (s : State) (c n : Nat) (x : Option CopyEng) : State :=
  s.setCore c { s.core c with copies := Tab.set none (s.core c).copies n x }

/-- The slot whose instruction is being executed. -/
def State.me (s : State) : Slot := s.slot s.cur
def State.setMe (s : State) (x : Slot) : State := s.setSlot s.cur x
/-- Its core, and the core's die (01 R15). -/
def State.myCore (s : State) : Nat := s.cur / 16
def dieOfSlot (k : Nat) : Nat := k / 1024
def dieOfCore (c : Nat) : Nat := c / 64

/-! ## General registers (06 R112) -/

/-- The registers as a slot's thread reads them: g0 reads 0. -/
def Slot.reg (x : Slot) (n : Nat) : Word := if n = 0 then 0 else Tab.get 0 x.regs n

/-- A slot after a register is written: a write to g0 is discarded. -/
def Slot.setReg (x : Slot) (n : Nat) (v : Word) : Slot :=
  if n = 0 then x else { x with regs := Tab.set 0 x.regs n v }

def State.rg (s : State) (n : Nat) : Word := s.me.reg n
def State.wr (s : State) (n : Nat) (v : Word) : State := s.setMe (s.me.setReg n v)
def State.setPc (s : State) (v : Word) : State := s.setMe { s.me with pc := v }
def State.pc (s : State) : Word := s.me.pc
/-- The thread goes on to the next word (16 R345). -/
def State.advance (s : State) : State := s.setPc (s.pc + 4)

/-- Register n waits for a load, multiply or divide that has not returned (06 R117). -/
def Slot.busyReg (x : Slot) (n : Nat) : Bool :=
  n != 0 && (x.muls.any (fun m => m.dst == n) ||
    x.outs.any (fun o => !o.isPf && (o.dst == n || (o.size == 16 && o.dst + 1 == n))))

/-- Register n has been given a value that cannot be read yet (06 R117). -/
def Slot.lateReg (x : Slot) (now n : Nat) : Bool := n != 0 && x.late.any (fun e => e.1 == n && decide (now < e.2))

/-- Some register of a list waits (the interlock of 06 R117, 16 R334). -/
def State.busy (s : State) (l : List Nat) : Bool := l.any (fun n => s.me.busyReg n || s.me.lateReg s.cycle n)

/-! ## Status fields of a slot (19 Table 19-4) -/

/-- TSTAT.MODE: 0 user, 1 service, 2 machine. -/
def Slot.mode (x : Slot) : Nat := bits x.tstat 0 2
/-- TSTAT.TL. -/
def Slot.level (x : Slot) : Nat := bits x.tstat 8 2
/-- TSTAT.IE. -/
def Slot.ie (x : Slot) : Bool := bit x.tstat 4
/-- ASID as a number. -/
def Slot.asidN (x : Slot) : Nat := bits x.asid 0 16

/-- Nothing that the slot has issued is unfinished (16 R347). -/
def Slot.settled (x : Slot) : Bool := x.outs.isEmpty && x.muls.isEmpty

/-! ## The address map (01 R17, R18) -/

/-- Where a physical address lies. -/
inductive Place where
  | dram (die off : Nat)
  | control (off : Nat)
  | hole
  | remote (pkg : Nat)
  deriving DecidableEq, Repr

/-- Table 01-3 on a local offset. -/
def placeOf (off : Nat) : Place :=
  if off < 0xC000000000 then .dram (off / 0x3000000000) off
  else if 0x100000000000 ≤ off ∧ off < 0x110000000000 then .dram ((off - 0x100000000000) / 0x4000000000) off
  else if 0x3F0000000000 ≤ off ∧ off < 0x400000000000 then .control off
  else .hole

/-- The local offset of a physical address, bits [45:0]. -/
def offOf (pa : Nat) : Nat := pa % 2 ^ 46

/-- A physical address in the package of a state. -/
def State.place (s : State) (pa : Nat) : Place :=
  if pa / 2 ^ 46 % 1024 = s.pkg.pkgNo then placeOf (offOf pa) else .remote (pa / 2 ^ 46 % 1024)

/-- n bytes from a physical address lie in local HBM or LPDDR. -/
def State.localDram (s : State) (pa : Nat) : Bool := match s.place pa with | .dram .. => true | _ => false

/-- The local HBM stack of an offset in a die's HBM range (01 R19, 05 R110), none for LPDDR. -/
def State.stackOf (s : State) (d off : Nat) : Option Nat :=
  if off < 0xC000000000 then
    some (if (s.die d).hbmsep then (off - d * 0x3000000000) / 2 ^ 36 else (off - d * 0x3000000000) / 1024 % 3)
  else none

/-- The channel of an offset: in its stack for HBM, of its die for LPDDR (01 R19). With each stack a range of its own
(05 R110), the blocks of a stack go over its 32 channels in turn (log 74). -/
def State.channelOf (s : State) (d off : Nat) : Nat :=
  if off < 0xC000000000 then
    let o := off - d * 0x3000000000
    if (s.die d).hbmsep then o % 2 ^ 36 / 1024 % 32 else o / 1024 / 3 % 32
  else (off - 0x100000000000 - d * 0x4000000000) / 1024 % 8

/-- Numbers of parts in the package (01 Table 01-1): cores, stacks, LPDDR channels, monitors, ports. -/
def coreNo (d n : Nat) : Nat := 64 * d + n
def stackNo (d n : Nat) : Nat := 3 * d + n
def lpddrNo (d n : Nat) : Nat := 8 * d + n
def monitorNo (d n : Nat) : Nat := 16 * d + n

/-- Where a local DRAM address is stored: its package-wide HBM stack and the channel in it, or its package-wide LPDDR
channel. -/
def State.bankAt (s : State) (pa : Nat) : Option (Nat × Nat) :=
  match s.place pa with
  | .dram d off => some (match s.stackOf d off with
    | some n => (stackNo d n, s.channelOf d off)
    | none => (12, lpddrNo d (s.channelOf d off)))
  | _ => none

/-- The service region (07 R146): size 0 when it does not lie wholly in local DRAM of one range. -/
def State.svcBase (s : State) : Nat := s.pkg.svcBase.toNat
def State.svcSize (s : State) : Nat :=
  let b := s.pkg.svcBase.toNat
  let n := s.pkg.svcSize.toNat
  let o := offOf b
  if n = 0 then 0
  else if b / 2 ^ 46 % 1024 ≠ s.pkg.pkgNo then 0
  else if o + n ≤ 0xC000000000 then n
  else if 0x100000000000 ≤ o ∧ o + n ≤ 0x110000000000 then n
  else 0

/-- The n bytes from physical address a lie wholly in the service region. -/
def State.inSvc (s : State) (a n : Nat) : Bool :=
  decide (s.svcBase ≤ a) && decide (a + n ≤ s.svcBase + s.svcSize)

/-- A range of n bytes from physical address a overlaps the service region. -/
def State.hitsSvc (s : State) (a n : Nat) : Bool :=
  s.svcSize != 0 && decide (a < s.svcBase + s.svcSize) && decide (s.svcBase < a + n)

/-! ## Memory at its home (11 R230, 12 R262) -/

/-- The line of an address (01 R16). -/
def lineOf (a : Nat) : Nat := a / 64

/-- The n bytes at a local physical address, as a number. -/
def State.home (s : State) (pa n : Nat) : Nat := Mem.readN s.mem (offOf pa) n
def State.homeD (s : State) (pa : Nat) : Word := Mem.readD s.mem (offOf pa)

/-- The line of a local physical address carries a poison encoding. -/
def State.poisoned (s : State) (pa : Nat) : Bool := Tab.get false s.poison (lineOf (offOf pa))
def State.setPoison (s : State) (line : Nat) (b : Bool) : State := { s with poison := Tab.set false s.poison line b }

/-- The slots whose waitw watches a line have a write to it reported (17 R366). -/
def State.report (s : State) (line : Nat) : State :=
  { s with slots := s.slots.map (fun e => match e.2.wait with
      | .word l _ => if l = line then (e.1, { e.2 with wait := .word l s.cycle }) else e
      | _ => e) }

/-- The byte at an offset of a line replaced. -/
def lineSetByte (d : BitVec 512) (o : Nat) (v : Byte) : BitVec 512 :=
  (d &&& ~~~(BitVec.ofNat 512 (255 * 2 ^ (8 * o)))) ||| BitVec.ofNat 512 (v.toNat * 2 ^ (8 * o))

/-- A core's L1 copy of a line, if there is one, takes a byte that the core has performed (06 R121). -/
def State.l1Byte (s : State) (c off : Nat) (v : Byte) : State :=
  match Tab.get none (s.core c).l1d (lineOf off) with
  | none => s
  | some l => s.setCore c { s.core c with
      l1d := Tab.set none (s.core c).l1d (lineOf off) (some { l with data := lineSetByte l.data (off % 64) v }) }

/-- One byte performs at its home; c is the core whose L1 copy it updates, if any. -/
def State.putByte (s : State) (c : Option Nat) (off : Nat) (v : Byte) : State :=
  let s := { s with mem := Mem.write s.mem off v }
  match c with
  | some k => s.l1Byte k off v
  | none => s

/-- The n low bytes of v perform from a local offset upward. -/
def State.putBytes (s : State) (c : Option Nat) (off : Nat) : Nat → Nat → State
  | 0, _ => s
  | n + 1, v => State.putBytes (s.putByte c off (BitVec.ofNat 8 v)) c (off + 1) n (v / 256)

/-- A write of n bytes at one instant at its home: a full-line write clears poison (12 R262), and a watching waitw
hears of it. -/
def State.store (s : State) (c : Option Nat) (pa n v : Nat) : State :=
  let s := s.putBytes c (offOf pa) n v
  let s := if n = 64 then s.setPoison (lineOf (offOf pa)) false else s
  s.report (lineOf (offOf pa))

/-- A write of the bytes listed by offset in a line. -/
def State.storeTab (s : State) (c : Option Nat) (line : Nat) (bs : Tab (Option Byte)) : State :=
  let s := bs.foldl (fun s e => match e.2 with | some v => s.putByte c (line * 64 + e.1) v | none => s) s
  let s := if bs.length = 64 then s.setPoison line false else s
  s.report line

/-- A doubleword written by the device at a local physical address. -/
def State.storeD (s : State) (c : Option Nat) (pa : Nat) (v : Word) : State := s.store c pa 8 v.toNat

/-- Doublewords written one after another. -/
def State.storeDs (s : State) (c : Option Nat) (pa : Nat) : List Word → State
  | [] => s
  | w :: r => State.storeDs (s.storeD c pa w) c (pa + 8) r

/-- n doublewords read one after another. -/
def State.homeDs (s : State) (pa : Nat) : Nat → List Word
  | 0 => []
  | n + 1 => s.homeD pa :: State.homeDs s (pa + 8) n

/-- The 64 bytes of a line. -/
def State.homeLine (s : State) (line : Nat) : BitVec 512 := BitVec.ofNat 512 (Mem.readN s.mem (line * 64) 64)

/-! ## The snoop filter (03 R49, R50) -/

/-- Whether the host holds a line, and whether it holds it modified. -/
def State.held (s : State) (line : Nat) : Option Bool := (s.snoop.find? (fun e => e.1 == line)).map (fun e => e.2)

/-- A device write of a line waits while the host holds it; a device read while the host holds it modified. -/
def State.mustSnoop (s : State) (line : Nat) (write : Bool) : Bool :=
  match s.held line with
  | none => false
  | some m => write || m

/-- Send the back-invalidate for a line once. -/
def State.askHost (s : State) (line : Nat) : State :=
  if s.snooped.contains line then s
  else { s with snooped := line :: s.snooped, out := s.out ++ [.snoop line] }

/-- The lines of a list for which the host must be asked first. -/
def State.snoopList (s : State) (ls : List Nat) (write : Bool) : List Nat := ls.filter (fun l => s.mustSnoop l write)
def State.askAll (s : State) (ls : List Nat) : State := ls.foldl State.askHost s

/-! ## Messages out -/

def State.emit (s : State) (o : Out) : State := { s with out := s.out ++ [o] }

/-- A doubleword of the MSI-X table: the vector-control mask bit is set until it is written (log 13, PRESUMED). -/
def msixDefault (i : Nat) : Word := if i % 2 = 1 then 0x100000000 else 0
def State.msixD (s : State) (i : Nat) : Word := Tab.get (msixDefault i) s.msix i

/-- A device event or completion on a vector: one message, or the pending bit when the vector is masked (03 R58). -/
def State.sendMsix (s : State) (v : Nat) : State :=
  if v ≥ 2048 then s
  else if bit (s.msixD (2 * v + 1)) 32 then
    (if s.msixP.contains v then s else { s with msixP := v :: s.msixP })
  else s.emit (.msix v (s.msixD (2 * v)) (s.msixD (2 * v + 1) &&& 0xFFFFFFFF))

/-- DEVSTAT.STATE changes: vector 0 (Table 03-6). -/
def State.setDev (s : State) (st : Nat) : State :=
  let s' := { s with pkg := { s.pkg with devState := st } }
  if s.pkg.devState = st then s' else s'.sendMsix 0

/-- The device runs: powered, and its clocks not stopped (01 R25). -/
def State.running (s : State) : Bool := s.pkg.powered && s.pkg.devState != 8

/-! ## Fault-queue entries (07 R155 to R157) -/

/-- Whether a kind of entry waits in the 64-entry buffer that may lose it (07 R156). -/
def lossy (etype : Nat) : Bool := etype == 3 || etype == 4 || etype == 5 || etype == 7

/-- The kind of a waiting entry. -/
def etypeOf (ws : List Word) : Nat := bits (ws.headD 0) 12 4

/-- The kind is that of a party that faults: a thread, a stream, a copy, a nested fault. -/
def partyEntry (ws : List Word) : Bool := !lossy (etypeOf ws)

/-- A party's place in the order of R155: core, then slot, then engine index, as its entry has them (07 Table 07-10). -/
def partyKey (ws : List Word) : Nat :=
  bits (ws.getD 1 0) 40 8 * 2048 + bits (ws.getD 1 0) 36 4 * 128 + bits (ws.getD 1 0) 29 7

/-- A sequence number's distance from another. -/
def seqFrom (first seq : Nat) : Nat := (seq + 2 ^ 32 - first) % 2 ^ 32

/-- The number of a waiting entry, or a party, when the last of the numbers from first on moves to place p. -/
def reseq (first last p seq : Nat) : Nat :=
  let d := seqFrom first seq
  if seq = last then (first + p) % 2 ^ 32 else if p ≤ d ∧ d < seqFrom first last then (seq + 1) % 2 ^ 32 else seq

/-- The party that has just taken the last number takes the one that its place among the parties of this network cycle gives
it; those behind it move up by one (07 R155). -/
def State.orderFaults (s : State) (d first last : Nat) (ws : List Word) : State :=
  let x := s.die d
  match x.fqWait.find? (fun e => decide (seqFrom first e.1 < seqFrom first last) && partyEntry e.2 && decide (partyKey ws < partyKey e.2)) with
  | none => s
  | some e =>
    let f := reseq first last (seqFrom first e.1)
    let g := fun (dd n : Nat) => if dd = d ∧ seqFrom first n ≤ seqFrom first last then f n else n
    let num := fun (e : Nat × List Word) => (f e.1, setBits (e.2.headD 0) 32 32 (f e.1) :: e.2.drop 1)
    let early := x.fqWait.takeWhile (fun y => y.1 != e.1)
    let late := x.fqWait.drop early.length
    let s := s.setDie d { x with fqWait := early ++ (late.getLast?.toList ++ late.dropLast).map num }
    { s with
      slots := s.slots.map (fun (e : Nat × Slot) => (e.1, { e.2 with parkSeq := g e.2.parkDie e.2.parkSeq }))
      cores := s.cores.map (fun (e : Nat × Core) => (e.1, { e.2 with
        streams := e.2.streams.map (fun y => (y.1, y.2.map (fun (z : Stream) => { z with parkSeq := g z.parkDie z.parkSeq })))
        copies := e.2.copies.map (fun y => (y.1, y.2.map (fun (z : CopyEng) => { z with parkSeq := g z.parkDie z.parkSeq }))) })) }

/-- A fault or report is detected on a die: it takes the next sequence number, a party one by its place among those of the
same network cycle, and waits to be written. -/
def State.faultEntry (s : State) (d etype asid reason level acc : Nat) (rest : List Word) : State :=
  let x := s.die d
  let seq := x.fqSeq
  let dw0 := field 32 32 seq ||| field 16 16 asid ||| field 12 4 etype ||| field 8 4 reason ||| field 6 2 level |||
    field 2 2 acc
  let first := if x.fqNet = s.net + 1 then x.fqFirst else seq
  let x := { x with fqSeq := (seq + 1) % 2 ^ 32, fqNet := s.net + 1, fqFirst := first }
  let n : Nat := (x.fqWait.filter (fun e => lossy (etypeOf e.2))).length
  if lossy etype && decide (64 ≤ n) then s.setDie d { x with fqlost := satAdd x.fqlost 1 0xFFFF }
  else
    let s := s.setDie d { x with fqWait := x.fqWait ++ [(seq, dw0 :: rest)] }
    if lossy etype then s else s.orderFaults d first seq (dw0 :: rest)

/-- A waiting entry's number may yet change: it was given in this network cycle. -/
def State.numbering (s : State) (d seq : Nat) : Bool :=
  let x := s.die d
  x.fqNet == s.net + 1 && decide (seqFrom x.fqFirst seq < seqFrom x.fqFirst x.fqSeq)

/-- DW1 of an entry: issuer's core and slot, the party's core and slot, the engine index (Table 07-10). -/
def faultDw1 (iss k eng : Nat) (thread : Bool) (core : Nat) : Word :=
  field 56 8 (iss / 16) ||| field 52 4 (iss % 16) ||| field 40 8 core |||
    field 36 4 (if thread then k % 16 else 0) ||| field 29 7 eng

/-- FQBASE as it reads: EN reads 0 while the ring does not lie wholly in the service region (Table 07-9). -/
def State.fqOn (s : State) (d : Nat) : Bool :=
  let b := (s.die d).fqbase
  bit b 0 && s.inSvc (bits b 12 44 * 4096) (64 * 64 * 2 ^ bits b 4 4)
def State.fqPark (s : State) (d : Nat) : Bool := s.fqOn d && !bit (s.die d).fqbase 1

/-! ## Asynchronous traps (19 R401) -/

/-- The source of a trap that a load, and no single tile or bezel of it, raises for its owner. -/
def loadSrc (l : Nat) : Nat := l * 2 ^ 24 + 2 ^ 22

/-- A thread's context with one more trap pending; a full list discards it and counts AOVF. -/
def Slot.pended (x : Slot) (cause : Nat) (tval : Word) (src : Nat) : Slot :=
  if x.pend.length < 16 then { x with pend := x.pend ++ [{ cause := cause, tval := tval, src := src }] }
  else { x with tstat := setBits x.tstat 16 16 (satAdd (bits x.tstat 16 16) 1 0xFFFF) }

/-- The name of a thread that stands in a saved load's image: that of its slot before, and the load's (05 R100). -/
def awayKey (l k : Nat) : Nat := 4096 * (1 + l) + k

/-- The contexts that a load's image holds of a thread. -/
def Load.changeSaved (x : Load) (k : Nat) (f : Slot → Slot) : Load :=
  { x with snaps := x.snaps.map (fun z => { z with slots := z.slots.map (fun e => if e.1 = k then (e.1, f e.2) else e) }) }

/-- The context of a thread, in its slot or in an image. -/
def State.context (s : State) (k : Nat) : Slot :=
  if k < 4096 then s.slot k
  else match s.load (k / 4096 - 1) with
    | some x => (match x.snaps.findSome? (fun z => z.slots.find? (fun e => e.1 == k % 4096)) with
      | some e => e.2
      | none => Slot.reset)
    | none => Slot.reset

/-- A trap becomes pending for a thread, in its slot or in a saved load's image. A free slot takes none. -/
def State.pend (s : State) (k cause : Nat) (tval : Word) (src : Nat) : State :=
  if k < 4096 then
    let x := s.slot k
    if x.st = .free then s else s.setSlot k (x.pended cause tval src)
  else match s.load (k / 4096 - 1) with
    | some x => s.setLoad (k / 4096 - 1) (x.changeSaved (k % 4096) (fun y => y.pended cause tval src))
    | none => s

/-- The timer trap is pending (19 R401). -/
def State.timerDue (s : State) (k : Nat) : Bool := decide ((s.slot k).timecmp.toNat ≤ s.cycle % 2 ^ 64)

/-- The lowest cause first, and of equal causes the first to arrive. -/
def leastPend : List Pend → Option Pend
  | [] => none
  | p :: r => match leastPend r with
    | none => some p
    | some q => if p.cause ≤ q.cause then some p else some q

/-- The trap that would be taken next, the timer among them. -/
def State.nextPend (s : State) (k : Nat) : Option Pend :=
  let l := (s.slot k).pend ++ (if s.timerDue k then [{ cause := 0x14, tval := (s.slot k).timecmp, src := 0 }] else [])
  leastPend l

/-- Asynchronous traps may be taken: user mode, or IE = 1. -/
def Slot.open_ (x : Slot) : Bool := x.mode == 0 || x.ie

/-- An asynchronous trap is pending and may be taken at the next boundary. -/
def State.takeable (s : State) (k : Nat) : Bool := (s.slot k).open_ && (s.nextPend k).isSome

/-- Remove the first entry equal to p. -/
def dropPend (p : Pend) : List Pend → List Pend
  | [] => []
  | q :: r => if q = p then r else q :: dropPend p r

/-! ## Trap entry and return (19 R402 to R405) -/

/-- The address of frame l of slot t (19 R402). -/
def frameAt (tfbase : Word) (t l : Nat) : Nat := bits tfbase 12 44 * 4096 + 256 * t + 64 * l

/-- A nested fault: the slot becomes trapped (19 R405). entry is the fault-queue entry's REASON, LEVEL and ACCESS and its
DW2 to DW7. -/
def State.nested (s : State) (k : Nat) (tval epc : Word) (reason level acc : Nat) (rest : List Word) : State :=
  let x := s.slot k
  let d := dieOfSlot k
  let seq := (s.die d).fqSeq
  let s := s.setSlot k { x with
    st := .trapped, tcause := 0x15, tepc := epc, tval := tval, parkDie := d, parkSeq := seq, wait := .none, sync := none }
  let s := s.faultEntry d 6 x.asidN reason level acc (faultDw1 k k 0 true (k / 16) :: rest)
  s.sendMsix 1

/-- Trap entry (19 R402): the frame is written, the status saved, and the handler's address taken. Cause 0x17 sends vector
7 (03 Table 03-6). -/
def State.enter (s : State) (k cause : Nat) (tval epc : Word) (async : Bool) (word : Nat) : State :=
  let x := s.slot k
  let c := s.core (k / 16)
  let l := x.level
  let f := frameAt c.tfbase (k % 16) l
  let code := field 63 1 (b2n async) ||| field 0 6 cause
  if l = 3 ∨ s.inSvc f 64 = false then
    s.nested k tval epc (if l = 3 then 3 else 4) 0 0
      [tval, epc, BitVec.ofNat 64 word, code, c.tfbase, BitVec.ofNat 64 l]
  else
    let s := s.storeDs (some (k / 16)) f [code, epc, tval, x.tstat, x.reg 1, x.reg 2, x.reg 30, x.reg 31]
    let tgt := if x.mode = 2 then 2 else 1
    let t := setBits x.tstat 2 2 x.mode
    let t := setBits t 5 1 (b2n x.ie)
    let t := setBits t 4 1 0
    let t := setBits t 8 2 (l + 1)
    let t := setBits t 0 2 tgt
    let s := s.setSlot k { x with tcause := code, tepc := epc, tval := tval, tstat := t,
                                  pc := if tgt = 2 then c.mtvec else c.tvec, sync := none }
    if cause = 0x17 then s.sendMsix 7 else s

/-- The lines the frame of a slot's next entry stands in. -/
def State.frameLine (s : State) (k : Nat) : Nat :=
  lineOf (offOf (frameAt (s.core (k / 16)).tfbase (k % 16) (s.slot k).level))

/-- The slot has no store waiting in the write-combining buffer: a posted write that has been sent has left it. -/
def State.drained (s : State) (k : Nat) : Bool := (s.core (k / 16)).wcb.all (fun e => e.slot != k || e.phase == 2)

/-- Ask the buffer to drain every entry of a slot. -/
def State.force (s : State) (k : Nat) : State :=
  let c := s.core (k / 16)
  s.setCore (k / 16) { c with wcb := c.wcb.map (fun e => if e.slot = k then { e with force := true } else e) }

/-- A trap may be entered now: everything issued has finished, and the frame's line is not the host's (log 17). -/
def State.mayEnter (s : State) (k : Nat) : Bool :=
  (s.slot k).settled && s.drained k && !(s.mustSnoop (s.frameLine k) true)

/-- Enter the synchronous trap that waits in a slot, once it may be entered. -/
def State.enterSync (s : State) (k : Nat) : State :=
  match (s.slot k).sync with
  | none => s
  | some t =>
    if s.mayEnter k then s.enter k t.cause t.tval t.epc false t.word
    else
      let s := s.force k
      if s.mustSnoop (s.frameLine k) true then s.askHost (s.frameLine k) else s

/-- A synchronous trap of a slot: it is entered at once, or as soon as every earlier instruction has finished. word is the
instruction word at its TEPC. -/
def State.raiseWord (s : State) (k cause : Nat) (tval epc : Word) (word : Nat) : State :=
  let x := s.slot k
  (s.setSlot k { x with sync := some { cause := cause, tval := tval, epc := epc, word := word }, st := .ready, wait := .none }).enterSync k

/-- A synchronous trap of the instruction that a slot executes. -/
def State.raiseAt (s : State) (k cause : Nat) (tval epc : Word) : State := s.raiseWord k cause tval epc (s.slot k).word

/-- A synchronous trap of the instruction being executed, at its own address (19 R400). -/
def State.raise (s : State) (cause : Nat) (tval : Word) : State := s.raiseAt s.cur cause tval s.pc

/-- The drops merged into a report are fixed when its trap is entered (05 R108, 08 R168): the report's key and count. -/
def State.takeReport (s : State) (p : Pend) : State × Word :=
  if p.src = 0 then (s, p.tval)
  else
    match s.load (p.src / 2 ^ 24) with
    | none => (s, p.tval)
    | some l =>
      match l.reports.find? (fun r => r.src == p.src) with
      | none => (s, p.tval)
      | some r =>
        (s.setLoad (p.src / 2 ^ 24) { l with reports := l.reports.filter (fun r => r.src != p.src) },
         if r.cause = 0x0F then setBits r.tval 0 16 r.drops else setBits r.tval 4 8 r.drops)

/-- Entry of the asynchronous trap that comes first (19 R401): at an instruction boundary, with TEPC at the instruction
that would have issued next. A halt has completed by then (19 R408). -/
def State.enterAsync (s : State) (k : Nat) : State :=
  let x := s.slot k
  if x.st ≠ .ready ∧ x.st ≠ .blockedQueue ∧ x.st ≠ .blockedWait then s
  else if x.sync.isSome then s
  else if s.takeable k = false then s
  else
    let x := { x with
      st := .ready, pc := if x.wait = .halt then x.pc + 4 else x.pc, wait := .none, probed := false }
    let s := s.setSlot k x
    if s.mayEnter k then
      match s.nextPend k with
      | none => s
      | some p =>
        let s := s.setSlot k { x with pend := dropPend p x.pend }
        let r := s.takeReport p
        r.1.enter k p.cause r.2 x.pc true 0
    else
      let s := s.force k
      if s.mustSnoop (s.frameLine k) true then s.askHost (s.frameLine k) else s

/-- The bytes a thread's own unperformed stores hold at a local offset, the latest in program order before seq first
(11 R230): the value of one byte, if some store holds it. -/
def State.forwardByte (s : State) (k off : Nat) : Option Byte :=
  (s.core (k / 16)).wcb.foldl (fun r e =>
    if e.slot = k ∧ e.line = lineOf off then
      match Tab.get none e.bytes (off % 64) with
      | some v => some v
      | none => r
    else r) none

/-- A byte as a thread's home-kind load sees it: its own unperformed store, else the home. -/
def State.viewByte (s : State) (k off : Nat) : Byte :=
  match s.forwardByte k off with
  | some v => v
  | none => Mem.read s.mem off

/-- n bytes as a thread's home-kind load sees them. -/
def State.view (s : State) (k off : Nat) : Nat → Nat
  | 0 => 0
  | n + 1 => (s.viewByte k off).toNat + 256 * State.view s k (off + 1) n

/-- A doubleword as a thread's home-kind load sees it. -/
def State.viewD (s : State) (k pa : Nat) : Word := BitVec.ofNat 64 (s.view k (offOf pa) 8)

/-- The frame that a return from the current trap level reads (19 R403). -/
def State.ownFrame (s : State) (k : Nat) : Nat :=
  frameAt (s.core (k / 16)).tfbase (k % 16) ((s.slot k).level - 1)

/-- The trap level that a return from the current one restores. -/
def State.levelBelow (s : State) (k : Nat) : Nat := bits (s.viewD k (s.ownFrame k + 24)) 8 2

/-- The frame of the outer handler that a return goes into, from which TCAUSE, TEPC and TVAL come, if there is one. -/
def State.outerFrame (s : State) (k : Nat) : Option Nat :=
  if s.levelBelow k = 0 then none else some (frameAt (s.core (k / 16)).tfbase (k % 16) (s.levelBelow k - 1))

/-- TCAUSE as it holds what is written to it (19 Table 19-4): the reserved bits read 0. -/
def tcauseOf (v : Word) : Word := v &&& 0x800000000000003F

/-- TEPC as it holds what is written to it: bits [1:0] read 0. -/
def tepcOf (v : Word) : Word := v &&& 0xFFFFFFFFFFFFFFFC

/-- The state after a return from the current trap level (19 R403), the checks of the instruction passed. Reserved bits
of the saved TSTAT and TCAUSE and bits [1:0] of the saved TEPC read 0, and a saved PMODE of 3 leaves PMODE as a write of 3
does (log 18). -/
def State.leave (s : State) (k : Nat) : State :=
  let x := s.slot k
  let f := s.ownFrame k
  let aovf := bits x.tstat 16 16
  let w := s.viewD k (f + 24)
  let t := w &&& 0x33F
  let t := if bits w 2 2 = 3 then setBits t 2 2 (bits x.tstat 2 2) else t
  let t := setBits t 0 2 (bits x.tstat 2 2)
  let t := setBits t 4 1 (bits x.tstat 5 1)
  let t := setBits t 16 16 aovf
  let y := { x with pc := x.tepc, tstat := t }
  let y := ((((y.setReg 1 (s.viewD k (f + 32))).setReg 2 (s.viewD k (f + 40))).setReg 30 (s.viewD k (f + 48))).setReg 31
    (s.viewD k (f + 56)))
  s.setSlot k (match s.outerFrame k with
    | some f0 => { y with tcause := tcauseOf (s.viewD k f0), tepc := tepcOf (s.viewD k (f0 + 8)), tval := s.viewD k (f0 + 16) }
    | none => y)

/-! ## Machine-check records (12 R252 to R254) -/

/-- A machine check is logged on a die: kind 0 access, 1 fabric. -/
def State.logCheck (s : State) (d kind action rb asid : Nat) (inj : Bool) (tval dw3 : Word) : State :=
  let x := s.die d
  let i := x.mnext % 64
  let lost := decide ((x.mnext + 65536 - x.mread) % 65536 ≥ 64)
  let dw1 := field 61 1 (b2n inj) ||| field 58 3 action ||| field 56 2 rb ||| field 16 16 asid ||| field 0 1 kind
  let s := s.setDie d { x with
    mrec := Tab.set none x.mrec i (some [BitVec.ofNat 64 s.net, dw1, tval, dw3]),
    mnext := (x.mnext + 1) % 65536, total := satAdd x.total 1 0xFFFF,
    mlost := if lost then satAdd x.mlost 1 0xFFFF else x.mlost }
  s.sendMsix 6

/-- A targeted self-test starts (12 R259): 512 core cycles for a core lane, 2,048 fabric cycles for a fabric one. -/
def State.startTest (s : State) (part : List Nat) (slot : Option Nat) (inj : Bool) (rec_ : Option (Nat × Nat))
    (load : Nat) : State :=
  let due := if part.headD 0 = 0 then s.cycle + 512 else s.fab + 2048
  { s with nTest := s.nTest + 1,
           tests := s.tests ++ [{ id := s.nTest, part := part, due := due, slot := slot, inj := inj, recAt := rec_,
                                  load := load }] }

/-! ## Sampling by monitors (06 R134) -/

/-- floor(log2 v) for v > 0. -/
def log2 (v : Nat) : Nat := Nat.log2 v

/-- A monitor captures a sample. -/
def Monitor.sample (m : Monitor) (v : Nat) : Monitor :=
  let sh := bits m.sel 28 4
  let b := if v < 2 ^ sh then 0 else min 15 (log2 v - sh + 1)
  { m with cnt := satAdd m.cnt 1 (2 ^ 64 - 1), sum := satAdd m.sum v (2 ^ 64 - 1), min_ := min m.min_ v,
           max_ := max m.max_ v, hist := Tab.set 0 m.hist b (satAdd (Tab.get 0 m.hist b) 1 (2 ^ 32 - 1)) }

/-- A monitor captures now: it is enabled, not frozen, and was not cleared in this core cycle. -/
def Monitor.takes (m : Monitor) (now : Nat) : Bool := bit m.sel 0 && !bit m.sel 1 && m.clrAt != now + 1

/-- The TARGET of a monitor as its event reads it (06 Table 06-11): a core in 6 bits, a task queue in 12, a queue in 16. -/
def Monitor.target (m : Monitor) : Nat :=
  let ev := bits m.sel 16 8
  if ev = 1 ∨ ev = 2 ∨ ev = 6 ∨ ev = 8 then bits m.sel 32 6 else if ev = 7 then bits m.sel 32 12 else bits m.sel 32 16

/-- Every monitor of a die that selects an event and target captures the sample. Events 0x09 and 0x0A have no target. -/
def State.sample (s : State) (d ev tgt v : Nat) : State :=
  let x := s.die d
  s.setDie d { x with mons := x.mons.map (fun e =>
    let m := e.2
    if m.takes s.cycle && bits m.sel 16 8 == ev && (ev == 9 || ev == 10 || m.target == tgt)
    then (e.1, m.sample v) else e) }

end Sys2Proof.Machine
end

