-- ==== Sys2Proof/Machine/Words.lean ====
section
/-! DEFINITION. Link words (08 R164, R165; 12 R248): residues, sideband parity, poison, and the words agents create. -/

namespace Sys2Proof.Machine

/-- The residue of a value modulo 7 (12 R248). -/
def res7 (v : Nat) : Nat := v % 7

/-- The residue that a unit predicts (12 R249, Table 12-1): of an n-bit sum with its carry out, of a full product, of an n-bit
left shift with the bits shifted out, and of a AND b plus a OR b. -/
def predAdd (n ra rb carry : Nat) : Nat := (ra + rb + 6 * (carry * res7 (2 ^ n))) % 7
def predMul (ra rb : Nat) : Nat := ra * rb % 7
def predShl (n ra k out : Nat) : Nat := (ra * 2 ^ k + 6 * (out * res7 (2 ^ n))) % 7
def predId (ra rb : Nat) : Nat := (ra + rb) % 7

/-- RESID of a payload: a residue for each of n lane groups of 32 bits. -/
def residN (v : Nat) : Nat → Nat
  | 0 => 0
  | n + 1 => res7 (v % 2 ^ 32) + 8 * residN (v / 2 ^ 32) n

/-- RESID of a payload of eight lane groups. -/
def residOf (pay : Lanes) : BitVec 24 := BitVec.ofNat 24 (residN pay.toNat 8)

/-- The residue groups of a poisoned token. -/
def poisonResid : BitVec 24 := 0xFFFFFF

/-- Sideband bits [299:256] as a number. -/
def sideBits (vc kind level route : Nat) (resid : BitVec 24) : Nat :=
  vc % 32 + kind % 8 * 2 ^ 5 + level % 8 * 2 ^ 8 + route % 512 * 2 ^ 11 + resid.toNat * 2 ^ 20

/-- The exclusive OR of the bits of v whose index is i modulo 4, n groups of four. -/
def parity4 (v i : Nat) : Nat → Bool
  | 0 => false
  | n + 1 => Bool.xor (v.testBit i) (parity4 (v / 16) i n)

/-- SBPAR of a sideband (08 R165). -/
def sbparOf (vc kind level route : Nat) (resid : BitVec 24) : BitVec 4 :=
  let v := sideBits vc kind level route resid
  BitVec.ofNat 4 (b2n (parity4 v 0 11) + 2 * b2n (parity4 v 1 11) + 4 * b2n (parity4 v 2 11) + 8 * b2n (parity4 v 3 11))

/-- A link word as its creator writes it. -/
def mkWord (pay : Lanes) (vc kind level route : Nat) : LW :=
  { pay := pay, vc := vc, kind := kind, level := level, route := route, resid := residOf pay,
    sbpar := sbparOf vc kind level route (residOf pay) }

/-- A word with its sideband fields VC and ROUTE given anew, the rest kept (08 R164: SBPAR is recomputed). -/
def LW.through (w : LW) (vc route : Nat) : LW :=
  { w with vc := vc, route := route, sbpar := sbparOf vc w.kind w.level route w.resid }

/-- The poisoned data token with payload 0 (12 R263). -/
def poisonWord (vc route : Nat) : LW :=
  { pay := 0, vc := vc, kind := 0, level := 0, route := route, resid := poisonResid,
    sbpar := sbparOf vc 0 0 route poisonResid }

def LW.poisoned (w : LW) : Bool := w.resid == poisonResid
/-- A residue group differs from its lanes in a word that is not poisoned (12 R250). -/
def LW.badResid (w : LW) : Bool := !w.poisoned && w.resid != residOf w.pay
/-- The first lane group of a word whose residue differs. -/
def LW.badLane (w : LW) : Nat :=
  ((List.range 8).find? (fun i => fld w.resid.toNat (3 * i) 3 != res7 (fld w.pay.toNat (32 * i) 32))).getD 0
/-- The sideband parity does not match (08 R165). -/
def LW.badPar (w : LW) : Bool := w.sbpar != sbparOf w.vc w.kind w.level w.route w.resid

/-- Token kinds (08 Table 08-2). -/
def kData : Nat := 0
def kClasp : Nat := 1
def kSwap : Nat := 2
def kMark : Nat := 3
def kDrain : Nat := 4
def kSeq : Nat := 5
def kNull : Nat := 6

/-- What a pop writes of a token (18 Table 18-3). -/
def LW.value (w : LW) : Word :=
  if w.kind = 6 then 0x8000000000000060
  else if w.kind = 1 then 0x8000000000000010 + BitVec.ofNat 64 w.level
  else if w.kind = 2 then 0x8000000000000020 + BitVec.ofNat 64 w.level
  else if w.kind = 5 then 0x8000000000000050
  else BitVec.ofNat 64 (w.pay.toNat % 2 ^ 64)

/-- The status word of a token (18 Table 18-3). -/
def LW.status (w : LW) : Word :=
  if w.kind = 6 then 0x60
  else if w.kind = 1 then 0x10 + BitVec.ofNat 64 (w.level * 256)
  else if w.kind = 2 then 0x20 + BitVec.ofNat 64 (w.level * 256)
  else if w.kind = 5 then 0x50
  else 0

end Sys2Proof.Machine
end

