-- ==== Sys2Proof/Machine/QueueState.lean ====
section
/-! DEFINITION. Queues at the access side (06 R127 to R131; 18 R369 to R372): identifiers, bindings, requests, counters
and tokens. -/

namespace Sys2Proof.Machine

/-! ## Identifiers (18 Table 18-1) -/

def qidLoad (q : Word) : Nat := bits q 48 16
def qidCut (q : Word) : Nat := bits q 46 2
def qidFac (q : Word) : Nat := bits q 40 6
def qidPort (q : Word) : Nat := bits q 37 3
def qidVc (q : Word) : Nat := bits q 32 5
def qidRoute (q : Word) : Nat := bits q 23 9
def qidCfg (q : Word) : Bool := bit q 22
def qidMcast (q : Word) : Bool := bit q 21
def qidNum (q : Word) : Nat := bits q 0 12
/-- The capacity: 2^DLOG, and 256 for 0. -/
def qidCap (q : Word) : Nat := if bits q 16 5 = 0 then 256 else 2 ^ bits q 16 5

/-- The key of a queue circuit of a load; out is toward the fabric. -/
def circuitKey (load cut fac port vc : Nat) (out : Bool) : Nat :=
  2 ^ 20 + ((((load * 4 + cut) * 64 + fac) * 8 + port) * 32 + vc) * 2 + b2n out

/-- The queue that an identifier names for an agent of a die. -/
def queueKey (d : Nat) (q : Word) (out : Bool) : Nat :=
  if qidLoad q = 0 then d * 4096 + qidNum q
  else circuitKey (qidLoad q) (qidCut q) (qidFac q) (qidPort q) (qidVc q) out

/-- A key names a circuit of a load; of which load, and of which of its cuts. -/
def keyIsCircuit (k : Nat) : Bool := decide (2 ^ 20 ≤ k)
def keyLoadCut (k : Nat) : Nat := (k - 2 ^ 20) / (64 * 8 * 32 * 2)
def circuitLoad (k : Nat) : Nat := keyLoadCut k / 4
def circuitCut (k : Nat) : Nat := keyLoadCut k % 4

/-- Step 1 of R370: a reserved value, or no queue; cfg tells whether CFG = 1 is allowed (18 R378). -/
def qidBad (q : Word) (cfg : Bool) : Bool :=
  let d := bits q 16 5
  (1 ≤ d && d ≤ 3) || 17 ≤ d || bits q 12 4 != 0 || (qidCfg q && !cfg) ||
    (if qidLoad q = 0 then bits q 23 25 != 0 || qidNum q == 0 else qidNum q != 0)

/-- The tile index of feed port p (05 R88). -/
def portTile (p : Nat) : Nat := if p < 4 then 2 * p else 32 + 2 * (p - 4)

/-- A cut index, cut facet index and port name a used feed-port tile of a load (05 R93). -/
def Load.portUsed (l : Load) (cut fac port : Nat) : Bool :=
  match l.cuts[cut]? with
  | none => false
  | some c => match c.need[fac]? with
    | none => false
    | some n => bit n.1 (portTile port)

/-! ## Storage (18 R371, 04 R67) -/

/-- The entries that the circuits of a cut hold. -/
def State.cutEntries (s : State) (load cut : Nat) : Nat :=
  (s.queues.filter (fun e => keyIsCircuit e.1 && keyLoadCut e.1 == load * 4 + cut)).foldl
    (fun n e => n + e.2.toks.length) 0

/-- The QSTORE of a cut in entries of 64 bytes. -/
def State.cutStore (s : State) (load cut : Nat) : Nat :=
  match s.load load with
  | some l => match l.cuts[cut]? with | some c => c.qstore * 64 | none => 0
  | none => 0

/-- The capacity of a queue: a circuit not yet bound holds 16 entries. -/
def State.capOf (s : State) (key : Nat) : Nat :=
  if keyIsCircuit key && !(s.queue key).bound then 16 else (s.queue key).cap

/-- A load holds facets, and so its QSTORE (05 R98). -/
def LoadState.holds (st : LoadState) : Bool :=
  match st with | .pending | .saved | .restoring | .killed => false | _ => true

/-- A queue is full. A circuit of a load that holds no facets takes nothing. -/
def State.qFull (s : State) (key : Nat) : Bool :=
  decide ((s.queue key).toks.length ≥ s.capOf key) ||
    (keyIsCircuit key && !(match s.load (circuitLoad key) with | some x => x.st.holds | none => false)) ||
    (keyIsCircuit key && decide (s.cutEntries (circuitLoad key) (circuitCut key) ≥ s.cutStore (circuitLoad key) (circuitCut key)))

/-- The bytes of a die's circuit part that no grant and no die queue holds (04 R67). -/
def State.freeCircuit (s : State) (d : Nat) : Nat :=
  let held := s.loads.foldl (fun n e => match e.2 with
    | some l => if l.st.holds then n + (l.cuts.filter (fun c => c.die == d)).foldl (fun n c => n + c.qstore * 4096) 0 else n
    | none => n) 0
  let dies := (s.queues.filter (fun e => !keyIsCircuit e.1 && e.1 / 4096 == d && e.2.live)).foldl
    (fun n e => n + e.2.cap * 64) 0
  12 * 2 ^ 20 - held - dies

/-! ## Requests (18 R372) -/

/-- Doubleword i of block n of a command. -/
def Cmd.dw (c : Cmd) (n i : Nat) : Word := (c.words.getD n []).getD i 0
/-- Doubleword i of a stream's block. -/
def Stream.d (x : Stream) (i : Nat) : Word := x.cmd.dw 0 i
/-- The fields of a copy's step (Table 18-10). -/
def CopyEng.d (x : CopyEng) (i : Nat) : Word := x.cmd.dw x.step i
def CopyEng.role (x : CopyEng) : Nat := bits (x.d 0) 55 2
def CopyEng.op (x : CopyEng) : Nat := bits (x.d 0) 52 3
def CopyEng.sslot (x : CopyEng) : Nat := bits (x.d 0) 18 12
def CopyEng.peerOf (x : CopyEng) : Nat := bits (x.d 0) 30 10
def CopyEng.len (x : CopyEng) : Nat := bits (x.d 4) 0 40
def CopyEng.craddr (x : CopyEng) : Word := x.cmd.dw 0 5
def CopyEng.retry (x : CopyEng) : Nat := bits (x.cmd.dw 0 0) 40 4
/-- DRAIN of a stream's block (Table 18-6). -/
def Stream.drain (x : Stream) : Bool := bit (x.d 0) 58

/-- The key of a consumer or producer: a binding of a thread, or a stream. -/
def bindKey (k b : Nat) : Nat := k * 16 + b
def streamKey (c n : Nat) : Nat := 2 ^ 20 + c * 32 + n

/-- A place in the order of requests: the cycle, then the core, then thread slots before streams. -/
def reqOrder (since c party : Nat) : Nat := (since * 256 + c) * 64 + party

/-- The requests for tokens of a queue: each with its place in the order and its consumer. -/
def State.requests (s : State) (key : Nat) : List (Nat × Nat) :=
  s.slots.filterMap (fun e =>
    match e.2.wait with
    | .queue b => match Tab.get none e.2.binds b with
      | some x => if x.key = key ∧ x.out = false then some (reqOrder e.2.since (e.1 / 16) (e.1 % 16), bindKey e.1 b) else none
      | none => none
    | _ => none) ++
  s.cores.flatMap (fun e => e.2.streams.filterMap (fun t =>
    match t.2 with
    | some x =>
      if x.st = 1 ∧ x.drain ∧ x.emptyAt ≠ 0 ∧ x.key = key then some (reqOrder (x.emptyAt - 1) e.1 (16 + t.1), streamKey e.1 t.1)
      else if x.st = 1 ∧ x.idxAt ≠ 0 ∧ x.ikey = key then some (reqOrder (x.idxAt - 1) e.1 (16 + t.1), streamKey e.1 t.1)
      else none
    | none => none))

/-- The requests of a queue that have waited longer than one. -/
def State.ahead (s : State) (key who order : Nat) : Nat :=
  ((s.requests key).filter (fun r => decide (r.1 < order) && r.2 != who)).length

/-- A request's turn in this cycle has passed: one that comes after it in the order has been served. -/
def State.passed (s : State) (key order : Nat) : Bool :=
  decide (reqOrder s.cycle 0 0 ≤ (s.queue key).served) && decide (order < (s.queue key).served)

/-- The token that a consumer may take now, by its place in the queue: with MCAST the first whose set holds it; otherwise
the head, once no request has waited longer, and in a cycle none that comes after it in the order has been served (18
R372). -/
def State.tokenFor (s : State) (key who order : Nat) : Option Nat :=
  let q := s.queue key
  if q.mcast then q.toks.findIdx? (fun t => t.set.contains who)
  else if s.ahead key who order = 0 ∧ q.toks ≠ [] ∧ s.passed key order = false then some 0
  else none

/-- A token stands behind those that the requests ahead of a consumer's are about to take, or the consumer's turn in this
cycle has passed. -/
def State.tokenLater (s : State) (key who order : Nat) : Bool :=
  let n := s.ahead key who order
  !(s.queue key).mcast && (n != 0 || s.passed key order) && decide (n < (s.queue key).toks.length)

/-! ## Counters and the decoupling detector (06 R128, R129) -/

/-- Both ends of a queue are bound: a circuit's other end is its feed port. -/
def Queue.bothEnds (q : Queue) (circuit : Bool) : Bool :=
  if circuit then !q.cons.isEmpty || !q.prods.isEmpty else !q.cons.isEmpty && !q.prods.isEmpty

/-- A feed port's pop waits whenever its circuit is empty, from the grant on (06 R128; log 25). -/
def State.portPops (s : State) (key : Nat) : Bool :=
  keyIsCircuit key && key % 2 == 1 && (match s.load (circuitLoad key) with | some x => x.st.holds | none => false)

/-- Some consumer's pop waits on the empty queue; some producer's push waits on the full one. -/
def State.emptyWaits (s : State) (key : Nat) : Bool :=
  (s.queue key).toks.isEmpty && (s.portPops key || !(s.requests key).isEmpty)
def State.fullWaits (s : State) (key : Nat) : Bool :=
  s.qFull key && (s.queue key).portW ||
  s.qFull key && s.slots.any (fun e => match e.2.wait with
    | .queue b => match Tab.get none e.2.binds b with | some x => x.key == key && x.out | none => false
    | _ => false) ||
  s.qFull key && s.cores.any (fun e => e.2.streams.any (fun t => match t.2 with
    | some x => x.key == key && !x.drain && !x.outw.isEmpty && decide (x.st ≤ 2)
    | none => false))

/-- A consumer found a queue empty: a stream that reads into it remembers at which element (06 R132, LATE). -/
def State.foundEmpty (s : State) (key : Nat) : State :=
  { s with cores := s.cores.map (fun e => (e.1, { e.2 with streams := e.2.streams.map (fun t => (t.1, match t.2 with
      | some x => if x.key = key ∧ x.drain = false then some { x with emptyAt := x.pos + 1, emptyC := s.cycle } else some x
      | none => none)) })) }

/-- The running count of a wait after its condition is looked at again: the total, where it runs the cycle after its first,
and the cycle last counted otherwise, plus one, at_ before. No cycle counts twice. -/
def runCount (total since at_ now : Nat) (waits : Bool) : Nat × Nat × Nat :=
  if waits then (total, if since = 0 then (if at_ = now + 1 then now + 2 else now + 1) else since, at_)
  else if since = 0 then (total, 0, at_) else (satAdd total (now + 1 - since) (2 ^ 48 - 1), 0, now + 1)

/-- The monitors of a die that observe one of its die queues capture a sample (06 Table 06-11; log 20). -/
def State.sampleQueue (s : State) (key ev v : Nat) : State :=
  if keyIsCircuit key ∨ key % 4096 = 0 then s else s.sample (key / 4096) ev (key % 4096) v

/-- A loss-of-decoupling event where the run has reached WINDOW (06 R129, R130): it is counted, and the binding whose DECTHR
applies may take cause 0x0E. -/
def State.lodEvent (s : State) (key : Nat) : State :=
  let q := s.queue key
  if q.lowAt ≠ 0 ∧ q.armed ∧ q.run + (s.cycle + 1 - q.lowAt) ≥ bits q.decthr 32 32 then
    let s := s.setQueue key { q with lod := satAdd q.lod 1 (2 ^ 48 - 1), armed := false }
    let k := q.decBy / 16
    let b := q.decBy % 16
    if bit (s.slot k).qctl (3 * b + 2) then s.pend k 0x0E (BitVec.ofNat 64 b) 0 else s
  else s

/-- A queue's counters and detector after a change of the queue or of its requests. -/
def State.qSync (s : State) (key : Nat) : State :=
  let s := s.lodEvent key
  let q := s.queue key
  if q = Queue.none then s
  else
    let e := runCount q.ewait q.eFrom q.eAt s.cycle (s.emptyWaits key)
    let f := runCount q.fwait q.fFrom q.fAt s.cycle (s.fullWaits key)
    let s := if f.2.1 = 0 ∧ q.fFrom ≠ 0 ∧ q.prods.any (fun p => decide (2 ^ 20 ≤ p)) then
        s.sampleQueue key 4 (s.cycle + 1 - q.fFrom) else s
    let win := bits q.decthr 32 32
    let lev := bits q.decthr 0 16
    let both := q.bothEnds (keyIsCircuit key)
    let low := both && win != 0 && decide (q.toks.length < lev)
    let past := if q.lowAt = 0 then 0 else s.cycle + 1 - q.lowAt
    let q := { q with ewait := e.1, eFrom := e.2.1, eAt := e.2.2, fwait := f.1, fFrom := f.2.1, fAt := f.2.2 }
    if low then s.setQueue key { q with lowAt := if q.lowAt = 0 then s.cycle + 1 else q.lowAt }
    else if both && win != 0 then s.setQueue key { q with lowAt := 0, run := 0, armed := true }
    else if win = 0 then s.setQueue key { q with lowAt := 0, run := 0 }
    else s.setQueue key { q with lowAt := 0, run := q.run + past }

/-- The value a counter of R376 reads. -/
def State.qCounter (s : State) (key c : Nat) : Nat :=
  let q := s.queue key
  match c with
  | 0 => (runCount q.ewait q.eFrom q.eAt s.cycle false).1
  | 1 => (runCount q.fwait q.fFrom q.fAt s.cycle false).1
  | 2 => q.toks.length
  | _ => q.lod

/-! ## Changing a queue -/

/-- A queue ceases to exist when it is a die queue without bindings and tokens (18 R371). -/
def State.qTidy (s : State) (key : Nat) : State :=
  let q := s.queue key
  if keyIsCircuit key = false ∧ q.cons.isEmpty ∧ q.prods.isEmpty ∧ q.toks.isEmpty then s.setQueue key Queue.none
  else s.qSync key

/-- A token is appended; with MCAST its set is every consumer bound now. -/
def State.qAppend (s : State) (key : Nat) (w : LW) : State :=
  let q := s.queue key
  (s.setQueue key { q with toks := q.toks ++ [{ w := w, set := if q.mcast then q.cons else [] }] }).qSync key

/-- The request at a place of the order is served. -/
def State.serves (s : State) (key order : Nat) : State := s.setQueue key { s.queue key with served := order }

/-- A consumer takes the n-th token. -/
def State.qTake (s : State) (key n who : Nat) : State :=
  let q := s.queue key
  if q.mcast then
    match q.toks[n]? with
    | none => s
    | some t =>
      let set := t.set.filter (fun c => c != who)
      let toks := if set.isEmpty then dropNth q.toks n else setNth q.toks n { t with set := set, took := true }
      (s.setQueue key { q with toks := toks }).qTidy key
  else (s.setQueue key { q with toks := dropNth q.toks n }).qTidy key

/-- The DECTHR that applies to a queue between the threads still bound to it, and the binding it is of: a consumer's before a
producer's (06 R129). -/
def State.decOf (s : State) (cons prods : List Nat) : Option (Word × Nat) :=
  match (cons.filter (fun c => decide (c < 2 ^ 20))).getLast?.orElse
      (fun _ => (prods.filter (fun c => decide (c < 2 ^ 20))).getLast?) with
  | some b => (Tab.get none (s.slot (b / 16)).binds (b % 16)).map (fun x => (x.decthr, b))
  | none => none

/-- A token that a consumer leaves: it goes with its last consumer where another has taken it, and is held where none has (18
R371). -/
def QTok.left (t : QTok) (who : Nat) : Option QTok :=
  let set := t.set.filter (fun c => c != who)
  if t.took && set.isEmpty then none else some { t with set := set }

/-- A consumer or producer leaves a queue. -/
def State.qLeave (s : State) (key who : Nat) : State :=
  let s := s.lodEvent key
  let q := s.queue key
  let toks := q.toks.filterMap (fun t => t.left who)
  let q := { q with cons := q.cons.filter (fun c => c != who), prods := q.prods.filter (fun c => c != who), toks := toks }
  let q := if q.decBy ≠ who then q else match s.decOf q.cons q.prods with
    | some d => { q with decthr := d.1, decBy := d.2 }
    | none => { q with decthr := 0, decBy := 0 }
  (s.setQueue key q).qTidy key

/-- A consumer or producer joins a queue, which its identifier brings into being or gives its capacity (18 R371); thr is
the decoupling value, by whom it is given (06 R129). -/
def State.qJoin (s : State) (key : Nat) (qid : Word) (asid : Word) (out : Bool) (who : Nat) (thr : Word)
    (by_ : Option Nat) : State :=
  let q := s.queue key
  let q := if q = Queue.none ∧ s.portPops key = true then
      { q with eFrom := (match s.load (circuitLoad key) with | some x => x.gcycle | none => 0) + 1 } else q
  let q := if q.bound then q else { q with live := true, bound := true, cap := qidCap qid, mcast := qidMcast qid, asid := asid }
  let q := if out then { q with prods := q.prods ++ [who], route := qidRoute qid } else { q with cons := q.cons ++ [who] }
  let q := if out then q else { q with toks := q.toks.map (fun t => if q.mcast && t.set.isEmpty then { t with set := q.cons } else t) }
  let q := match by_ with
    | some b => if out && q.cons.any (fun c => decide (c < 2 ^ 20)) then q else { q with decthr := thr, decBy := b }
    | none => q
  (s.setQueue key q).qSync key

/-! ## Bindings -/

def Slot.bind (x : Slot) (b : Nat) : Option Bind := Tab.get none x.binds b

/-- A slot releases a binding. -/
def State.unbind (s : State) (k b : Nat) : State :=
  match (s.slot k).bind b with
  | none => s
  | some x =>
    let s := s.setSlot k { s.slot k with binds := Tab.set none (s.slot k).binds b none }
    s.qLeave x.key (bindKey k b)

/-- A slot releases every binding. -/
def State.unbindAll (s : State) (k : Nat) : State := (List.range 16).foldl (fun s b => s.unbind k b) s

/-- TVAL of cause 0x11 (18 Table 18-13). -/
def descTval (reason addr : Nat) : Word := field 56 8 reason ||| field 0 56 addr

/-- What keeps an identifier from being used by a thread of an address space (18 R370 steps 1 to 4, R378): the cause and
TVAL's reason. feed is the load of which the user is a feed thread, or 0. -/
def State.qidFault (s : State) (q : Word) (cfg : Bool) (asid feed : Nat) : Option (Nat × Nat) :=
  if qidBad q cfg then some (0x11, 0x04)
  else if qidLoad q = 0 then (if qidCfg q then some (0x11, 0x0C) else none)
  else match s.load (qidLoad q) with
  | none => some (0x11, 0x0C)
  | some l =>
    if l.portUsed (qidCut q) (qidFac q) (qidPort q) = false ∧ !(cfg && qidCfg q) then some (0x11, 0x04)
    else if bits l.asid 0 16 ≠ asid then some (0x07, 0)
    else if l.prot && feed != qidLoad q then some (0x07, 0)
    else none

/-- The load of which a slot runs a feed thread, or 0. -/
def Slot.feedOf (x : Slot) : Nat := if x.isFeed then x.load else 0

end Sys2Proof.Machine
end

