-- ==== Sys2Proof/Machine/Layout.lean ====
section
/-! DEFINITION. Where the elements of a load stand (05 R88, R89, R98): cuts, facets, tiles and element indices. -/

namespace Sys2Proof.Machine

/-- The key of the tile at a tile index of a facet of a die's fabric. -/
def tileKey (die facet i : Nat) : Nat := die * 12288 + facet * 64 + i
def tileDie (key : Nat) : Nat := key / 12288
def tileFacet (key : Nat) : Nat := key / 64 % 192

/-- The kind of the tile at a tile index (05 R88). -/
def tileKind (i : Nat) : Nat :=
  let x := i % 8
  let y := i / 8
  if (x + y) % 2 = 0 then 2 else if y % 4 = 0 then 0 else 1

/-- The number of the vector tile, or of the feed port's memory tile, at a tile index of row 0 or 4. -/
def feedNo (i : Nat) : Nat := (i / 8) / 4 * 4 + (i % 8) / 2
/-- The key of an element of a cut in a snapshot or image. -/
def elemKey (cut e : Nat) : Nat := cut * 16384 + e

/-- The facet of the die that facet fi of a cut stands on: facets are numbered 12 to a row. -/
def Cut.facetAt (c : Cut) (fi : Nat) : Nat := (c.y0 + fi / c.w) * 12 + c.x0 + fi % c.w
/-- The tile on which element e of a cut stands. -/
def Cut.tileAt (c : Cut) (e : Nat) : Nat := tileKey c.die (c.facetAt (e / 64)) (e % 64)

/-- A cut holds a facet of a die. -/
def Cut.holds (c : Cut) (die facet : Nat) : Bool :=
  c.die == die && decide (c.x0 ≤ facet % 12) && decide (facet % 12 < c.x0 + c.w) && decide (c.y0 ≤ facet / 12) &&
    decide (facet / 12 < c.y0 + c.h)
/-- The element of a cut that stands on a tile. -/
def Cut.elemAt (c : Cut) (key : Nat) : Option Nat :=
  let f := tileFacet key
  if c.holds (tileDie key) f then some (((f / 12 - c.y0) * c.w + (f % 12 - c.x0)) * 64 + key % 64) else none

/-- USEMASK and LSNEED of a facet of a cut (05 R93, R95). -/
def Cut.useMask (c : Cut) (fi : Nat) : Word := (c.need.getD fi (0, 0)).1
def Cut.lsNeed (c : Cut) (e : Nat) : Nat := bits (c.need.getD (e / 64) (0, 0)).2 (8 * (e % 64 / 8 / 4 * 4 + e % 8 / 2)) 8
/-- Element e of a cut is used. -/
def Cut.uses (c : Cut) (e : Nat) : Bool := decide (e < c.w * c.h * 64) && bit (c.useMask (e / 64)) (e % 64)
/-- The elements that a cut uses, rising. -/
def Cut.elems (c : Cut) : List Nat := (List.range (c.w * c.h * 64)).filter c.uses

/-- The cut of a load that holds a tile, with the element it holds there. -/
def Load.elemOn (x : Load) (key : Nat) : Option (Nat × Nat) :=
  (x.cuts.zipIdx.filterMap (fun e => (e.1.elemAt key).map (fun n => (e.2, n)))).head?
def Load.hasTile (x : Load) (key : Nat) : Bool := x.cuts.any (fun c => c.holds (tileDie key) (tileFacet key))
/-- Every used element of a load: its cut, its number and its tile. -/
def Load.elems (x : Load) : List (Nat × Nat × Nat) :=
  x.cuts.zipIdx.flatMap (fun e => e.1.elems.map (fun n => (e.2, n, e.1.tileAt n)))

/-- The die of a load's cut 0. -/
def Load.die0 (x : Load) : Nat := match x.cuts.head? with | some c => c.die | none => 0

/-- The load that holds a tile. -/
def State.tileLoad (s : State) (key : Nat) : Option (Nat × Load) :=
  (s.loads.filterMap (fun e => match e.2 with
    | some x => if x.st.holds && x.hasTile key then some (e.1, x) else none
    | none => none)).head?

/-- The load that holds a facet of a die, with its cut there and the facet's index in it. -/
def State.facetLoad (s : State) (d n : Nat) : Option (Nat × Load × Nat × Nat) :=
  match s.tileLoad (tileKey d n 0) with
  | none => none
  | some (l, x) => (x.elemOn (tileKey d n 0)).map (fun e => (l, x, e.1, e.2 / 64))

/-- A self-test that follows a machine check in a load is under way (12 R259). -/
def State.tested' (s : State) (l : Nat) : Bool := l != 0 && s.tests.any (fun t => t.load == l)
/-- A load stands still: its self-test is under way, or its lasting verdict has yet to move it elsewhere (12 R260). -/
def State.testing (s : State) (l : Nat) : Bool :=
  s.tested' l || (match s.load l with | some x => x.redrain && x.why == 3 | none => false)

/-- A core has left the core map: it is retired and holds no thread (06 intro; 12 R260). -/
def State.mappedOut (s : State) (c : Nat) : Bool :=
  (s.core c).retired && (List.range 16).all (fun t => (s.slot (slotKey c t)).st == .free)

/-- The slots that run the feed threads of a load. -/
def State.feeds (s : State) (l : Nat) : List (Nat × Slot) :=
  s.slots.filter (fun e => e.2.isFeed && e.2.load == l && e.2.st != .free)

end Sys2Proof.Machine
end

