-- ==== Sys2Proof/Machine/Operands.lean ====
section
/-! DEFINITION. Operand forms of the access instructions (15 R312 to R322): immediates, branch and jump targets, bit
fields, effective addresses, register pairs, narrowed operands, and the wrapper under which every instruction issues. -/

namespace Sys2Proof.Machine

/-! ## Immediates and targets -/

/-- imm16 as a signed value (16 R337). -/
def simm16 (i : Nat) : Word := sext64 i 16
/-- imm16 as an unsigned value (16 R337). -/
def uimm16 (i : Nat) : Word := zext64 i 16
/-- The address o words of 4 bytes from a base, o a signed field of n bits (16 R340, R342 to R344). -/
def target (base : Word) (o n : Nat) : Word := base + sext64 o n * 4
/-- The effective address of the M format (17 R350). -/
def effAddr (base : Word) (off size : Nat) : Word := base + sext64 off 11 * BitVec.ofNat 64 size

/-- The low size bytes of a register pair as one number: g[t], and g[t+1] above it (17 R357). -/
def pairValue (lo hi : Word) (size : Nat) : Nat := (lo.toNat + hi.toNat * 2 ^ 64) % 2 ^ (8 * size)

/-- What a load writes of the value read (17 Table 17-2). -/
def loadValue (v size : Nat) (signed : Bool) : Word := if signed then sext64 v (8 * size) else zext64 v (8 * size)

/-- An operand of n bits as it is written to a register: sign-extended when it is a word (17 R360, R366). -/
def wordResult (v n : Nat) : Word := if n = 32 then sext64 v 32 else BitVec.ofNat 64 v

/-- The operand width of the A format and of waitw: SIZE bit 0 is 0 for a word, 1 for a doubleword. -/
def opBytes (size : Nat) : Nat := if size = 0 then 4 else 8

/-- An address is a multiple of a size. -/
def aligned (a : Word) (size : Nat) : Bool := a.toNat % size == 0

/-! ## Integer results (16 Table 16-1, R336) -/

/-- s(x) < s(y). -/
def slt64 (a b : Word) : Bool := a.slt b
/-- u(x) < u(y). -/
def ult64 (a b : Word) : Bool := decide (a.toNat < b.toNat)
/-- 1 or 0. -/
def flag64 (b : Bool) : Word := if b then 1 else 0

def sll64 (a b : Word) : Word := a <<< (b.toNat % 64)
def srl64 (a b : Word) : Word := a >>> (b.toNat % 64)
def sra64 (a b : Word) : Word := a.sshiftRight (b.toNat % 64)
def ror64 (a b : Word) : Word := (a >>> (b.toNat % 64)) ||| (a <<< ((64 - b.toNat % 64) % 64))

/-- (s(A) · s(B))[127:64]. -/
def mulh64 (a b : Word) : Word := BitVec.ofInt 64 ((a.toInt * b.toInt) / 2 ^ 64)
/-- (u(A) · u(B))[127:64]. -/
def mulhu64 (a b : Word) : Word := BitVec.ofNat 64 (a.toNat * b.toNat / 2 ^ 64)

/-- -2^63 and -1, the operands whose quotient overflows (16 R336). -/
def divOver (a b : Word) : Bool := a == 0x8000000000000000 && b == 0xFFFFFFFFFFFFFFFF

def div64 (a b : Word) : Word :=
  if b = 0 then 0xFFFFFFFFFFFFFFFF else if divOver a b then a else BitVec.ofInt 64 (a.toInt.tdiv b.toInt)
def rem64 (a b : Word) : Word :=
  if b = 0 then a else if divOver a b then 0 else BitVec.ofInt 64 (a.toInt - a.toInt.tdiv b.toInt * b.toInt)
def divu64 (a b : Word) : Word := if b = 0 then 0xFFFFFFFFFFFFFFFF else BitVec.ofNat 64 (a.toNat / b.toNat)
def remu64 (a b : Word) : Word := if b = 0 then a else BitVec.ofNat 64 (a.toNat % b.toNat)

/-- The number of significant bits of a number. -/
def sigBits (n : Nat) : Nat := if n = 0 then 0 else Nat.log2 n + 1

/-- The latency of a division, n the dividend's significant bits (16 R336). -/
def divLatency (n : Nat) : Nat := max 6 (2 + (n + 1) / 2)
/-- The latency of div and rem. -/
def divTime (a b : Word) : Nat := if b = 0 ∨ divOver a b then 6 else divLatency (sigBits a.toInt.natAbs)
/-- The latency of divu and remu. -/
def divuTime (a b : Word) : Nat := if b = 0 then 6 else divLatency (sigBits a.toNat)

/-- The number of leading zeros of an n-bit value. -/
def clzN (v : Nat) : Nat → Nat
  | 0 => 0
  | n + 1 => if v.testBit n then 0 else 1 + clzN v n
/-- The number of trailing zeros among n bits from bit i upward. -/
def ctzN (v i : Nat) : Nat → Nat
  | 0 => 0
  | n + 1 => if v.testBit i then 0 else 1 + ctzN v (i + 1) n
/-- The number of 1 bits among the n low bits. -/
def popN (v : Nat) : Nat → Nat
  | 0 => 0
  | n + 1 => b2n (v.testBit n) + popN v n
/-- The bytes of an n-byte number in reverse order. -/
def swapN (v : Nat) : Nat → Nat
  | 0 => 0
  | n + 1 => v % 256 * 256 ^ n + swapN (v / 256) n

/-- lui: halfword h of D replaced (16 R339). -/
def luiValue (dv : Word) (h i : Nat) : Word := setBits dv (16 * h) 16 i
/-- The field f of R341. -/
def extrField (a : Word) (l w : Nat) : Nat := bits a l (w + 1)

/-! ## Issue -/

/-- An outstanding load that may still trap precisely: it waits on another package or on the host (log 8). -/
def Slot.blocked (x : Slot) : Bool := x.outs.any (fun o => !o.isPf && o.tag != 0)

/-- The parties whose error is to show, as a slot whose ERRINJ is armed, or 4,096 and the place of a transient error of the
hardware itself: those of a core, and each with its register's word (12 R255, R258; log 75). -/
def State.armedWords (s : State) (core : Nat) : List (Nat × Word) :=
  ((List.range 16).map (fun t => (slotKey core t, (s.slot (slotKey core t)).errinj))) ++
    ((s.upsets.zipIdx.filter (fun u => u.1.1 == core)).map (fun u => (4096 + u.2, u.1.2)))

/-- The parties of the core whose error is armed for a unit, the issue position and the slot now executing (12 R258). -/
def State.armedFor (s : State) (unit : Nat) : List Nat :=
  ((s.armedWords s.myCore).filter (fun a =>
    let e := a.2
    bit e 0 && bits e 1 2 == 0 && bits e 30 4 == s.cur % 16 && bits e 27 1 == s.pos && bits e 24 3 == unit)).map (fun a => a.1)

/-- An error that shows is one that ERRINJ injected. -/
def injected (k : Nat) : Bool := decide (k < 4096)

/-- The first unit of a list, with its source code (Table 12-5), whose result an armed ERRINJ flips. -/
def State.injection (s : State) : List (Nat × Nat) → Option (Nat × Nat × Nat)
  | [] => none
  | u :: r => match (s.armedFor u.1).head? with
    | some k => some (k, u.1, u.2)
    | none => State.injection s r

/-- A unit at this issue position is under test (12 R259). -/
def State.unitTested (s : State) (us : List (Nat × Nat)) : Bool :=
  us.any (fun u => s.tests.any (fun t => t.part == [0, s.myCore, u.1, s.pos]))

/-- The instruction may issue: no register of the list waits, no load that may still trap is outstanding, no unit it
needs is under test, and no page walk is awaited (06 R116, R117). -/
def State.mayIssue (s : State) (rs : List Nat) (us : List (Nat × Nat)) : Bool :=
  !(s.busy rs) && !s.me.blocked && !(s.unitTested us) && s.me.wait != .walk

/-- The instruction issues with every residue check passing. -/
def State.issues (s : State) (rs : List Nat) (us : List (Nat × Nat)) : Bool :=
  s.mayIssue rs us && (s.injection us).isNone

end Sys2Proof.Machine
end

