-- ==== Sys2Proof/Machine/Recovery.lean ====
section
/-! DEFINITION. Killing a load, rolling back a protected one, and putting a feed group back from a snapshot (12 R255,
R265 to R269; 13 R280, R284). -/

namespace Sys2Proof.Machine

/-! ## Slots and engine commands leave -/

/-- A command whose issuing thread is gone: it keeps the slot's number above the package's slots, so that no later thread
of the slot hears of it. -/
def Cmd.orphan (m : Cmd) (k : Nat) : Cmd := if m.by_ = k then { m with by_ := k + 4096 } else m

/-- A table of engines after a function on each. -/
def mapTab {α : Type} (f : α → α) (t : List (Nat × Option α)) : List (Nat × Option α) :=
  List.map (fun (e : Nat × Option α) => (e.1, e.2.map f)) t

/-- A core whose commands and buffered stores of a thread that is gone are orphans. -/
def Core.orphan (c : Core) (k : Nat) : Core :=
  { c with engq := c.engq.map (fun m => m.orphan k),
           wcb := (c.wcb.filter (fun e => !(e.slot == k && e.phase == 2))).map (fun e =>
             if e.slot = k then { e with slot := k + 4096 } else e),
           streams := mapTab (fun x : Stream => { x with cmd := x.cmd.orphan k }) c.streams,
           copies := mapTab (fun x : CopyEng => { x with cmd := x.cmd.orphan k }) c.copies }

/-! ## What an engine has asked of others -/

/-- Keys of those for which a core reads lines from afar: streams 0 to 31, copies 32 to 159, slots' block reads 256 up,
the engine queue 512, index lines 640 up, the scheduler 1024. -/
def eidStream (n : Nat) : Nat := n
def eidCopy (n : Nat) : Nat := 32 + n
def eidSlot (t : Nat) : Nat := 256 + t
def eidQueue : Nat := 512
/-- The index lines of a stream, which its counters leave out, and a receive step that runs again (02 R44). -/
def eidIndex (n : Nat) : Nat := 640 + n
def eidStep (peer slot : Nat) : Nat := 65536 + peer * 4096 + slot

/-- A key is that of a stream's requests. -/
def eidOfStream (eid : Nat) : Bool := decide (eid < 32) || (decide (640 ≤ eid) && decide (eid < 672))

/-- Requests that satisfy a condition belong to no one any more: their replies are dropped as they come, and count until then
for a load (06 R126; 13 R283). -/
def State.orphans (s : State) (f : Remote → Bool) (g : HostReq → Bool) (load : Nat) : State :=
  { s with
    remotes := mapTab (fun (r : Remote) => if f r then { r with who := 7, a := load } else r) s.remotes,
    hostRq := mapTab (fun (r : HostReq) => if g r then { r with kind := 7, a := load } else r) s.hostRq }

/-- The requests under way for an engine, its writes among them where all says so, become no one's. -/
def State.orphanFar (s : State) (c eid load : Nat) (all : Bool) : State :=
  s.orphans (fun r => (r.who == 5 || (all && r.who == 6)) && r.a == c && r.b == eid)
    (fun r => (r.kind == 5 || (all && r.kind == 6)) && r.a == c && r.b == eid) load

/-- What came from afar for an engine is used up. -/
def State.forget (s : State) (c eid : Nat) : State :=
  if (s.core c).got.any (fun e => e.eid == eid) || (s.core c).asked.any (fun e => e.1 == eid) then
    s.setCore c { s.core c with got := (s.core c).got.filter (fun e => e.eid != eid),
                                asked := (s.core c).asked.filter (fun e => e.1 != eid) }
  else s

/-- An engine's reads stop. -/
def State.stopFar (s : State) (c eid load : Nat) : State := (s.orphanFar c eid load false).forget c eid

/-- An engine that stops for good: what it asked of others is dropped as it comes. -/
def State.quit (s : State) (c eid load : Nat) : State :=
  let s := (s.orphanFar c eid load true).forget c eid
  if Tab.get 0 (s.core c).pendW eid = 0 then s
  else s.setCore c { s.core c with pendW := Tab.set 0 (s.core c).pendW eid 0 }

/-- A slot is freed (06 R115): its bindings are released, and what it waits for is forgotten. -/
def State.freeSlot (s : State) (k : Nat) : State :=
  let s := s.unbindAll k
  let d := s.die (dieOfSlot k)
  let s := s.setDie (dieOfSlot k) { d with walks := d.walks.filter (fun w => w.slot != k) }
  let s : State := { s with cores := s.cores.map (fun e => (e.1, e.2.orphan k)) }
  let c := s.core (k / 16)
  let s := s.setCore (k / 16) { c with got := c.got.filter (fun e => e.eid != 256 + k % 16),
                                       asked := c.asked.filter (fun e => e.1 != 256 + k % 16) }
  s.setSlot k { s.slot k with
    st := .free, pend := [], sync := none, outs := [], muls := [], wait := .none, probed := false,
    task := 0, load := 0, isFeed := false, fetched := none, wasParked := false, resumed := false }

/-- The feed threads of a load are freed, and their stores that are still buffered for it are dropped. -/
def State.dropFeeds (s : State) (l : Nat) : State :=
  let s := (s.feeds l).foldl (fun s e => s.freeSlot e.1) s
  { s with cores := s.cores.map (fun e => (e.1, { e.2 with wcb := e.2.wcb.filter (fun w => w.load != l) })) }

/-- A stream leaves without a record (06 R126). -/
def State.dropStream (s : State) (c n : Nat) : State :=
  match s.stream c n with
  | none => s
  | some x =>
    let s := ((s.setStream c n none).quit c (eidStream n) x.cmd.load).quit c (eidIndex n) x.cmd.load
    let s := if qidCfg (x.d 2) then s else s.qLeave x.key (streamKey c n)
    if x.ikey = 0 then s else s.qLeave x.ikey (streamKey c n)

/-- The engine commands of a load's feed group leave without a record (06 R126). -/
def State.dropCmds (s : State) (l : Nat) : State :=
  s.cores.foldl (fun s e =>
    let s := e.2.streams.foldl (fun s t => match t.2 with
      | some x => if x.cmd.load = l then s.dropStream e.1 t.1 else s
      | none => s) s
    let s := e.2.copies.foldl (fun s t => match t.2 with
      | some x => if x.cmd.load = l then s.quit e.1 (eidCopy t.1) l else s
      | none => s) s
    let s := e.2.rsteps.foldl (fun s r => if r.cmd.load = l then s.quit e.1 (eidStep r.peer r.slot) l else s) s
    let c := s.core e.1
    s.setCore e.1 { c with engq := c.engq.filter (fun m => m.load != l),
                           copies := c.copies.filter (fun t => match t.2 with | some x => x.cmd.load != l | none => true),
                           rsteps := c.rsteps.filter (fun r => r.cmd.load != l) }) s

/-! ## What stands in the fabric -/

/-- The queue circuits of a load hold no token any more. -/
def State.clearCircuits (s : State) (l : Nat) : State :=
  let keys := (s.queues.filter (fun e => keyIsCircuit e.1 && circuitLoad e.1 == l)).map (fun e => e.1)
  keys.foldl (fun s k => (s.setQueue k { s.queue k with toks := [] }).qSync k) s

/-- The tiles of a load hold nothing, its circuits no token, and nothing is on its way over its bridges and borders. A packet
that waits for an earlier one of its border stays held, so that the circuit goes on (02 R38). -/
def State.clearFabric (s : State) (l : Nat) (x : Load) : State :=
  let s := s.clearCircuits l
  { s with tiles := if x.st.holds then s.tiles.filter (fun e => !x.hasTile e.1) else s.tiles,
           borders := s.borders.map (fun e => (e.1, e.2.map (fun b => if b.load = l then { b with words := [], held := if x.st.holds then b.held.map (fun h => (h.1, h.2.1, [])) else b.held } else b))),
           loads := s.loads.map (fun e => if e.1 = l then (e.1, e.2.map (fun y => { y with bridges := [] })) else e) }

/-- The provisional lines of a load's segments above wave c are discarded. -/
def State.dropProv (s : State) (l c : Nat) : State :=
  { s with prov := s.prov.filter (fun p => p.load != l || decide (p.wave ≤ c)) }

/-! ## Kill (13 R284) -/

/-- The loads that threads of a load have placed, and that are not itself, have no owner any more (log 80). -/
def State.disown (s : State) (l : Nat) : State :=
  let mine := fun (k : Nat) => if k < 4096 then (s.slot k).isFeed && (s.slot k).load == l else k / 4096 == 1 + l
  { s with loads := s.loads.map (fun e => if e.1 = l then e else (e.1, e.2.map (fun (y : Load) => match y.owner with
      | some k => if mine k then { y with owner := none, retire := true } else y
      | none => y))) }

/-- STEPTO in core cycles (02 R45): a value of 0 acts as 1 µs. -/
def State.stepTo (s : State) : Nat := 2000 * max 1 (bits (s.port 0).ctl 32 16)

/-- The send steps of a load that await an acknowledgement, and until when they would (R285). -/
def State.stepsOf (s : State) (l : Nat) : List (Nat × Nat × Nat) :=
  s.cores.flatMap (fun (e : Nat × Core) => e.2.copies.filterMap (fun (t : Nat × Option CopyEng) => match t.2 with
    | some x => if x.cmd.load = l ∧ x.st < 3 ∧ x.role = 1 ∧ x.sentAt ≠ 0 then some (x.peerOf, x.sslot, x.sentAt + s.stepTo) else none
    | none => none))

/-- A load is killed: from now on nothing of it runs, and it is released once it is quiescent (R283). -/
def State.kill (s : State) (l : Nat) : State :=
  match s.load l with
  | none => s
  | some x =>
    if x.st = .killing ∨ x.st = .killed then s
    else
      let steps := s.stepsOf l
      let s := ((((s.disown l).dropFeeds l).dropCmds l).clearFabric l x).dropProv l x.wave
      match s.load l with
      | none => s
      | some y => s.setLoad l { y with st := if x.st.holds then .killing else .killed, steps := steps, snaps := [], zero := false, quiet := false, count := 0, reports := [], bridges := [], arms := [] }

/-! ## Snapshots (12 R266) -/

/-- The empty snapshot of a wave. -/
def Snap.empty (n : Nat) : Snap :=
  { wave := n, tiles := [], slots := [], streams := [], copies := [], cmds := [], queues := [], bridges := [], result := none }

/-- A change of a load's snapshot of a wave. -/
def State.snapUp (s : State) (l n : Nat) (f : Snap → Snap) : State :=
  match s.load l with
  | none => s
  | some x =>
    if x.snaps.any (fun y => y.wave == n) then
      s.setLoad l { x with snaps := x.snaps.map (fun y => if y.wave = n then f y else y) }
    else s.setLoad l { x with snaps := x.snaps ++ [f (Snap.empty n)] }

/-! ## Putting a feed group back -/

/-- A feed thread's context as a rollback leaves it: what has arrived for it since stays pending, and an injection that
has fired stays so. -/
def Slot.backFrom (x now : Slot) : Slot :=
  { x with pend := now.pend, errinj := now.errinj, outs := [], muls := [], sync := none, wait := .none, fetched := none,
           st := if x.st = .parked ∨ x.st = .stopped then x.st else .ready, binds := [] }

/-- A feed thread's bindings are made again. -/
def State.rebind (s : State) (k : Nat) (bs : Tab (Option Bind)) : State :=
  bs.foldl (fun s e => match e.2 with
    | some b =>
      let key := queueKey (dieOfSlot k) b.qid b.out
      let s := s.setSlot k { s.slot k with binds := Tab.set none (s.slot k).binds e.1 (some { b with key := key }) }
      s.qJoin key b.qid (s.slot k).asid b.out (bindKey k e.1) b.decthr (some (bindKey k e.1))
    | none => s) s

/-- Where a feed thread goes back to: its own slot when that is free, else the lowest free slot of its core, else of the
package. -/
def State.slotFor (s : State) (k : Nat) : Nat :=
  let free := fun (j : Nat) => (s.slot j).st == .free
  if free k then k
  else match ((List.range 16).map (fun t => k / 16 * 16 + t)).find? free with
    | some j => j
    | none => ((List.range 4096).find? free).getD k

/-- The first place from n upward at which a table lists nothing, or n itself. -/
def placeFor {α : Type} (t : Tab (Option α)) (n : Nat) : Nat :=
  if (Tab.get none t n).isNone then n else ((List.range 1024).find? (fun i => (Tab.get none t i).isNone)).getD n

/-- A stream takes its place in an engine again and joins its queues. -/
def State.putStream (s : State) (c n : Nat) (x : Stream) : State :=
  let n := placeFor (s.core c).streams n
  let q := x.d 2
  let s := s.setStream c n (some { x with emptyAt := 0, idxAt := 0 })
  let s := if qidCfg q then s else s.qJoin x.key q x.cmd.asid (!x.drain) (streamKey c n) 0 none
  if x.ikey = 0 then s else s.qJoin x.ikey (x.d 5) x.cmd.asid false (streamKey c n) 0 none

/-- The feed threads and engine commands of a snapshot take their places: to gives each thread's old slot its new one,
core each command, which stood on a core, its new one, and fin what each context becomes. A thread put back hits no line that
an L1 cache installed before (11 R231). -/
def State.putFeed (s : State) (sn : Snap) (dest : Nat → Nat) (core : Cmd → Nat → Nat) (fin : Slot → Slot) : State :=
  let cmd := fun (m : Cmd) => if m.by_ < 4096 then { m with by_ := dest m.by_ } else m
  let s := sn.slots.foldl (fun s e =>
    let k := dest e.1
    (s.setSlot k { fin e.2 with acq := s.clock, iacq := s.clock, dur := 0 }).rebind k e.2.binds) s
  let s := sn.streams.foldl (fun s e =>
    s.putStream (core e.2.cmd (e.1 / 32)) (e.1 % 32) { e.2 with cmd := cmd e.2.cmd }) s
  let s := sn.copies.foldl (fun s e =>
    let c := core e.2.cmd (e.1 / 128)
    s.setCopy c (placeFor (s.core c).copies (e.1 % 128)) (some { e.2 with cmd := cmd e.2.cmd })) s
  sn.cmds.foldl (fun s e =>
    let c := core e.2 e.1
    s.setCore c { s.core c with engq := (s.core c).engq ++ [cmd e.2] }) s

/-! ## Rollback (12 R269) -/

/-- The element records of a snapshot are written to the tiles of its load. -/
def State.putTiles (s : State) (x : Load) (sn : Snap) : State :=
  sn.tiles.foldl (fun s e => match x.cuts[e.1 / 16384]? with
    | some c => s.setTile (c.tileAt (e.1 % 16384)) e.2
    | none => s) s

/-- The copies and waiting commands of a load's feed group that satisfy a condition, as a snapshot lists them. -/
def State.cmdsOf (s : State) (l : Nat) (p : Cmd → Bool) : List (Nat × CopyEng) × List (Nat × Cmd) :=
  (s.cores.flatMap (fun (e : Nat × Core) => e.2.copies.filterMap (fun (t : Nat × Option CopyEng) => match t.2 with
      | some x => if x.cmd.load = l ∧ p x.cmd then some (e.1 * 128 + t.1, x) else none
      | none => none)),
   s.cores.flatMap (fun (e : Nat × Core) => e.2.engq.filterMap (fun m => if m.load = l ∧ p m then some (e.1, m) else none)))

/-- A load goes back to its last committed wave: what its feed group issued after that wave's MARK stops (26 R465). -/
def State.rollback (s : State) (l : Nat) : State :=
  match s.load l with
  | none => s
  | some x => match x.snaps.find? (fun n => n.wave == x.wave) with
    | none => s.kill l
    | some sn =>
      let now := sn.slots.map (fun e => (e.1, s.slot e.1))
      let old := s.cmdsOf l (fun m => decide (m.wave ≤ x.wave))
      let s := (((s.dropFeeds l).dropCmds l).clearFabric l x).dropProv l x.wave
      let s := s.putTiles x sn
      let dst := sn.slots.map (fun e => (e.1, s.slotFor e.1))
      let dest := fun (k : Nat) => match dst.find? (fun e => e.1 == k) with | some e => e.2 | none => k
      let was := fun (y : Slot) => match now.find? (fun e => e.2.isFeed && e.2.load == l && e.2.cut == y.cut && e.2.thr == y.thr) with
        | some e => e.2 | none => { y with pend := [] }
      let s := s.putFeed { sn with copies := old.1, cmds := old.2 } dest (fun _ c => c) (fun y => y.backFrom (was y))
      match s.load l with
      | none => s
      | some y => s.setLoad l { y with st := if x.st = .draining then .running else x.st,
                                       redrain := x.redrain || x.st == .draining, top := x.wave, cmark := x.wave, rbacks := x.rbacks + 1, snaps := x.snaps.filter (fun n => decide (n.wave ≤ x.wave)),
                                       bridges := [], result := sn.result, zero := false, quiet := false, count := 0 }

/-! ## Reports to the owner of a load (05 R101) -/

/-- A report for a load without an owner: one entry of ETYPE 7 (Table 07-11). -/
def State.orphanReport (s : State) (x : Load) (cause : Nat) (tval : Word) : State :=
  s.faultEntry x.die0 7 (bits x.asid 0 16) 0 0 0 [0, tval, field 0 6 cause, 0, 0, 0, 0]

/-- An asynchronous report goes to the owner thread of a load. -/
def State.tellOwner (s : State) (l cause : Nat) (tval : Word) : State :=
  match s.load l with
  | none => s
  | some x => match x.owner with
    | some k => s.pend k cause tval (loadSrc l)
    | none => s.orphanReport x cause tval

/-- The owner threads of loads that hold a line provisionally take cause 0x12 (12 Table 12-13). -/
def State.tellHolders (s : State) (line : Nat) : State :=
  s.prov.foldl (fun s p =>
    if p.line = line then s.tellOwner p.load 0x12 (BitVec.ofNat 64 (s.pkg.pkgNo % 1024 * 2 ^ 46 + line * 64)) else s) s

/-! ## Machine checks of a load (12 R254 to R256, R269) -/

/-- ACTION and RBCNT of a machine check in a load (Table 12-6): a protected load is rolled back, and killed at the fourth
machine check of a segment; any other load is killed; a load that is being killed or rolled back is left so (R256). -/
def State.failAction (s : State) (l : Nat) : Nat × Nat :=
  match s.load l with
  | none => (0, 0)
  | some x =>
    if x.st = .killing ∨ x.st = .killed ∨ s.tested' l then (0, 0)
    else if x.prot = false then (2, 0)
    else if x.rbacks ≥ 3 then (2, 3)
    else (1, x.rbacks)

/-- The segment a machine check rolls back, for a record's DW3 (R254); where none is rolled back the spec states no value
(log 12). -/
def State.checkDw3 (s : State) (l : Nat) : State × Word :=
  match s.failAction l, s.load l with
  | (1, _), some x => (s, BitVec.ofNat 64 (x.wave + 1))
  | _, _ => let f := s.free 2; (f.1, BitVec.ofNat 64 f.2)

/-- What R255 does to the load in which a machine check was detected. -/
def State.failLoad (s : State) (l : Nat) : State :=
  match (s.failAction l).1 with
  | 1 => s.rollback l
  | 2 => s.kill l
  | _ => s

/-- A fabric machine check of a load (R252 to R256, R263): its record; the self-test of the lane that a mismatch names;
the owner's cause 0x0A where the load is killed and its owner is no feed thread of it; and the kill or rollback. -/
def State.fabricCheck (s : State) (l : Nat) (tval : Word) (part : Option (List Nat)) (inj : Bool) (kill : Bool) : State :=
  match s.load l with
  | none => s
  | some x =>
    let a := if kill ∧ (s.failAction l).1 ≠ 0 then (2, x.rbacks) else s.failAction l
    let w := s.checkDw3 l
    let d := bits tval 44 2
    let rec_ := (d, (s.die d).mnext)
    let s := w.1.logCheck d 1 a.1 a.2 (bits x.asid 0 16) inj tval w.2
    let s := if a.1 = 2 then
        (match x.owner with
         | some k => if (s.slot k).isFeed && (s.slot k).load == l then s else s.tellOwner l 0x0A tval
         | none => s.tellOwner l 0x0A tval)
      else s
    let s := if a.1 = 2 then s.kill l else if a.1 = 1 then s.rollback l else s
    match part with
    | some p => s.startTest p none inj (some rec_) l
    | none => s

/-- A load holds more provisional lines than it may (R267): a fabric machine check with SRC 6, which kills it. No element
is at fault, so TVAL's other fields are not stated (log 12). -/
def State.failCapacity (s : State) (l : Nat) : State :=
  let f := s.free 3
  f.1.fabricCheck l (field 48 16 l ||| field 9 39 (f.2 * 8) ||| field 5 4 6) none false true

end Sys2Proof.Machine
end

