-- ==== Sys2Proof/Machine/Check.lean ====
section
/-! DEFINITION. Residue checks of the access cores (12 R248 to R259; 16 R348, R349): an armed ERRINJ makes the check of
the next matching result fail, and the machine check that follows. -/

namespace Sys2Proof.Machine

/-- The slot runs a feed thread of a protected load (12 R265). -/
def State.isProtFeed (s : State) (k : Nat) : Bool :=
  (s.slot k).isFeed && (match s.load (s.slot k).load with | some l => l.prot | none => false)

/-- The error has shown: of an injection FIRED is set and ARM cleared (12 R258). -/
def State.fired (s : State) (k : Nat) : State :=
  if injected k then s.setSlot k { s.slot k with errinj := setBits (setBits (s.slot k).errinj 0 1 0) 3 1 1 }
  else { s with upsets := dropNth s.upsets (k - 4096) }

/-- The SRC of an error that shows: of one of the hardware itself, bit 4 of its word says that it stood in an operand. -/
def State.showsAs (s : State) (k src : Nat) : Nat :=
  if injected k then src
  else match s.upsets[k - 4096]? with | some u => if bit u.2 4 then 0 else src | none => src

/-- TVAL of an access machine check (12 Table 12-3). -/
def checkTval (k pos unit src insn : Nat) : Word :=
  field 56 8 (k / 16) ||| field 52 4 (k % 16) ||| field 51 1 pos ||| field 48 3 unit ||| field 32 4 src ||| field 0 32 insn

/-- A residue mismatch in a datapath of the executing thread (12 R255): the record is written and the targeted
self-test starts; a feed thread of a protected load is rolled back with its load, any other takes cause 0x09. -/
def State.coreCheck (s : State) (unit src : Nat) (inj : Bool) : State :=
  let k := s.cur
  let x := s.me
  let d := dieOfSlot k
  let tval := checkTval k s.pos unit src x.word
  let rec_ := (d, (s.die d).mnext)
  let part := [0, k / 16, unit, s.pos]
  if s.isProtFeed k then
    let a := s.failAction x.load
    let s := s.logCheck d 0 a.1 a.2 x.asidN inj tval x.pc
    (s.failLoad x.load).startTest part none inj (some rec_) x.load
  else
    let s := s.logCheck d 0 0 0 x.asidN inj tval x.pc
    let s := s.startTest part none inj (some rec_) 0
    s.raise 0x09 tval

/-- An instruction issues: not at all while it may not; with a machine check where an injection meets one of its units;
and otherwise with its effect t. rs are the registers it reads or writes, us its units with their source codes. -/
def State.run (s : State) (rs : List Nat) (us : List (Nat × Nat)) (t : State) : State :=
  if s.mayIssue rs us = false then s
  else match s.injection us with
    | some (k, u, src) => (s.fired k).coreCheck u (s.showsAs k src) (injected k)
    | none => t

/-- An instruction whose only effect is one register. -/
def State.result (s : State) (rs : List Nat) (us : List (Nat × Nat)) (d : Nat) (v : Word) : State :=
  s.run (d :: rs) us (s.wr d v).advance

/-- A multiply or divide issues: its register is written when it completes (06 R117, 16 R347). -/
def State.slow (s : State) (rs : List Nat) (us : List (Nat × Nat)) (d : Nat) (v : Word) (time : Nat) : State :=
  s.run (d :: rs) us
    ((s.setMe { s.me with muls := s.me.muls ++ [{ dst := d, val := v, done := s.cycle + time }] }).advance)

/-- A taken branch: the next instruction of the executing thread is at an address, and is fetched two cycles after (06
R117). -/
def State.jump (s : State) (a : Word) : State := s.setMe { s.me with pc := a, nextAt := s.cycle + 2 }

end Sys2Proof.Machine
end

