-- ==== Sys2Proof/Machine/Mmu.lean ====
section
/-! DEFINITION. Address translation (07): the page-table walk, permission checks, TLBs, translation faults, and tenancy's
refusal of a stack (05 R110). Accesses are coded as in Table 07-10: 0 read, 1 write, 2 atomic, 3 fetch. -/

namespace Sys2Proof.Machine

/-- What a translation gives. held names a page-table line that the host holds (03 R50). -/
inductive XRes where
  | ok (pa mt : Nat)
  | fault (reason level : Nat)
  | perm
  | held (line : Nat)
  | miss
  deriving DecidableEq, Repr

/-- What a walk finds: a leaf at address a with value e that maps 2^bits bytes from base. -/
inductive WRes where
  | leaf (a : Nat) (e : Word) (base bits : Nat)
  | fault (reason level : Nat)
  | perm
  | held (line : Nat)
  deriving DecidableEq, Repr

/-- The memory type of a leaf. -/
def leafMt (e : Word) : Nat := bits e 9 3

/-- permcheck of R140 on a leaf that maps n bytes from base. -/
def State.permFails (s : State) (e : Word) (base n acc mode : Nat) : Bool :=
  let r := bit e 2
  let w := bit e 3
  let x := bit e 4
  let u := bit e 5
  let mt := leafMt e
  (mode == 0 && !u) || (mode == 1 && acc == 3 && u) || (acc == 0 && !r) || (acc == 1 && !w) ||
    (acc == 2 && (!r || !w)) || (acc == 3 && !x) ||
    (mode == 0 && (mt == 0 || mt == 1 || mt == 2 || mt == 5) && s.hitsSvc base n) ||
    (mt == 4 && !bit s.pkg.persist 0)

/-- The index of an address at a level (Table 07-1). -/
def ptIndex (va lv : Nat) : Nat :=
  if lv = 0 then va / 2 ^ 47 % 512 else if lv = 1 then va / 2 ^ 36 % 2048 else if lv = 2 then va / 2 ^ 25 % 2048
  else va / 2 ^ 14 % 2048

/-- The number of address bits one leaf of a level maps. -/
def leafBits (lv : Nat) : Nat := if lv = 1 then 36 else if lv = 2 then 25 else 14

/-- A leaf entry is well formed at its level (07 R139). -/
def leafOk (e : Word) (lv : Nat) : Bool :=
  lv != 0 && bits e 12 2 == 0 && decide (bits e 9 3 ≤ 5) && decide (bits e 56 4 ≤ 8) &&
    (lv == 3 || bits e 14 (leafBits lv - 14) == 0)

/-- The table entry at an address that the walk cache of a die keeps, if it does (07 R143, R144). -/
def State.tableKept (s : State) (d a : Nat) : Option Word :=
  ((s.die d).wcache.find? (fun e => e.1 == a)).map (fun e => e.2)

/-- The walk of a die from the table at t, n levels to go (07 R139). A table entry that the walk cache keeps is not read
again. -/
def State.walkFrom (s : State) (d va acc mode t : Nat) : Nat → WRes
  | 0 => .fault 2 3
  | n + 1 =>
    let lv := 3 - n
    let a := t + 8 * ptIndex va lv
    if s.localDram a = false then .fault 2 lv
    else if (s.tableKept d a).isNone ∧ s.mustSnoop (lineOf (offOf a)) false then .held (lineOf (offOf a))
    else
      let e := (s.tableKept d a).getD (s.homeD a)
      if bit e 0 = false then .fault 0 lv
      else if bit e 63 then .fault 2 lv
      else if bit e 1 then
        if lv = 3 then .fault 2 lv
        else
          let t' := bits e 14 42 * 2 ^ 14
          if s.localDram t' = false then .fault 2 lv else State.walkFrom s d va acc mode t' n
      else if leafOk e lv = false then .fault 2 lv
      else
        let c := if lv = 1 then 0 else bits e 56 4
        let k := leafBits lv + c
        let base := bits e k (56 - k) * 2 ^ k
        if s.permFails e base (2 ^ k) acc mode then .perm else .leaf a e base k

/-- The table entries, by address, that a walk which reached a leaf went through, n levels to go. -/
def State.walkPath (s : State) (d va t : Nat) : Nat → List (Nat × Word)
  | 0 => []
  | n + 1 =>
    let a := t + 8 * ptIndex va (3 - n)
    let e := (s.tableKept d a).getD (s.homeD a)
    if bit e 1 then (a, e) :: State.walkPath s d va (bits e 14 42 * 2 ^ 14) n else []

/-- The walk cache of a die keeps what a walk read, 256 entries at most (07 R143). -/
def State.keepTables (s : State) (d : Nat) (l : List (Nat × Word)) : State :=
  let x := s.die d
  s.setDie d { x with wcache := (l ++ x.wcache.filter (fun e => l.all (fun p => p.1 != e.1))).take 256 }

/-- The address lies outside the virtual space (07 R135). -/
def outside (va : Word) : Bool := decide (2 ^ 56 ≤ va.toNat)

/-- A translation that a TLB holds serves an address (07 R143). -/
def Tlb.hits (t : Tlb) (asid va : Nat) : Bool :=
  (bit t.leaf 6 || t.asid == asid) && decide (t.va ≤ va) && decide (va < t.va + 2 ^ t.bits)

/-- The translation a TLB list gives, none when it must be walked: the check fails, or a write finds D = 0 (07 R140,
R141). -/
def State.tlbGives (s : State) (ts : List Tlb) (asid va acc mode : Nat) : Option (Nat × Nat) :=
  match ts.find? (fun t => t.hits asid va) with
  | none => none
  | some t =>
    if s.permFails t.leaf t.pa (2 ^ t.bits) acc mode || ((acc == 1 || acc == 2) && !bit t.leaf 8) then none
    else some (t.pa + (va - t.va), leafMt t.leaf)

/-- Pinned translations beyond the first 1,024, and the oldest of the others, make room (07 R143). -/
def trimTlb (cap pins : Nat) : List Tlb → List Tlb
  | [] => []
  | t :: r =>
    if bit t.leaf 62 && decide (0 < pins) then t :: trimTlb cap (pins - 1) r
    else if cap = 0 then trimTlb 0 pins r else t :: trimTlb (cap - 1) pins r

/-- A TLB list of cap entries, of which pins may be pinned, after a translation is installed at its head. -/
def tlbPut (cap pins : Nat) (t : Tlb) (l : List Tlb) : List Tlb :=
  let l := t :: l.filter (fun u => !(u.asid == t.asid && u.va == t.va && u.bits == t.bits))
  trimTlb (cap - min pins (l.filter (fun u => bit u.leaf 62)).length) pins l

/-- A device write of a doubleword that is no thread's and no engine's: the owner thread of a load that holds the line
provisionally takes cause 0x12 (12 Table 12-13). -/
def State.sysStoreD (s : State) (pa : Nat) (v : Word) : State :=
  (s.storeD none pa v).tellHolders (lineOf (offOf pa))

/-- One walk for an access, from a die: A and D are set at the home as the access needs, and the translation enters the
second-level TLB (07 R139, R141 to R143). -/
def State.doWalk (s : State) (d : Nat) (asid : Nat) (ptb va : Word) (acc mode : Nat) : State × XRes :=
  if outside va then (s, .fault 1 0)
  else match s.walkFrom d va.toNat acc mode (bits ptb 14 42 * 2 ^ 14) 4 with
    | .fault r l => (s, .fault r l)
    | .perm => (s, .perm)
    | .held l => (s.askHost l, .held l)
    | .leaf a e base k =>
      let w := acc == 1 || acc == 2
      let need := !bit e 7 || (w && !bit e 8)
      let e' := setBits (if w then setBits e 8 1 1 else e) 7 1 1
      if need && s.mustSnoop (lineOf (offOf a)) true then (s.askHost (lineOf (offOf a)), .held (lineOf (offOf a)))
      else
        let s := s.keepTables d (s.walkPath d va.toNat (bits ptb 14 42 * 2 ^ 14) 4)
        let s := if need then s.storeD none a e' else s
        let t := { asid := asid, va := va.toNat - va.toNat % 2 ^ k, bits := k, pa := base, leaf := e' }
        let s := s.setDie d { s.die d with tlb2 := tlbPut 8192 1024 t (s.die d).tlb2 }
        (s, .ok (base + va.toNat % 2 ^ k) (leafMt e'))

/-! Parties other than thread slots stand in the line of walks under numbers of their own: the engines of a core, the
scheduler of a die, the prefetches of a slot. -/
def engineParty (c : Nat) : Nat := 2 ^ 20 + c
def schedParty (d : Nat) : Nat := 2 ^ 21 + d
def prefetchParty (k : Nat) : Nat := 2 ^ 22 + k

/-- A walk for a party that is no thread slot: it runs at once while fewer than 32 walks do, and else waits in line (07
R143). -/
def State.walkAs (s : State) (d party asid : Nat) (ptb va : Word) (acc mode : Nat) : State × XRes :=
  let ws := (s.die d).walks
  match ws.findIdx? (fun w => w.slot == party && w.va == va && w.acc == acc && w.asid == asid && w.mode == mode) with
  | none =>
    if ws.length < 32 then s.doWalk d asid ptb va acc mode
    else (s.setDie d { s.die d with walks := ws ++ [{ slot := party, va := va, acc := acc, asid := asid, ptb := ptb, mode := mode }] },
      .miss)
  | some i =>
    if i < 32 then
      let r := s.doWalk d asid ptb va acc mode
      match r.2 with
      | .held _ => r
      | v => (r.1.setDie d { r.1.die d with walks := dropNth (r.1.die d).walks i }, v)
    else (s, .miss)

/-- The translation of a thread's access (07 R113, R139, R147), miss when a walk is needed. -/
def State.xlate (s : State) (k : Nat) (va : Word) (acc : Nat) : XRes :=
  let x := s.slot k
  if x.mode = 2 then .ok (va.toNat % 2 ^ 56) 0
  else if x.mode = 1 ∧ s.inSvc va.toNat 1 then .ok va.toNat 0
  else if outside va then .fault 1 0
  else match s.tlbGives ((s.core (k / 16)).tlb1 ++ (s.die (dieOfSlot k)).tlb2) x.asidN va.toNat acc x.mode with
    | some r => .ok r.1 r.2
    | none => .miss

/-- A thread's access at an address is untranslated (07 R147). -/
def State.untranslated (s : State) (k : Nat) (va : Word) : Bool :=
  (s.slot k).mode == 2 || ((s.slot k).mode == 1 && s.inSvc va.toNat 1)

/-- An access by an address space to a stack that its tenancy class may not reach (05 R110). -/
def State.stackRefused (s : State) (asid pa : Nat) : Bool :=
  match s.place pa with
  | .dram d off =>
    (s.die d).hbmsep && decide (off < 0xC000000000) &&
      !bit (s.die d).tenhbm (3 * (asid / 4096 % 16) + (off - d * 0x3000000000) / 2 ^ 36)
  | _ => false

/-- A translation fault of a thread's access (07 R148, R149, R161): nested in service mode; else it parks the thread, or
traps it with cause 0x04, 0x05 or 0x06. -/
def State.xfault (s : State) (k : Nat) (va : Word) (reason level acc : Nat) : State :=
  let x := s.slot k
  let d := dieOfSlot k
  let word := if acc = 3 then 0 else BitVec.ofNat 64 x.word
  if x.mode = 1 then s.nested k va x.pc reason level acc [va, x.pc, word, 0, 0, 0]
  else if s.fqPark d then
    let seq := (s.die d).fqSeq
    let s := s.setSlot k { x with st := .parked, parkDie := d, parkSeq := seq, wait := .none }
    s.faultEntry d 0 x.asidN reason level acc [faultDw1 k k 0 true (k / 16), va, x.pc, word, 0, 0, 0]
  else s.raiseAt k (if acc = 0 then 4 else if acc = 3 then 6 else 5) va x.pc

/-- A thread waits for a page walk (07 R143). -/
def State.startWalk (s : State) (k : Nat) (va : Word) (acc : Nat) : State :=
  let d := dieOfSlot k
  let s := s.setSlot k { s.slot k with wait := .walk }
  s.setDie d { s.die d with walks := (s.die d).walks.filter (fun w => w.slot != k) ++ [{ slot := k, va := va, acc := acc }] }

/-- An access of the executing thread goes on with its translation, or meets what the translation met. -/
def State.withXlate (s : State) (va : Word) (acc : Nat) (f : Nat → Nat → State) : State :=
  match s.xlate s.cur va acc with
  | .ok pa mt => f pa mt
  | .fault r l => s.xfault s.cur va r l acc
  | .perm => s.raise 0x07 va
  | .held _ => s.startWalk s.cur va acc
  | .miss => s.startWalk s.cur va acc

/-- A walk finishes (07 R139 to R143, R148): the translation is installed, and the thread that waited for it goes on; or
it meets the fault. Only the 32 oldest walks of a die run. A walk of another party only installs its translation: the party
comes for it, and walks again where it met a fault. -/
def execWalkDone (die idx : Nat) (s : State) : Host.Outcome State Fault Refusal :=
  if idx ≥ 32 then .next s
  else match (s.die die).walks[idx]? with
  | none => .next s
  | some w =>
    if w.slot ≥ 4096 then
      let r := s.doWalk die w.asid w.ptb w.va w.acc w.mode
      (match r.2 with
       | .held _ => .next r.1
       | _ => .next (r.1.setDie die { r.1.die die with walks := dropNth (r.1.die die).walks idx }))
    else
    let x := s.slot w.slot
    let r := s.doWalk die x.asidN x.ptbase w.va w.acc x.mode
    match r.2 with
    | .held _ => .next r.1
    | res =>
      let s := r.1.setDie die { r.1.die die with walks := dropNth (r.1.die die).walks idx }
      if x.wait ≠ .walk then .next s
      else
        let s := s.setSlot w.slot { s.slot w.slot with wait := .none }
        match res with
        | .ok .. =>
          let c := w.slot / 16
          match (s.die die).tlb2.head? with
          | some t => .next (s.setCore c { s.core c with tlb1 := tlbPut 64 0 t (s.core c).tlb1 })
          | none => .next s
        | .fault rs lv => .next (s.xfault w.slot w.va rs lv w.acc)
        | .perm => .next (s.raiseAt w.slot 0x07 w.va x.pc)
        | _ => .next s

end Sys2Proof.Machine
end

