-- ==== Sys2Proof/Machine/Access.lean ====
section
/-! DEFINITION. How accesses travel: packets and routes (02 R31 to R36), requests to the host (03 R52, R53), provisional
lines (12 R267, R270), and the order within a thread (11 R232 to R239). -/

namespace Sys2Proof.Machine

/-! ## Packets -/

/-- Bits [127:8] of a header as a number (02 Table 02-2). -/
def headerBits (dst src kind circ seq len rsv addr : Nat) : Nat :=
  dst % 1024 * 2 ^ 110 + src % 1024 * 2 ^ 100 + kind % 16 * 2 ^ 96 + circ % 4096 * 2 ^ 84 + seq % 65536 * 2 ^ 68 +
    len % 256 * 2 ^ 60 + rsv % 16 * 2 ^ 56 + addr % 2 ^ 56

/-- A packet of this package. -/
def State.packet (s : State) (dst kind circ seq addr : Nat) (data : List Nat) : Packet :=
  { dst := dst, src := s.pkg.pkgNo, kind := kind, circ := circ, seq := seq, len := data.length, rsv := 0, addr := addr,
    hcrc := Config.hcrc (headerBits dst s.pkg.pkgNo kind circ seq data.length 0 addr), data := data }

def State.route (s : State) (dst : Nat) : Word := Tab.get 0 s.droute dst

/-- A package has a valid route entry (02 R33, Table 02-3). -/
def State.reachable (s : State) (dst : Nat) : Bool :=
  bit (s.route dst) 16 && decide (bits (s.route dst) 0 5 < 24)

/-- The base die of a port (02 R28). -/
def portDie (p : Nat) : Nat := p / 6

/-- A port takes packets: it is up, or retrains without having failed (02 R29, R33). -/
def Port.usable (x : Port) : Bool := x.st == 2 || (x.st == 1 && !x.failed)

/-- The port a packet leaves on: the primary, or the alternate while the primary is failed or down. -/
def State.portFor (s : State) (dst : Nat) : Option Nat :=
  if s.reachable dst = false then none
  else
    let e := s.route dst
    if (s.port (bits e 0 5)).usable then some (bits e 0 5)
    else if bit e 15 ∧ bits e 8 5 < 24 ∧ (s.port (bits e 8 5)).usable then some (bits e 8 5)
    else none

/-- The flits of a packet: 248 bytes each of its header and payload, the last one partly filled (02 R28, R31; log 16). -/
def flitsOf (k : Packet) : Nat := (16 + 8 * k.data.length + 247) / 248

/-- The flits of a packet, numbered from a port's next one on. -/
def Port.flits (x : Port) (k : Packet) : List (Nat × Nat × Packet) :=
  (List.range (flitsOf k)).map (fun i => (x.txNext + i, i, k))

/-- Flits leave on a port. -/
def State.sendFlits (s : State) (p : Nat) (l : List (Nat × Nat × Packet)) : State :=
  l.foldl (fun s f => s.emit (.flit p f.1 f.2.1 f.2.2)) s

/-- A packet enters the retry buffer of a port; its flits leave while the port is up and fewer than 512 are unacknowledged
(02 R28, R29). -/
def State.sendOn (s : State) (p : Nat) (k : Packet) : State :=
  let x := s.port p
  let l := x.flits k
  let s := s.setPort p { x with unack := x.unack ++ l, txNext := x.txNext + flitsOf k,
                                ackAt := if x.unack.isEmpty then s.cycle else x.ackAt }
  if x.st = 2 then s.sendFlits p (l.take (512 - x.unack.length)) else s

/-- A packet is routed (02 R33); with no usable port it is lost, and timeouts recover what it carried (02 R36). -/
def State.send (s : State) (k : Packet) : State :=
  match s.portFor k.dst with
  | some p => s.sendOn p k
  | none => s

/-! ## Requests to other packages and to the host -/

/-- The first transaction tag from t on that no request holds, n more looked at. -/
def freeTag (rs : Tab (Option Remote)) (t : Nat) : Nat → Nat
  | 0 => t
  | n + 1 => if (Tab.get none rs t).isNone then t else freeTag rs ((t + 1) % 65536) n

/-- The next transaction tag (02 R36). -/
def State.newTag (s : State) : Nat := freeTag s.remotes (s.nTag % 65536) 65536

/-- A request to another package under the next transaction tag (02 R36). -/
def State.sendRemote (s : State) (who a b kind addr : Nat) (data : List Nat) : State × Nat :=
  let tag := s.newTag
  let p := s.packet (addr / 2 ^ 46 % 1024) kind 0 tag addr data
  let s := { s with nTag := s.nTag + 1,
                    remotes := Tab.set none s.remotes tag
                      (some { pkt := p, who := who, a := a, b := b, tries := 0, sent := s.cycle, id := s.nTag }) }
  (s.send p, tag)

/-- A request to the host: what it is is emitted by mk from the request's number. -/
def State.sendHost (s : State) (kind a b addr : Nat) (mk : Nat → Out) : State × Nat :=
  let id := s.nHost
  let s := { s with nHost := id + 1,
                    hostRq := Tab.set none s.hostRq id (some { kind := kind, a := a, b := b, addr := addr }) }
  (s.emit (mk id), id)

/-! ## Provisional lines (12 R267, R270) -/

/-- The line is held provisionally by a load other than l. -/
def State.conflicts (s : State) (l : Option Nat) (line : Nat) : Bool :=
  s.prov.any (fun p => p.line == line && some p.load != l)

/-- The bytes a load's segments hold of a line, the latest segment first. -/
def State.provByte (s : State) (load off : Nat) : Option Byte :=
  (s.prov.filter (fun p => p.load == load && p.line == lineOf off)).foldl (fun r p =>
    match r, Tab.get none p.bytes (off % 64) with
    | none, v => v.map (fun b => (p.wave, b))
    | some (w, b), some v => if p.wave ≥ w then some (p.wave, v) else some (w, b)
    | r, none => r) (none : Option (Nat × Byte)) |>.map (fun r => r.2)

/-- n bytes of a segment's view (12 R267): provisional bytes where the mask is set, elsewhere those of the committed v. -/
def State.provView (s : State) (load key v : Nat) : Nat → Nat
  | 0 => 0
  | n + 1 => ((s.provByte load key).getD (BitVec.ofNat 8 v)).toNat + 256 * State.provView s load (key + 1) (v / 256) n

/-- The number of ways in which a load's class may allocate on a die (05 Table 05-6). -/
def State.waysOf (s : State) (d asid : Nat) : Nat :=
  let w := (Tab.get 0xFFFFFFFF (s.die d).tenway (asid / 4096 % 16)) % 2 ^ 32
  if w = 0 then 32 else ((List.range 32).filter (fun i => w.testBit i)).length

/-- The bytes a load may hold provisionally: 256 MiB · W / 32. -/
def State.provCap (s : State) (d asid : Nat) : Nat := 2 ^ 28 * s.waysOf d asid / 32

/-- A provisional line is that of a load's segment at a line. -/
def Prov.is (p : Prov) (load wave line : Nat) : Bool := p.load == load && p.wave == wave && p.line == line

/-- A segment's line would be one more than a load may hold. -/
def State.provFull (s : State) (load wave asid line : Nat) (d : Nat) : Bool :=
  let mine := s.prov.filter (fun p => p.load == load)
  !(mine.any (fun p => p.is load wave line)) && decide (64 * (mine.length + 1) > s.provCap d asid)

/-- What a write adds to a provisional line: a full line without poison clears what was there (12 R262). -/
def Prov.add (p : Prov) (bs : Tab (Option Byte)) (pois : Bool) (core : Option Nat) : Prov :=
  { p with bytes := bs.foldl (fun t e => Tab.set none t e.1 e.2) p.bytes, pois := pois || (p.pois && bs.length != 64),
           cores := match core with | some c => if p.cores.contains c then p.cores else c :: p.cores | none => p.cores }

/-- A write of a segment creates or updates its provisional line. core is the core of a thread that wrote. -/
def State.provWrite (s : State) (load wave line : Nat) (bs : Tab (Option Byte)) (pois : Bool) (core : Option Nat) : State :=
  if s.prov.any (fun p => p.is load wave line) then
    { s with prov := s.prov.map (fun p => if p.is load wave line then p.add bs pois core else p) }
  else
    let p : Prov := { load := load, wave := wave, line := line, bytes := [], pois := false, cores := [] }
    { s with prov := s.prov ++ [p.add bs pois core] }

/-- n bytes of v as a table of bytes by offset in a line. -/
def lineBytes (o v : Nat) : Nat → Tab (Option Byte)
  | 0 => []
  | n + 1 => (o, some (BitVec.ofNat 8 v)) :: lineBytes (o + 1) (v / 256) n

/-! ## Order within a thread -/

/-- The number of the first byte of an outstanding load among those of all accesses, local, remote and host (Route.key in
Machine/Memory.lean). -/
def OutLoad.key (o : OutLoad) : Nat :=
  if o.tag = 0 then offOf o.pa else if 3 ≤ o.mt then 2 ^ 59 + o.pa else 2 ^ 58 + o.pa

/-- Two classes match (11 R233). -/
def classMatch (a b : Nat) : Bool := a == b || a == 7 || b == 7

/-- An entry of the buffer has not performed for R233: a posted write has once it is sent (11 R240). -/
def Wcb.open_ (e : Wcb) : Bool := e.phase != 2

/-- A posted write to host memory that waits for the zero-length read behind it (03 R53). -/
def Wcb.posted (e : Wcb) : Bool := e.phase == 2

/-- The write-combining entries of a slot. -/
def State.wcbOf (s : State) (k : Nat) : List Wcb := (s.core (k / 16)).wcb.filter (fun e => e.slot == k)

/-- An atomic or push.rel must follow every earlier access: nothing of the slot is outstanding (11 R233, R239, R242);
posted says whether the completion of posted host writes counts too. -/
def State.allPerformed (s : State) (k : Nat) (posted : Bool) : Bool :=
  (s.slot k).outs.all (fun o => o.isPf) && (s.wcbOf k).all (fun e => !posted && !e.open_)

/-- Behind the posted writes of a slot one zero-length read goes out: those sent before it have performed once it completes
(03 R53). -/
def State.flushPosted (s : State) (k : Nat) : State :=
  let ps := (s.wcbOf k).filter Wcb.posted
  let top := ps.foldl (fun n e => max n e.tag) 0
  let asked := s.hostRq.any (fun r => match r.2 with
    | some q => q.kind == 8 && q.a == k / 16 && q.b == k && decide (top ≤ q.addr)
    | none => false)
  match ps.getLast? with
  | none => s
  | some e =>
    if asked then s
    else (s.sendHost 8 (k / 16) k top (fun id => .hostRead id (e.line * 64 - 2 ^ 59) 0)).1

/-- An access that waits for every earlier one of its slot: the buffered stores drain, and those posted are followed up. -/
def State.forceAll (s : State) (k : Nat) : State := (s.force k).flushPosted k

/-- The zero-length read behind posted writes has completed: those up to a number have performed. -/
def State.postedDone (s : State) (c k top : Nat) : State :=
  (s.setCore c { s.core c with
    wcb := (s.core c).wcb.filter (fun e => !(e.posted && e.slot == k && decide (e.tag ≤ top))) }).enterSync k

/-- An MT 2 access may perform: no earlier MT 2 access of the slot is unfinished (11 R236). -/
def State.mt2Clear (s : State) (k seq : Nat) : Bool :=
  (s.slot k).outs.all (fun o => o.mt != 2 || decide (seq ≤ o.seq)) &&
    (s.wcbOf k).all (fun e => e.mt != 2 || e.sts.all (fun t => decide (seq ≤ t.1)))

/-- The bytes [a, a+n) and [b, b+m) overlap. -/
def overlap (a n b m : Nat) : Bool := decide (a < b + m) && decide (b < a + n)

/-- An acquire: later loads of the slot do not hit lines installed before now (06 R119). -/
def State.acquire (s : State) (k : Nat) : State := s.setSlot k { s.slot k with acq := s.clock }

/-- The bytes the slot's own unperformed stores hold of n bytes at an offset (11 R230). -/
def State.forward (s : State) (k off : Nat) : Nat → Tab (Option Byte)
  | 0 => []
  | n + 1 => match s.forwardByte k off with
    | some v => (off % 64, some v) :: State.forward s k (off + 1) n
    | none => State.forward s k (off + 1) n

end Sys2Proof.Machine
end

