-- ==== Sys2Proof/Machine/Flags.lean ====
section
/-! DEFINITION. The fields of the control registers: what of each may be written, by whom, and how a write acts by field
type (00 R5; 19 R406, Tables 19-3 and 19-4; 06 Table 06-9; 07 Tables 07-5 and 07-9; 12 Table 12-8). -/

namespace Sys2Proof.Machine

/-- A register after a write that reaches the bits of a mask only. -/
def maskWrite (old mask v : Word) : Word := (old &&& ~~~mask) ||| (v &&& mask)

/-- The bits from lo upward, n of them. -/
def maskOf (lo n : Nat) : Word := field lo n (2 ^ n - 1)

/-- A counter field of n bits at lo that a write of 1 to any of its bits clears. -/
def w1c (old v : Nat) (mask : Nat) : Nat := if v &&& mask = 0 then old else 0

/-- A write of TSTAT by a thread in a mode (Table 19-4): PIE and IE are written; PMODE is, but for 3, and for 2 from
service mode; a 1 in any bit of AOVF clears it. -/
def tstatWrite (old v : Word) : Word :=
  let mode := bits old 0 2
  let t := maskWrite old (maskOf 4 2) v
  let p := bits v 2 2
  let t := if p = 3 ∨ (p = 2 ∧ mode ≠ 2) then t else setBits t 2 2 p
  if bits v 16 16 = 0 then t else setBits t 16 16 0

/-- A write of ERRINJ (Table 12-8): TGT 2 or 3 is ignored; setting ARM clears FIRED. -/
def errinjWrite (old v : Word) : Word :=
  if bits v 1 2 ≥ 2 then old
  else
    let t := maskWrite old (maskOf 22 42 ||| maskOf 0 3) v
    if bit v 0 then setBits t 3 1 0 else t

/-- What a mode may do with a control register (Table 19-3): 0 nothing, 1 read, 2 read and write. -/
def crAccess (n mode : Nat) : Nat :=
  let m := fun (u s m : Nat) => if mode = 0 then u else if mode = 1 then s else m
  if n = 0x000 then m 1 2 2
  else if n = 0x006 then m 0 1 2
  else if n = 0x007 then m 0 0 2
  else if n ≤ 0x005 then m 0 2 2
  else if n = 0x010 then m 1 2 2
  else if n = 0x020 ∨ n = 0x021 then 1
  else if n = 0x011 ∨ n = 0x022 then m 0 2 2
  else if 0x030 ≤ n ∧ n ≤ 0x033 then 2
  else if n = 0x040 then m 0 2 2
  else if n = 0x080 then m 0 1 1
  else if n = 0x100 ∨ n = 0x101 then m 0 1 2
  else if (0x110 ≤ n ∧ n ≤ 0x112) ∨ n = 0x120 then m 0 2 2
  else if 0x180 ≤ n ∧ n ≤ 0x18F then m 1 2 2
  else 0

/-- The W1C and WO bits of a control register, which crs and crc write as 0 (19 R406). -/
def crKeep (n : Nat) : Word :=
  if n = 0x000 then maskOf 16 16 else if n = 0x120 then maskOf 32 16 else if 0x180 ≤ n ∧ n ≤ 0x18F then maskOf 2 1 else 0

/-- The register is a view of a die's or the package's control space (19 R406). -/
def crIsView (n : Nat) : Bool := decide (0x100 ≤ n)

/-- The code of a slot's state (06 Table 06-1). -/
def SlotState.code : SlotState → Nat
  | .free => 0
  | .ready => 1
  | .blockedQueue => 2
  | .blockedWait => 3
  | .parked => 4
  | .stopped => 5
  | .trapped => 6

/-- The code of a slot in a core cycle: one whose wait has just ended is ready in the cycle after (06 R115). -/
def Slot.code (x : Slot) (now : Nat) : Nat :=
  if x.st = .ready ∧ now < x.nextAt then
    match x.wait with
    | .queue _ | .engine _ => 2
    | .word .. | .command _ | .cut _ => 3
    | _ => 1
  else x.st.code

/-- The state codes of a core's slots from slot t upward (Table 19-4, SLOTST). -/
def State.slotCodes (s : State) (c t : Nat) : Nat → Nat
  | 0 => 0
  | n + 1 => (s.slot (slotKey c t)).code s.cycle + 16 * State.slotCodes s c (t + 1) n

/-- The offset in control space of the block of a die. -/
def dieBase (d : Nat) : Nat := 0x3F1000000000 + d * 0x100000000

/-- The offset in control space of a control register that is a view of it. -/
def crOffset (d n : Nat) : Nat :=
  if n = 0x110 then dieBase d + 0x4000000
  else if n = 0x111 then dieBase d + 0x4000008
  else if n = 0x112 then dieBase d + 0x4000010
  else if n = 0x120 then dieBase d + 0x5000000
  else dieBase d + 0x3000000 + 0x100 * (n - 0x180)

end Sys2Proof.Machine
end

