-- ==== Sys2Proof/Machine/Link.lean ====
section
/-! DEFINITION. Rolrix Link ports (02 R28, R29, R32, R33, R45): flits, failure and retraining, and the packets that a port
receives. -/

namespace Sys2Proof.Machine

abbrev LinkResult := Host.Outcome State Fault Refusal

/-- LNKCTL.EN of a port. -/
def Port.en (x : Port) : Bool := bit x.ctl 0

/-- The flits of a port that its retry window lets stand on the link: 512 of those it keeps (R28). -/
def Port.window (x : Port) : List (Nat × Nat × Packet) := x.unack.take 512

/-- A port sends the flits of its window again (R29). -/
def State.replay (s : State) (p : Nat) : State :=
  let x := s.port p
  let s := s.setPort p { x with replay := satAdd x.replay x.window.length 0xFFFF, resent := x.resent + 1 }
  s.sendFlits p x.window

/-- The packets of a port's unacknowledged flits go back to packet routing, each once: of a packet whose first flits are
acknowledged, the last is not (R29, R33). -/
def State.handBack (s : State) (p : Nat) : State :=
  let x := s.port p
  (x.unack.filter (fun f => f.2.1 + 1 == flitsOf f.2.2)).foldl (fun s f => s.send f.2.2)
    (s.setPort p { x with unack := [], resent := 0 })

/-- A port is failed, in a state of Table 02-6; DOWNS counts one that was not failed before. Its link begins anew, with flit
0 both ways (log 16). -/
def Port.fails (x : Port) (st : Nat) : Port :=
  { x with st := st, tries := 0, downs := if x.failed then x.downs else satAdd x.downs 1 0xFF, failed := true,
           rxNext := 0, txNext := 0, rxBad := false, wire := [] }

/-- A port retrains; one that had not failed keeps its flits (R45). -/
def State.retrain (s : State) (p : Nat) : State :=
  let x := s.port p
  s.setPort p { x with st := 1, tries := 0 }

/-- A port is taken down and marked failed (Table 02-5). -/
def State.portOff (s : State) (p : Nat) : State :=
  let x := s.port p
  (s.setPort p { x.fails 0 with ctl := setBits x.ctl 0 1 0 }).handBack p

/-- A port is enabled: it retrains (Table 02-5). -/
def State.portOn (s : State) (p : Nat) : State :=
  (s.setPort p { s.port p with ctl := setBits (s.port p).ctl 0 1 1 }).retrain p

/-- A write of LNKCTL under a mask (Table 02-5). -/
def State.linkWrite (s : State) (p : Nat) (mask v : Word) : State :=
  let x := s.port p
  let new := maskWrite x.ctl (mask &&& (maskOf 16 32 ||| maskOf 0 1)) v
  let s := s.setPort p { x with ctl := setBits new 0 1 (b2n x.en) }
  if bit new 0 = false then (if x.en then s.portOff p else s)
  else if x.en = false then s.portOn p
  else if bit (v &&& mask) 1 then s.retrain p
  else s

/-- LNKSTAT of a port (Table 02-6). -/
def Port.stat (x : Port) : Word :=
  field 48 16 x.corr ||| field 32 16 x.replay ||| field 24 8 x.drops ||| field 16 8 x.late ||| field 8 8 x.downs |||
    field 0 2 x.st

/-- A write of LNKSTAT: a 1 in any bit of a counter clears it. -/
def Port.statWrite (x : Port) (v : Word) : Port :=
  { x with corr := if bits v 48 16 = 0 then x.corr else 0, replay := if bits v 32 16 = 0 then x.replay else 0,
           drops := if bits v 24 8 = 0 then x.drops else 0, late := if bits v 16 8 = 0 then x.late else 0 }

/-- A packet that a port received is dropped and counted (R32, R38). -/
def State.dropPacket (s : State) (p : Nat) : State :=
  s.setPort p { s.port p with drops := satAdd (s.port p).drops 1 0xFF }

/-- A response that came too late is dropped and counted (R36). -/
def State.lateResponse (s : State) (p : Nat) : State :=
  s.setPort p { s.port p with late := satAdd (s.port p).late 1 0xFF }

/-- A port that is up. -/
def State.portUp (s : State) (p : Nat) : Bool := decide (p < 24) && s.running && (s.port p).st == 2

/-! ## Events -/

/-- A flit that a port cannot take is discarded, as is every one after it; the far side is asked once to send again from the
one expected (R29). -/
def State.badFlit (s : State) (p : Nat) : State :=
  let x := s.port p
  if x.rxBad then s else (s.setPort p { x with rxBad := true }).emit (.linkNak p x.rxNext)

/-- The flit that a port expects comes: it is acknowledged, and with the last part of a packet the packet has come whole. -/
def State.goodFlit (s : State) (p part : Nat) (k : Packet) : State :=
  let x := s.port p
  (s.setPort p { x with rxNext := x.rxNext + 1, rxBad := false,
                        rxq := if part + 1 = flitsOf k then x.rxq ++ [k] else x.rxq }).emit (.linkAck p (x.rxNext + 1))

/-- What a flit says of the flits sent: the far side has every one before ack, and with nak it asks for those from there
again. Room that this makes in the window is used. -/
def State.acked (s : State) (p ack nak : Nat) : State :=
  let x := s.port p
  let left := x.unack.filter (fun f => decide (ack ≤ f.1))
  let more : Nat := x.unack.length - left.length
  let s := if more = 0 then s else
    (s.setPort p { x with unack := left, resent := 0, ackAt := s.cycle }).sendFlits p ((left.take 512).drop (512 - more))
  if nak = 1 ∧ (s.port p).resent < 16 then s.replay p else s

/-- What a flit without errors carries is taken in (R29): the part of a packet that the wire brought under a number, or
nothing. One that was taken before is acknowledged again. -/
def State.takeFlit (s : State) (p seq : Nat) (data : Option (Nat × Packet)) : State :=
  let x := s.port p
  match data with
  | none => s
  | some (part, k) =>
    if seq = x.rxNext then s.goodFlit p part k
    else if seq < x.rxNext then s.emit (.linkAck p x.rxNext)
    else s.badFlit p

/-- The far side puts a part of a packet on the wire to a port. -/
def State.onWire (s : State) (p part : Nat) (k : Packet) : State :=
  if s.portUp p then s.setPort p { s.port p with wire := (s.port p).wire ++ [(part, k)] } else s

/-- A flit arrives (R29), the first on the wire, under a number; ok is 0 where it fails FEC decoding or its CRC, else one more
than the codewords that FEC corrected; ack and nak are what it says of the flits sent. -/
def execFlitReceive (port seq ack ok nak : Nat) (s : State) : LinkResult :=
  if s.portUp port = false then .next s
  else
    let x := s.port port
    if ok = 0 then .next ((s.setPort port { x with wire := x.wire.drop 1 }).badFlit port)
    else
      let s := s.setPort port { x with corr := satAdd x.corr (ok - 1) 0xFFFF, wire := x.wire.drop 1 }
      .next ((s.takeFlit port seq x.wire.head?).acked port ack nak)

/-- A port is declared failed (R29): why is 0 where its oldest flit has been replayed 16 times, 1 where no acknowledgement
has come for 1 ms (two million core cycles), 2 where lane deskew is lost. It retrains, and what it held is routed anew. -/
def execPortFailure (port why : Nat) (s : State) : LinkResult :=
  let x := s.port port
  if s.portUp port = false then .next s
  else if (why = 0 ∧ x.resent < 16) ∨ (why = 1 ∧ (x.unack.isEmpty ∨ s.cycle < x.ackAt + 2000000)) ∨ why > 2 then .next s
  else .next ((s.setPort port (x.fails 1)).handBack port)
/-- The attempt under way is the last of three. -/
def Port.lastTry (x : Port) : Bool := decide (3 ≤ x.tries + 1)

/-- A retraining attempt ends (R29): the port is up and sends again what it kept, or after three attempts it is failed. -/
def execPortTrainingDone (port ok : Nat) (s : State) : LinkResult :=
  let x := s.port port
  if port ≥ 24 ∨ s.running = false ∨ x.st ≠ 1 then .next s
  else if ok = 1 then
    .next ((s.setPort port { x with st := 2, tries := 0, failed := false, rxBad := false, resent := 0, ackAt := s.cycle }).sendFlits
      port x.window)
  else if x.lastTry = false then .next (s.setPort port { x with tries := x.tries + 1 })
  else .next ((s.setPort port { x.fails 3 with tries := 3 }).handBack port)

/-- RETRAIN is written (R45): no effect while EN is 0. -/
def execLnkctlRetrain (port : Nat) (s : State) : LinkResult :=
  if port ≥ 24 ∨ s.running = false ∨ (s.port port).en = false then .next s else .next (s.retrain port)

/-- EN is written 0 (R45). -/
def execPortDisable (port : Nat) (s : State) : LinkResult :=
  if port ≥ 24 ∨ s.running = false ∨ (s.port port).en = false then .next s else .next (s.portOff port)

/-- EN is written 1 while it is 0 (R45). -/
def execPortEnable (port : Nat) (s : State) : LinkResult :=
  if port ≥ 24 ∨ s.running = false ∨ (s.port port).en then .next s else .next (s.portOn port)

/-- A packet's header is in order (R32). -/
def packetOk (k : Packet) : Bool :=
  decide (k.kind < 10) && k.rsv == 0 && k.hcrc == Config.hcrc (headerBits k.dst k.src k.kind k.circ k.seq k.len k.rsv k.addr)

/-- What becomes of a packet that a port has received (R32, R33): it is for this package, is forwarded, or is dropped. -/
def State.takePacket (s : State) (port : Nat) (pkt : Packet) : State :=
  if packetOk pkt = false then s.dropPacket port
  else if pkt.dst = s.pkg.pkgNo then { s with inbox := s.inbox ++ [(port, pkt)] }
  else if s.reachable pkt.dst then s.send pkt
  else s.dropPacket port

/-- A port receives a packet: the first of those whose flits have come whole. -/
def execPacketReceive (port : Nat) (pkt : Packet) (s : State) : LinkResult :=
  match (s.port port).rxq with
  | [] => .next s
  | k :: r =>
    if s.running = false ∨ k ≠ pkt then .next s
    else .next ((s.setPort port { s.port port with rxq := r }).takePacket port pkt)

/-- The first packet that has arrived of a kind that a condition names: its port, itself, and the rest. -/
def takeFrom (f : Nat → Bool) : List (Nat × Packet) → Option (Nat × Packet × List (Nat × Packet))
  | [] => none
  | p :: r => if f p.2.kind then some (p.1, p.2, r) else (takeFrom f r).map (fun q => (q.1, q.2.1, p :: q.2.2))

end Sys2Proof.Machine
end

