-- ==== Sys2Proof/Machine/TaskState.lean ====
section
/-! DEFINITION. What a task queue holds and when it is eligible (04 R67, R69, R75, R80). -/

namespace Sys2Proof.Machine

/-- EN, PRIO, CEIL and ASID of a queue (Table 04-1). -/
def TaskQ.en (q : TaskQ) : Bool := bit q.qcfg 0
def TaskQ.prio (q : TaskQ) : Nat := bits q.qcfg 4 3
def TaskQ.ceil (q : TaskQ) : Nat := bits q.qcfg 8 3
def TaskQ.asid (q : TaskQ) : Word := field 0 16 (bits q.qcfg 16 16)

/-- The tasks that a queue holds and has not started (R67). -/
def TaskQ.depth (q : TaskQ) : Nat := q.stored.length + q.spCount

/-- The physical base of a queue's spill area, and its capacity (Table 04-2). -/
def TaskQ.spBase (q : TaskQ) : Nat := bits q.qspill 12 44 * 4096
def TaskQ.spCap (q : TaskQ) : Nat := if bits q.qspill 0 5 = 0 then 0 else 2 ^ min 20 (bits q.qspill 0 5)

/-- The address of the descriptor at place i of a queue's spill area, its oldest at place 0 (log 15). -/
def TaskQ.spAt (q : TaskQ) (i : Nat) : Nat := q.spBase + 64 * ((q.spHead + i) % max 1 q.spCap)

/-- The line of a queue's head, where that is spilled and the host holds it modified (03 R50). -/
def State.headHeld (s : State) (q : Nat) : Option Nat :=
  let x := s.tq q
  let line := lineOf (offOf (x.spAt 0))
  if x.stored.isEmpty ∧ x.spCount ≠ 0 ∧ s.mustSnoop line false then some line else none

/-- The head of a queue: none while it must come from the host first. -/
def State.headOf (s : State) (q : Nat) : Option (List Word) :=
  let x := s.tq q
  match x.stored with
  | h :: _ => some h
  | [] => if x.spCount = 0 ∨ (s.headHeld q).isSome then none else some (s.homeDs (x.spAt 0) 8)

/-- The queue without its head. -/
def TaskQ.popHead (q : TaskQ) : TaskQ :=
  match q.stored with
  | _ :: r => { q with stored := r }
  | [] => { q with spHead := (q.spHead + 1) % max 1 q.spCap, spCount := q.spCount - 1 }

/-- The descriptors in the task part of a die. -/
def State.taskPart (s : State) (d : Nat) : Nat :=
  (s.tqs.filter (fun e => e.1 / 1024 == d)).foldl (fun n e => n + e.2.stored.length) 0

/-- A task that a queue started has not ended. -/
def State.unended (s : State) (q : Nat) : Bool :=
  s.tasks.any (fun e => match e.2 with | some t => t.q == q | none => false)

/-- A descriptor's barrier flag holds the head of its queue: an earlier task of it has not ended (R75). -/
def State.barred (s : State) (q : Nat) : Bool :=
  match s.headOf q with
  | some ws => bit (ws.headD 0) 2 && s.unended q
  | none => false

/-- A queue is eligible (R80). -/
def State.eligible (s : State) (q : Nat) : Bool :=
  let x := s.tq q
  x.en && !x.stopped && (s.headOf q).isSome && !s.barred q

/-- The time from which a queue's wait counts, in network cycles plus one, after something that may change it (R80). A queue
that is disabled forgets that its head is a pending load (log 85, DESIGN CHOICE: R82 is silent). -/
def State.qElig (s : State) (q : Nat) : State :=
  let x := s.tq q
  if s.eligible q then s.setTq q { x with eligAt := if x.eligAt = 0 then s.net + 1 else x.eligAt }
  else s.setTq q { x with eligAt := 0, pend := x.pend && x.en && !x.stopped && decide (0 < x.depth) }

/-- The effective priority of a queue (R80): AGEINT counts microseconds of 1,600 network cycles. -/
def State.effPrio (s : State) (q : Nat) : Nat :=
  let x := s.tq q
  let n := (s.die (q / 1024)).ageint
  let wait := if x.eligAt = 0 then 0 else s.net + 1 - x.eligAt
  if n = 0 then x.prio else max x.prio (min x.ceil (x.prio + wait / (n * 1600)))

end Sys2Proof.Machine
end

