-- ==== Sys2Proof/Machine/Regs.lean ====
section
/-! DEFINITION. Control space (01 R20, Table 01-4): what its registers read as, and what a write does to those whose
writing starts nothing beyond the register (Machine/Control.lean adds the others). -/

namespace Sys2Proof.Machine

/-! ## Reads -/

/-- DEVSTAT (Table 03-7). -/
def State.devstat (s : State) : Word :=
  field 48 16 s.pkg.svn ||| field 32 10 s.pkg.pkgNo ||| field 24 8 s.pkg.errCode ||| field 8 1 s.pkg.bootSlot |||
    field 0 4 s.pkg.devState

/-- PWRSTAT (Table 01-5). -/
def State.pwrstat (s : State) : Word :=
  field 48 8 s.pkg.tjmax ||| field 32 16 s.pkg.steps ||| field 16 3 s.pkg.pcause ||| field 8 8 0x1C ||| field 0 8 s.pkg.fclk

/-- The slot that ROOTCTL names (Table 03-10). -/
def State.rootSlot (s : State) : Nat := slotKey (bits s.pkg.rootCtl 24 8) (bits s.pkg.rootCtl 20 4)

/-- A doubleword of the package control window (Table 03-3). -/
def State.pkgRead (s : State) (o : Nat) : Word :=
  if o = 0 then s.devstat
  else if o = 0x10 then s.pkg.rootPc
  else if o = 0x18 then s.pkg.rootArg
  else if o = 0x20 then setBits s.pkg.rootCtl 1 1 (b2n ((s.slot s.rootSlot).st != .free))
  else if o = 0x28 then s.pkg.persist
  else if o = 0x30 then field 16 16 s.pkg.hostUr ||| field 0 16 s.pkg.sfInv
  else if o = 0x100 then s.pwrstat
  else if 0x10000 ≤ o ∧ o < 0x11800 then
    let x := s.port ((o - 0x10000) / 0x100)
    if o % 0x100 = 0 then x.ctl else if o % 0x100 = 8 then x.stat else 0
  else if 0x20000 ≤ o ∧ o < 0x22000 then s.route ((o - 0x20000) / 8)
  else 0

/-- A doubleword of the append windows (03 R56, R57). -/
def State.qpageRead (s : State) (o : Nat) : Word :=
  if o % 0x1000 = 0x40 then field 16 16 (s.tq (o / 0x1000)).drops ||| field 0 16 (s.tq (o / 0x1000)).accept else 0

/-- The pending bits of 64 vectors from v upward. -/
def State.pba (s : State) (v : Nat) : Nat → Nat
  | 0 => 0
  | n + 1 => b2n (s.msixP.contains v) + 2 * State.pba s (v + 1) n

/-- A doubleword of the MSI-X table and pending-bit array (03 R58). -/
def State.msixRead (s : State) (o : Nat) : Word :=
  if o < 0x8000 then s.msixD (o / 8)
  else if o < 0x8100 then BitVec.ofNat 64 (s.pba ((o - 0x8000) * 8) 64)
  else 0

/-- QSTAT (Table 04-3). -/
def State.qstatOf (s : State) (q : Nat) : Word :=
  let x := s.tq q
  field 48 16 x.started ||| field 32 16 x.done ||| field 23 1 (b2n (s.barred q)) ||| field 22 1 (b2n x.pend) |||
    field 21 1 (b2n x.stopped) ||| field 0 21 x.depth

/-- A register of a task queue (04 R68). -/
def State.tqRead (s : State) (q o : Nat) : Word :=
  match o with
  | 0x00 => (s.tq q).qcfg
  | 0x08 => (s.tq q).qspill
  | 0x10 => s.qstatOf q
  | 0x18 => (s.tq q).qptb
  | 0x20 => (s.tq q).qerr
  | _ => 0

/-- The usable local-store entries of a vector tile (05 R91). -/
def State.lscap (s : State) (d n t : Nat) : Nat := 64 - ((s.die d).lost.filter (fun e => e.1 == n && e.2.1 == t)).length

/-- FCAP of a facet. -/
def State.fcap (s : State) (d n : Nat) : Nat → Nat
  | 0 => 0
  | t + 1 => s.lscap d n t * 2 ^ (8 * t) + State.fcap s d n t

/-- FOWN.STATE of a load's facets (Table 05-1). -/
def Load.ownState (x : Load) : Nat :=
  match x.st with
  | .draining => 2
  | .killing => 2
  | .configured => 3
  | .placed => 3
  | _ => 1

/-- A register of a facet (05 R90, Table 05-1). -/
def State.facetRead (s : State) (d n o : Nat) : Word :=
  match o with
  | 0x00 => ~~~(Tab.get 0 (s.die d).sick n)
  | 0x08 => BitVec.ofNat 64 (s.fcap d n 8)
  | 0x10 => match s.facetLoad d n with
    | some (l, x, c, _) => field 48 16 l ||| field 46 2 c ||| field 16 16 (bits x.asid 0 16) ||| field 0 2 x.ownState
    | none => 0
  | _ => field 0 16 (Tab.get 0 (s.die d).fbez n)

/-- SAVEPOOL, ALLOCCTL and their neighbours (Tables 05-4, 05-6, 13-1). -/
def State.allocRead (s : State) (d o : Nat) : Word :=
  let x := s.die d
  if o = 0 then field 18 1 (b2n x.hbmsep) ||| field 17 1 (b2n x.sepcore) ||| field 16 1 (b2n x.compen) ||| field 0 16 x.plto
  else if 0x100 ≤ o ∧ o < 0x180 then field 0 32 (Tab.get 0xFFFFFFFF x.tenway ((o - 0x100) / 8))
  else if o = 0x200 then x.tenhbm
  else if o = 0x308 then x.loadstat
  else if o = 0x310 then x.savepool
  else 0

/-- A doubleword of a monitor block (06 Table 06-10). -/
def Monitor.read (m : Monitor) (o : Nat) : Word :=
  match o with
  | 0x00 => m.sel
  | 0x08 => BitVec.ofNat 64 m.cnt
  | 0x10 => BitVec.ofNat 64 m.sum
  | 0x18 => BitVec.ofNat 64 m.min_
  | 0x20 => BitVec.ofNat 64 m.max_
  | _ => if 0x40 ≤ o ∧ o < 0x80 then
      field 0 32 (Tab.get 0 m.hist ((o - 0x40) / 4)) ||| field 32 32 (Tab.get 0 m.hist ((o - 0x40) / 4 + 1))
    else 0

/-- The party of a number on a die is parked. -/
def State.parkedParty (s : State) (d seq : Nat) : Bool :=
  s.slots.any (fun e => e.2.parkDie == d && e.2.parkSeq == seq && (e.2.st == .parked || (e.2.st == .stopped && e.2.wasParked))) ||
    s.cores.any (fun e =>
      e.2.streams.any (fun y => match y.2 with | some z => z.st == 2 && z.parkDie == d && z.parkSeq == seq | none => false) ||
      e.2.copies.any (fun y => match y.2 with | some z => z.st == 2 && z.parkDie == d && z.parkSeq == seq | none => false)) ||
    s.loads.any (fun e => match e.2 with
      | some x => (x.st == .saved || x.st == .restoring) && x.snaps.any (fun y => y.wave == x.top &&
        (y.slots.any (fun z => z.2.wasParked && z.2.parkDie == d && z.2.parkSeq == seq) ||
          y.streams.any (fun z => z.2.st == 2 && z.2.parkDie == d && z.2.parkSeq == seq) ||
          y.copies.any (fun z => z.2.st == 2 && z.2.parkDie == d && z.2.parkSeq == seq)))
      | none => false)

/-- The entries that wait for space: those beyond the ring's room. -/
def State.waitsSpace (s : State) (d : Nat) : List (Nat × List Word) :=
  let x := s.die d
  if s.fqOn d then x.fqWait.drop (64 * 2 ^ bits x.fqbase 4 4 - (x.fqtail + 2 ^ 32 - x.fqhead) % 2 ^ 32) else x.fqWait

/-- A fault-queue register (07 Table 07-9). PEND counts the parked parties whose entry waits for space. -/
def State.fqRead (s : State) (d o : Nat) : Word :=
  let x := s.die d
  match o with
  | 0x00 => setBits x.fqbase 0 1 (b2n (s.fqOn d))
  | 0x08 => field 0 32 x.fqhead
  | 0x10 => field 0 32 x.fqtail
  | 0x18 => field 32 16 ((s.waitsSpace d).filter (fun e => decide (etypeOf e.2 < 3) && s.parkedParty d e.1)).length ||| field 16 16 x.fqlost ||| field 0 16 x.fqstale
  | _ => 0

/-- A register or record of the machine-check log (12 R252, Table 12-2). -/
def State.mchkRead (s : State) (d o : Nat) : Word :=
  let x := s.die d
  if o = 0 then field 48 16 x.total ||| field 32 16 x.mlost ||| field 16 16 x.mread ||| field 0 16 x.mnext
  else if 0x1000 ≤ o ∧ o < 0x1800 then
    ((Tab.get none x.mrec ((o - 0x1000) / 32)).getD []).getD ((o - 0x1000) / 8 % 4) 0
  else 0

/-- A 48-bit counter as it reads. -/
def cnt48 (v : Nat) : Word := BitVec.ofNat 64 (min v (2 ^ 48 - 1))

/-- A doubleword of a tile's counters (Tables 09-4, 10-7, 18-11). -/
def Tile.counter (t : Tile) (kind w : Nat) : Word :=
  if kind = 1 then
    let m := t.mat
    let g := w / 4
    if w < 32 then match w % 4 with
      | 0 => cnt48 (Tab.get 0 m.terms g)
      | 1 => cnt48 (Tab.get 0 m.arows g)
      | 2 => cnt48 (Tab.get 0 m.gcyc g)
      | _ => cnt48 (256 * Tab.get 0 m.gcyc g - Tab.get 0 m.terms g)
    else if w = 32 then
      field 24 40 (min m.stall (2 ^ 40 - 1)) ||| field 12 12 (min m.sat 0xFFF) ||| field 0 12 (min m.nfin 0xFFF)
    else 0
  else if kind = 2 then match w with
    | 0 => cnt48 t.mem.inw
    | 1 => cnt48 t.mem.emitw
    | 2 => cnt48 t.mem.bankw
    | 3 => cnt48 t.mem.disc
    | _ => 0
  else match w with
    | 0 => cnt48 t.frozen
    | 1 => cnt48 t.pred
    | 2 => cnt48 t.check
    | 3 => cnt48 t.replay
    | 4 => cnt48 t.skip
    | _ => 0

/-- FCSTAT.STATE of a load's facets (Table 18-12). -/
def Load.fcState (x : Load) : Nat :=
  match x.st with
  | .finished => 2
  | .killing => 3
  | .killed => 3
  | _ => 1

/-- A doubleword of the cut counters of a facet (18 R392, Table 18-11). -/
def State.cutRead (s : State) (d n o : Nat) : Word :=
  match s.facetLoad d n with
  | none => 0
  | some (l, x, c, _) =>
    if o = 0x7FF8 then field 48 16 l ||| field 46 2 c ||| field 0 2 x.fcState
    else (s.tile (tileKey d n (o / 0x200))).counter (tileKind (o / 0x200)) (o % 0x200 / 8)

/-- A doubleword of the block of die d (Table 01-4). -/
def State.dieRead (s : State) (d o : Nat) : Word :=
  if o < 0x1000000 then 0
  else if o < 0x1010000 then s.tqRead (d * 1024 + (o - 0x1000000) / 0x40) (o % 0x40)
  else if o = 0x1020000 then field 0 16 (s.die d).ageint
  else if o < 0x2000000 then 0
  else if o < 0x2000000 + 0x20 * 192 then s.facetRead d ((o - 0x2000000) / 0x20) (o % 0x20)
  else if 0x2010000 ≤ o ∧ o < 0x2011000 then s.allocRead d (o - 0x2010000)
  else if 0x3000000 ≤ o ∧ o < 0x3001000 then (Tab.get Monitor.reset (s.die d).mons ((o - 0x3000000) / 0x100)).read (o % 0x100)
  else if 0x4000000 ≤ o ∧ o < 0x4000028 then s.fqRead d (o - 0x4000000)
  else if 0x5000000 ≤ o ∧ o < 0x5002000 then s.mchkRead d (o - 0x5000000)
  else if 0x6000000 ≤ o ∧ o < 0x6000000 + 0x8000 * 192 then s.cutRead d ((o - 0x6000000) / 0x8000) (o % 0x8000)
  else 0

/-- The doubleword of control space at an offset that is a multiple of 8; a reserved one reads 0 (01 R20). -/
def State.regRead (s : State) (off : Nat) : Word :=
  if off < 0x3F0000000000 then 0
  else if off < 0x3F0001000000 then s.pkgRead (off - 0x3F0000000000)
  else if off < 0x3F0100000000 then 0
  else if off < 0x3F0101000000 then s.qpageRead (off - 0x3F0100000000)
  else if 0x3F0200000000 ≤ off ∧ off < 0x3F0200010000 then s.msixRead (off - 0x3F0200000000)
  else if 0x3F1000000000 ≤ off ∧ off < 0x3F1400000000 then
    s.dieRead ((off - 0x3F1000000000) / 0x100000000) ((off - 0x3F1000000000) % 0x100000000)
  else 0

/-- What an aligned word or doubleword of control space reads as. -/
def State.ctlRead (s : State) (off size : Nat) : Nat :=
  (s.regRead (off - off % 8)).toNat / 2 ^ (8 * (off % 8)) % 2 ^ (8 * size)

/-! ## Writes

A write reaches the bits of mask; v holds nothing outside it. A field that it reaches in part is written in part. -/

/-- A counter of n bits at lo after a write: a 1 in any of its bits clears it. -/
def clearIf (old lo n : Nat) (v : Word) : Nat := if bits v lo n = 0 then old else 0

/-- A doubleword of the MSI-X table is written (03 R58; log 13): an unmasked vector whose pending bit is set sends its
message. -/
def State.msixSet (s : State) (i : Nat) (v : Word) : State :=
  let s := { s with msix := Tab.set (msixDefault i) s.msix i v }
  if i % 2 = 1 ∧ bit v 32 = false ∧ s.msixP.contains (i / 2) then
    { s with msixP := s.msixP.filter (fun n => n != i / 2) }.sendMsix (i / 2)
  else s

/-- The root thread (03 R62): machine mode, ROOTPC, g1 = ROOTARG, every other register at its reset value.
The slot's last acquire still bounds what it may hit (06 R119). -/
def State.rootThread (s : State) : Slot :=
  { Slot.reset with st := .ready, tstat := field 0 2 2, pc := s.pkg.rootPc, regs := Tab.set 0 [] 1 s.pkg.rootArg,
                    acq := (s.slot s.rootSlot).acq, iacq := (s.slot s.rootSlot).iacq }

/-- GO is written (03 R62): the root thread starts, or ERR is set. -/
def State.rootGo (s : State) : State :=
  let k := s.rootSlot
  if s.pkg.devState ≠ 6 ∨ (s.core (k / 16)).retired ∨ (s.slot k).st ≠ .free then
    { s with pkg := { s.pkg with rootCtl := setBits s.pkg.rootCtl 2 1 1 } }
  else s.setSlot k s.rootThread

/-- A write of ROOTCTL (Table 03-10). -/
def State.rootWrite (s : State) (mask v : Word) : State :=
  let r := maskWrite s.pkg.rootCtl (mask &&& maskOf 20 12) v
  let r := if bit v 2 then setBits r 2 1 0 else r
  let s := { s with pkg := { s.pkg with rootCtl := r } }
  if bit v 0 then s.rootGo else s

/-- A write to the package control window (Table 03-3); ROOTCTL by a thread only in machine mode (03 R61). -/
def State.pkgWrite (s : State) (who o : Nat) (mask v : Word) : State :=
  let p := s.pkg
  if o = 0x10 then { s with pkg := { p with rootPc := maskWrite p.rootPc (mask &&& maskOf 2 54) v } }
  else if o = 0x18 then { s with pkg := { p with rootArg := maskWrite p.rootArg mask v } }
  else if o = 0x20 then (if who ≥ 2 then s.rootWrite mask v else s)
  else if o = 0x28 then
    { s with pkg := { p with persist := maskWrite p.persist (mask &&& (maskOf 6 50 ||| maskOf 0 1)) v } }
  else if o = 0x30 then { s with pkg := { p with hostUr := clearIf p.hostUr 16 16 v } }
  else if 0x10000 ≤ o ∧ o < 0x11800 then
    let n := (o - 0x10000) / 0x100
    if o % 0x100 = 0 then s.linkWrite n mask v
    else if o % 0x100 = 8 then s.setPort n ((s.port n).statWrite v)
    else s
  else if 0x20000 ≤ o ∧ o < 0x22000 then
    let n := (o - 0x20000) / 8
    let w := maskWrite (s.route n) (mask &&& (maskOf 15 2 ||| maskOf 8 5 ||| maskOf 0 5)) v
    { s with droute := Tab.set 0 s.droute n w }
  else s

/-- A write to a queue's page (03 R56, R57): one to the append slot is a dropped append. -/
def State.qpageWrite (s : State) (o : Nat) (v : Word) : State :=
  let q := o / 0x1000
  let x := s.tq q
  if o % 0x1000 < 0x40 then s.setTq q { x with drops := satAdd x.drops 1 0xFFFF }
  else if o % 0x1000 = 0x40 then s.setTq q { x with drops := clearIf x.drops 16 16 v }
  else s

/-- A write to the MSI-X table; the pending-bit array is read only (log 13). -/
def State.msixWrite (s : State) (o : Nat) (mask v : Word) : State :=
  if o < 0x8000 then
    let i := o / 8
    let rw := if i % 2 = 0 then maskOf 2 62 else maskOf 0 33
    s.msixSet i (maskWrite (s.msixD i) (mask &&& rw) v)
  else s

/-- The captured values of a monitor at their reset values (06 R134). -/
def Monitor.cleared (m : Monitor) : Monitor := { Monitor.reset with sel := m.sel }

/-- A write of MONSEL in a core cycle (06 R134): CLR, or another EVENT or TARGET, clears what was captured (log 20); after
CLR a sample of the same cycle is discarded. -/
def Monitor.selWrite (m : Monitor) (now : Nat) (mask v : Word) : Monitor :=
  let new := maskWrite m.sel (mask &&& (maskOf 28 20 ||| maskOf 16 8 ||| maskOf 0 2)) v
  let m' := { m with sel := new }
  if bit (v &&& mask) 2 then { m'.cleared with clrAt := now + 1 }
  else if bits new 16 8 != bits m.sel 16 8 || bits new 32 16 != bits m.sel 32 16 then m'.cleared else m'

def State.monWrite (s : State) (d n : Nat) (mask v : Word) : State :=
  let x := s.die d
  s.setDie d { x with mons := Tab.set Monitor.reset x.mons n ((Tab.get Monitor.reset x.mons n).selWrite s.cycle mask v) }

/-- A write of FQBASE (07 R154). -/
def State.fqbaseSet (s : State) (d : Nat) (mask v : Word) : State :=
  let x := s.die d
  let new := maskWrite x.fqbase (mask &&& (maskOf 12 44 ||| maskOf 4 4 ||| maskOf 0 2)) v
  let new := if bit new 0 then maskWrite new (maskOf 12 44 ||| maskOf 4 4) x.fqbase else new
  if bit new 0 ∧ bit x.fqbase 0 = false then s.setDie d { x with fqbase := new, fqhead := 0, fqtail := 0 }
  else s.setDie d { x with fqbase := new }

/-- The entries that a die's ring holds (Table 07-9). -/
def Die.ringSize (x : Die) : Nat := 64 * 2 ^ bits x.fqbase 4 4

/-- A write of HEAD (07 R154). -/
def State.fqheadSet (s : State) (d : Nat) (mask v : Word) : State :=
  let x := s.die d
  let h := bits (maskWrite (field 0 32 x.fqhead) (mask &&& maskOf 0 32) v) 0 32
  if (x.fqtail + 2 ^ 32 - h) % 2 ^ 32 > x.ringSize then s else s.setDie d { x with fqhead := h }

/-- A write to a fault-queue register (07 Table 07-9). -/
def State.fqWrite (s : State) (d o : Nat) (mask v : Word) : State :=
  let x := s.die d
  match o with
  | 0x00 => s.fqbaseSet d mask v
  | 0x08 => s.fqheadSet d mask v
  | 0x18 => s.setDie d { x with fqlost := clearIf x.fqlost 16 16 v, fqstale := clearIf x.fqstale 0 16 v }
  | _ => s

/-- A write of MCHK (12 Table 12-2). -/
def State.mchkWrite (s : State) (d : Nat) (mask v : Word) : State :=
  let x := s.die d
  s.setDie d { x with mlost := clearIf x.mlost 32 16 v,
                      mread := bits (maskWrite (field 16 16 x.mread) (mask &&& maskOf 16 16) v) 16 16 }

/-- A write to the allocator's registers (Tables 05-4, 05-6). -/
def State.allocWrite (s : State) (d o : Nat) (mask v : Word) : State :=
  let x := s.die d
  if o = 0 then
    let w := maskWrite (field 17 1 (b2n x.sepcore) ||| field 16 1 (b2n x.compen) ||| field 0 16 x.plto) (mask &&& maskOf 0 18) v
    s.setDie d { x with sepcore := bit w 17, compen := bit w 16, plto := bits w 0 16 }
  else if 0x100 ≤ o ∧ o < 0x180 then
    let t := (o - 0x100) / 8
    let w := maskWrite (field 0 32 (Tab.get 0xFFFFFFFF x.tenway t)) (mask &&& maskOf 0 32) v
    s.setDie d { x with tenway := Tab.set 0xFFFFFFFF x.tenway t (bits w 0 32) }
  else if o = 0x200 then s.setDie d { x with tenhbm := maskWrite x.tenhbm (mask &&& maskOf 0 48) v }
  else s

/-- A write to a task queue's registers (04 R68, R69); QCFG is in Machine/Control.lean. -/
def State.tqWrite (s : State) (q o : Nat) (mask v : Word) : State :=
  let x := s.tq q
  match o with
  | 0x08 => if x.en then s else s.setTq q { x with qspill := maskWrite x.qspill (mask &&& (maskOf 12 44 ||| maskOf 0 5)) v }
  | 0x18 => s.setTq q { x with qptb := maskWrite x.qptb (mask &&& maskOf 14 42) v }
  | _ => s

/-- A write to the block of die d; user mode may write none of it. -/
def State.dieWrite (s : State) (who d o : Nat) (mask v : Word) : State :=
  let x := s.die d
  if who = 0 then s
  else if 0x1000000 ≤ o ∧ o < 0x1010000 then s.tqWrite (d * 1024 + (o - 0x1000000) / 0x40) (o % 0x40) mask v
  else if o = 0x1020000 then
    s.setDie d { x with ageint := bits (maskWrite (field 0 16 x.ageint) (mask &&& maskOf 0 16) v) 0 16 }
  else if 0x2000000 ≤ o ∧ o < 0x2000000 + 0x20 * 192 then
    let n := (o - 0x2000000) / 0x20
    if o % 0x20 = 0x18 ∧ who ≠ 3 then
      s.setDie d { x with fbez := Tab.set 0 x.fbez n (clearIf (Tab.get 0 x.fbez n) 0 16 v) }
    else s
  else if 0x2010000 ≤ o ∧ o < 0x2011000 then s.allocWrite d (o - 0x2010000) mask v
  else if 0x3000000 ≤ o ∧ o < 0x3001000 then
    (if o % 0x100 = 0 ∧ who ≠ 3 then s.monWrite d ((o - 0x3000000) / 0x100) mask v else s)
  else if 0x4000000 ≤ o ∧ o < 0x4000028 then s.fqWrite d (o - 0x4000000) mask v
  else if o = 0x5000000 then s.mchkWrite d mask v
  else s

/-- A doubleword of control space is written under a mask; who is the writer's mode, 3 for the host. -/
def State.regWrite (s : State) (who off : Nat) (mask v : Word) : State :=
  if off < 0x3F0000000000 then s
  else if off < 0x3F0001000000 then s.pkgWrite who (off - 0x3F0000000000) mask v
  else if off < 0x3F0100000000 then s
  else if off < 0x3F0101000000 then s.qpageWrite (off - 0x3F0100000000) v
  else if 0x3F0200000000 ≤ off ∧ off < 0x3F0200010000 then s.msixWrite (off - 0x3F0200000000) mask v
  else if 0x3F1000000000 ≤ off ∧ off < 0x3F1400000000 then
    s.dieWrite who ((off - 0x3F1000000000) / 0x100000000) ((off - 0x3F1000000000) % 0x100000000) mask v
  else s

/-- The mask of an aligned word or doubleword in its doubleword, and a value in its place. -/
def wordMask (off size : Nat) : Word := field (8 * (off % 8)) (8 * size) (2 ^ (8 * size) - 1)
def wordOf (off size v : Nat) : Word := field (8 * (off % 8)) (8 * size) v

/-- A write of an aligned word or doubleword of control space that starts nothing beyond its register. -/
def State.plainWrite (s : State) (who off size v : Nat) : State :=
  s.regWrite who (off - off % 8) (wordMask off size) (wordOf off size v)

end Sys2Proof.Machine
end

