-- ==== Sys2Proof/Machine/Memory.lean ====
section
/-! DEFINITION. Loads, stores, prefetch, atomics, fences, cache invalidation and waitw (17 R350 to R368), and the events
that finish them (06 R118 to R122; 11 R228 to R240). -/

namespace Sys2Proof.Machine

/-- What every meaning answers. -/
abbrev MemResult := Host.Outcome State Fault Refusal

/-! ## Where an access goes -/

/-- Where an access goes: local DRAM, control space, another package, or the host. -/
inductive Route where
  | dram (off : Nat)
  | ctl (off : Nat)
  | remote (pa : Nat)
  | host (addr : Nat)
  deriving DecidableEq, Repr

/-- The route of a physical address through a memory type, none for a hole (01 R17 to R21; 03 R52). -/
def State.routeOf (s : State) (pa mt : Nat) : Option Route :=
  if mt = 3 ∨ mt = 4 then some (.host pa)
  else match s.place pa with
    | .dram _ off => some (.dram off)
    | .control off => some (.ctl off)
    | .remote _ => some (.remote pa)
    | .hole => none

/-- A number for each byte an access can name, the same for two accesses to one byte. -/
def Route.key : Route → Nat
  | .dram off => off
  | .ctl off => off
  | .remote pa => 2 ^ 58 + pa
  | .host a => 2 ^ 59 + a

/-- The memory type an access behaves as: control space is MT 2 (01 R20). -/
def Route.mt (r : Route) (mt : Nat) : Nat := match r with | .ctl _ => 2 | _ => mt

/-- The executing slot's access is of the feed group of a protected load and not exempt (12 R265). -/
def State.feedAccess (s : State) (k : Nat) (va : Word) : Bool :=
  s.isProtFeed k && !((s.slot k).mode != 0 && s.inSvc va.toNat 1)

/-- The conditions of order 3 in Table 17-1 that need no access kind: a hole, an unreachable package, a refused stack. -/
def State.refused (s : State) (k : Nat) (va : Word) (pa mt : Nat) : Bool :=
  match s.routeOf pa mt with
  | none => true
  | some (.remote a) => !s.reachable (a / 2 ^ 46 % 1024)
  | some (.dram _) => !s.untranslated k va && s.stackRefused (s.slot k).asidN pa
  | some _ => false

/-- A store or atomic that the feed group of a protected load may not make (12 R265). -/
def State.feedRefused (s : State) (k : Nat) (va : Word) (mt : Nat) : Bool := s.feedAccess k va && mt != 5

/-! ## The L1 data cache (06 R118, R119) -/

/-- A load is of the cached kind (11 R229). -/
def cachedKind (r : Route) (path mt : Nat) : Bool :=
  match r with | .dram _ => path == 0 && mt == 0 | _ => false

/-- The L1 line a cached-kind load of a slot hits. -/
def State.l1Hit (s : State) (k off : Nat) : Option Line :=
  match Tab.get none (s.core (k / 16)).l1d (lineOf off) with
  | some l => if l.at_ > (s.slot k).acq then some l else none
  | none => none

/-- The oldest of the lines of a set, but for one. -/
def oldestLine (but : Nat) : List (Nat × Option Line) → Option (Nat × Nat)
  | [] => none
  | (l, e) :: r =>
    match e, oldestLine but r with
    | some x, none => if l = but then none else some (l, x.at_)
    | some x, some y => if l = but ∨ y.2 ≤ x.at_ then some y else some (l, x.at_)
    | none, q => q

/-- An L1 data cache after a line is installed: 128 sets of 8 ways. -/
def l1Put (t : Tab (Option Line)) (line : Nat) (l : Line) : Tab (Option Line) :=
  let t := Tab.set none t line (some l)
  let set := t.filter (fun e => e.1 % 128 == line % 128)
  if set.length > 8 then
    match oldestLine line set with
    | some v => Tab.set none t v.1 none
    | none => t
  else t

/-- A line read at its home is installed in a core's L1 data cache. -/
def State.install (s : State) (c line : Nat) : State :=
  s.setCore c { s.core c with l1d := l1Put (s.core c).l1d line { at_ := s.clock, data := s.homeLine line } }

/-- n bytes at an offset of a line, as a number. -/
def lineRead (d : BitVec 512) (o n : Nat) : Nat := d.toNat / 2 ^ (8 * o) % 2 ^ (8 * n)

/-- n bytes of v with those that a table lists by offset in the line replaced. -/
def overlay (t : Tab (Option Byte)) (o v : Nat) : Nat → Nat
  | 0 => 0
  | n + 1 =>
    let b := match Tab.get none t (o % 64) with | some x => x.toNat | none => v % 256
    b + 256 * overlay t (o + 1) (v / 256) n

/-! ## Loads -/

/-- The loads and prefetches outstanding on a core (06 Table 06-7). -/
def State.outsOfCore (s : State) (c : Nat) : Nat :=
  (s.slots.filter (fun e => e.1 / 16 == c)).foldl (fun n e => n + e.2.outs.length) 0

/-- An outstanding load is entered and the thread goes on. -/
def State.issueLoad (s : State) (o : OutLoad) : State :=
  (s.setMe { s.me with outs := s.me.outs ++ [o], seq := s.me.seq + 1 }).advance

/-- The load of a translated address (17 R352, R354 to R356). -/
def State.loadAt (s : State) (dst cls path size : Nat) (signed : Bool) (ea : Word) (pa mt : Nat) : State :=
  let k := s.cur
  if s.refused k ea pa mt then s.raise 0x07 ea
  else match s.routeOf pa mt with
  | none => s.raise 0x07 ea
  | some r =>
    let m := r.mt mt
    let o : OutLoad := { seq := s.me.seq, dst := dst, size := size, signed := signed, cls := cls, path := path, mt := m,
                         va := ea, pa := pa, epc := s.pc, issued := s.cycle, isPf := false, tag := 0,
                         fwd := if m = 2 then [] else s.forward k r.key size }
    match r with
    | .ctl _ => if size ≠ 4 ∧ size ≠ 8 then s.raise 0x03 ea else s.issueLoad o
    | .dram off =>
      if s.poisoned pa && !(cachedKind r path mt && (s.l1Hit k off).isSome) then s.raise 0x08 ea else s.issueLoad o
    | .remote a =>
      if m = 2 ∧ s.mt2Clear k s.me.seq = false then s
      else
        let q := s.sendRemote 0 k s.me.seq 0 a [size]
        q.1.issueLoad { o with tag := q.2 + 1 }
    | .host a =>
      let q := s.sendHost 0 k s.me.seq a (fun id => .hostRead id (a - a % 64) 64)
      q.1.issueLoad { o with tag := q.2 + 1 }

/-- A load (17 R354). -/
def State.loadOp (s : State) (dst base cls path off size : Nat) (signed : Bool) : State :=
  let ea := effAddr (s.rg base) off size
  s.run (if size = 16 then [base, dst, dst + 1] else [base, dst]) [(5, 0), (4, 1), (6, 1)]
    (if s.outsOfCore s.myCore ≥ 64 then s
     else if aligned ea size = false then s.raise 0x03 ea
     else s.withXlate ea 0 (s.loadAt dst cls path size signed ea))

def execLdB (t b c p o : Nat) (s : State) : MemResult := .next (s.loadOp t b c p o 1 true)
def execLdBu (t b c p o : Nat) (s : State) : MemResult := .next (s.loadOp t b c p o 1 false)
def execLdH (t b c p o : Nat) (s : State) : MemResult := .next (s.loadOp t b c p o 2 true)
def execLdHu (t b c p o : Nat) (s : State) : MemResult := .next (s.loadOp t b c p o 2 false)
def execLdW (t b c p o : Nat) (s : State) : MemResult := .next (s.loadOp t b c p o 4 true)
def execLdWu (t b c p o : Nat) (s : State) : MemResult := .next (s.loadOp t b c p o 4 false)
def execLdD (t b c p o : Nat) (s : State) : MemResult := .next (s.loadOp t b c p o 8 false)
/-- ld.x (17 R354): the field t is half the register's number, which is even. -/
def execLdX (t b c p o : Nat) (s : State) : MemResult := .next (s.loadOp (2 * t) b c p o 16 false)

/-- The registers of a slot after a load's value arrives. -/
def Slot.loaded (x : Slot) (o : OutLoad) (v : Nat) : Slot :=
  if o.size = 16 then (x.setReg o.dst (BitVec.ofNat 64 v)).setReg (o.dst + 1) (BitVec.ofNat 64 (v / 2 ^ 64))
  else x.setReg o.dst (loadValue v o.size o.signed)

/-- An outstanding load of a slot receives its raw bytes: its thread's own stores of R230 replace theirs, the register is
written, and the entry leaves. -/
def State.finishLoad (s : State) (k : Nat) (o : OutLoad) (raw : Nat) : State :=
  let x := s.slot k
  let v := overlay o.fwd o.pa raw o.size
  let s := s.setSlot k ({ x with outs := x.outs.erase o }.loaded o v)
  let s := s.sample (dieOfSlot k) 1 (k / 16 % 64) (s.cycle - o.issued)
  s.enterSync k

/-- An earlier load of the slot overlaps this one and has not returned (11 R231, R232). -/
def State.earlierLoad (s : State) (k : Nat) (o : OutLoad) : Bool :=
  (s.slot k).outs.any (fun p => !p.isPf && decide (p.seq < o.seq) && overlap p.key p.size o.key o.size)

/-- A store of the slot that overlaps n bytes at a key is unperformed and earlier than seq. -/
def State.earlierStore (s : State) (k seq key n : Nat) : Bool :=
  (s.wcbOf k).any (fun e => e.line == lineOf key && e.sts.any (fun t => decide (t.1 < seq)) &&
    e.bytes.any (fun b => decide (key % 64 ≤ b.1) && decide (b.1 < key % 64 + n)))

/-- The prefetched line arrives (17 R358). -/
def State.finishPf (s : State) (k : Nat) (o : OutLoad) : State :=
  let s := s.setSlot k { s.slot k with outs := (s.slot k).outs.erase o }
  let s := if o.path = 0 ∧ o.mt = 0 ∧ s.poisoned o.pa = false then s.install (k / 16) (lineOf (offOf o.pa)) else s
  s.enterSync k

/-- The data of an outstanding load return (06 R117, R118; 11 R230, R236; 17 R355, R356). -/
def execLoadDataReturn (core slot idx : Nat) (s : State) : MemResult :=
  let k := slotKey core slot
  match (s.slot k).outs[idx]? with
  | none => .next s
  | some o =>
    if o.tag ≠ 0 then .next s
    else if o.isPf then
      if s.mustSnoop (lineOf (offOf o.pa)) o.signed then .next (s.askHost (lineOf (offOf o.pa)))
      else .next (s.finishPf k o)
    else if s.earlierLoad k o then .next s
    else if o.mt = 2 ∧ (s.mt2Clear k o.seq = false ∨ s.earlierStore k o.seq (offOf o.pa) o.size) then .next s
    else match s.place o.pa with
    | .control off => .next (s.finishLoad k o (s.ctlRead off o.size))
    | _ =>
      let off := offOf o.pa
      let r := Route.dram off
      match (if cachedKind r o.path o.mt then s.l1Hit k off else none) with
      | some l =>
        if s.cycle < o.issued + 4 then .next s else .next (s.finishLoad k o (lineRead l.data (off % 64) o.size))
      | none =>
        if s.poisoned o.pa then .next ((s.setSlot k { s.slot k with outs := (s.slot k).outs.erase o }).raiseAt k 0x08 o.va o.epc)
        else if s.mustSnoop (lineOf off) false then .next (s.askHost (lineOf off))
        else
          let c := core
          let s := if cachedKind r o.path o.mt then
              (s.install c (lineOf off)).sample (dieOfCore c) 8 (c % 64) 1
            else if o.path = 2 ∧ (Tab.get none (s.core c).l1d (lineOf off)).isSome then s.install c (lineOf off)
            else s
          .next (s.finishLoad k o (s.home o.pa o.size))

/-- pf (17 R358): it is dropped where any condition of Table 17-1 holds. Its bits [25:22] are 0; bit 21 is w. -/
def execPf (w b c p o : Nat) (s : State) : MemResult :=
  let ea := effAddr (s.rg b) o 64
  let la := ea - BitVec.ofNat 64 (ea.toNat % 64)
  .next (s.run [b] [(5, 0), (4, 1)]
    (if s.outsOfCore s.myCore ≥ 64 then s
     else
       let x := s.me
       let q := match s.xlate s.cur la 0 with
         | .miss => s.walkAs (dieOfSlot s.cur) (prefetchParty s.cur) x.asidN x.ptbase la 0 x.mode
         | r => (s, r)
       match q.2 with
       | .ok pa mt =>
         match q.1.routeOf pa mt with
         | some (.dram _) =>
           if mt = 2 ∨ q.1.refused s.cur la pa mt ∨ q.1.poisoned pa then q.1.advance
           else q.1.issueLoad { seq := x.seq, dst := 0, size := 64, signed := w == 1, cls := c, path := p, mt := mt,
                                va := la, pa := pa, epc := s.pc, issued := s.cycle, isPf := true, tag := 0, fwd := [] }
         | _ => q.1.advance
       | .miss => q.1
       | _ => q.1.advance))

/-! ## Stores and the write-combining buffer (06 R121, R122) -/

/-- The entry a store may merge into: the youngest of its thread for the line, no entry of the thread allocated later
holding a store of its class or of class 7 (and, for a store of class 7, no entry at all: log 14). -/
def mergeInto (k line cls load wave : Nat) (l : List Wcb) : Option Nat :=
  match l with
  | [] => none
  | e :: r =>
    match mergeInto k line cls load wave r with
    | some n => some (n + 1)
    | none =>
      if e.slot = k ∧ e.line = line ∧ e.merge ∧ e.phase = 0 ∧ e.load = load ∧ e.wave = wave ∧
          (r.all (fun f => f.slot != k || (f.line != line && cls != 7 && f.sts.all (fun t => !classMatch t.2 cls)))) then
        some 0
      else none

/-- What becomes of a slot's flush-line read when the thread makes an MT 4 write: it does not show that write durable (03
R54). -/
def durAfter (mt d : Nat) : Nat := if mt = 4 then (if d = 1 ∨ d = 3 then 3 else 0) else d

/-- A store enters the buffer (17 R357). -/
def State.enterStore (s : State) (cls size : Nat) (ea : Word) (r : Route) (mt v : Nat) : State :=
  let k := s.cur
  let c := s.core s.myCore
  let m := r.mt mt
  let feed := s.feedAccess k ea
  let load := if feed then s.me.load else 0
  let wave := if feed then s.me.marks + 1 else 0
  let bs := lineBytes (r.key % 64) v size
  let merges := match r with | .dram _ => m != 2 | _ => false
  let done := fun (w : List Wcb) =>
    ((s.setCore s.myCore { c with wcb := w }).setMe { s.me with seq := s.me.seq + 1, dur := durAfter m s.me.dur }).advance
  let new : Wcb := { slot := k, line := lineOf r.key, bytes := bs, sts := [(s.me.seq, cls)], mt := m, merge := merges,
                     va := ea, last := s.cycle, phase := 0, tag := 0, load := load, wave := wave, mode := s.me.mode,
                     force := false }
  match (if merges then mergeInto k (lineOf r.key) cls load wave c.wcb else none) with
  | some n =>
    match c.wcb[n]? with
    | some e => done (setNth c.wcb n { e with
        bytes := bs.foldl (fun t b => Tab.set none t b.1 b.2) e.bytes, sts := e.sts ++ [(s.me.seq, cls)],
        last := s.cycle })
    | none => s
  | none =>
    if (c.wcb.filter (fun e => !e.posted)).length < 16 then done (c.wcb ++ [new])
    else match c.wcb with
      | e :: rest => s.setCore s.myCore { c with wcb := { e with force := true } :: rest }
      | [] => s

/-- A store (17 R350, R352, R357). -/
def State.storeOp (s : State) (t base cls off size : Nat) : State :=
  let ea := effAddr (s.rg base) off size
  let v := pairValue (s.rg t) (if size = 16 then s.rg (t + 1) else 0) size
  s.run (if size = 16 then [base, t, t + 1] else [base, t]) [(5, 0), (4, 1), (7, 1)]
    (if aligned ea size = false then s.raise 0x03 ea
     else s.withXlate ea 1 (fun pa mt =>
       if s.refused s.cur ea pa mt || s.feedRefused s.cur ea mt then s.raise 0x07 ea
       else match s.routeOf pa mt with
         | some (.ctl off) => if size ≠ 4 ∧ size ≠ 8 then s.raise 0x03 ea else s.enterStore cls size ea (.ctl off) mt v
         | some r => s.enterStore cls size ea r mt v
         | none => s.raise 0x07 ea))

def execStB (t b c _p o : Nat) (s : State) : MemResult := .next (s.storeOp t b c o 1)
def execStH (t b c _p o : Nat) (s : State) : MemResult := .next (s.storeOp t b c o 2)
def execStW (t b c _p o : Nat) (s : State) : MemResult := .next (s.storeOp t b c o 4)
def execStD (t b c _p o : Nat) (s : State) : MemResult := .next (s.storeOp t b c o 8)
/-- st.x (17 R357): the field t is half the register's number, which is even. -/
def execStX (t b c _p o : Nat) (s : State) : MemResult := .next (s.storeOp (2 * t) b c o 16)

/-- Two entries of one thread share a byte. -/
def Wcb.shares (e f : Wcb) : Bool := e.line == f.line && e.bytes.any (fun b => f.bytes.any (fun c => b.1 == c.1))

/-- Entry f must perform before entry e (11 R232, R233, R236). -/
def Wcb.before (f e : Wcb) : Bool :=
  f.open_ && e.sts.any (fun t => f.sts.any (fun u => decide (u.1 < t.1) &&
    (classMatch u.2 t.2 || (e.mt == 2 && f.mt == 2) || e.shares f)))

/-- An outstanding load of the thread must return before entry e performs. -/
def Wcb.afterLoad (e : Wcb) (o : OutLoad) : Bool :=
  !o.isPf && e.sts.any (fun t => decide (o.seq < t.1) &&
    (classMatch o.cls t.2 || (e.mt == 2 && o.mt == 2) || e.bytes.any (fun b => decide (overlap o.key o.size (e.line * 64 + b.1) 1))))

/-- An entry is to drain (06 R122): it is full, forced, or was last written 256 core cycles ago. -/
def State.wcbDue (s : State) (e : Wcb) : Bool :=
  e.bytes.length == 64 || e.force || decide (e.last + 256 ≤ s.cycle) || (s.slot e.slot).st == .free

/-- The memory model permits an entry to drain. -/
def State.wcbMay (s : State) (c idx : Nat) (e : Wcb) : Bool :=
  ((dropNth (s.core c).wcb idx).all (fun f => f.slot != e.slot || !f.before e)) &&
    (s.slot e.slot).outs.all (fun o => !e.afterLoad o)

/-- The first byte an entry holds and the number of its bytes: an entry that never merges holds one store. -/
def Wcb.span (e : Wcb) : Nat × Nat := ((e.bytes.headD (0, none)).1, e.bytes.length)

/-- An entry's bytes from its first upward, as a number. -/
def Wcb.value (e : Wcb) : Nat := e.bytes.foldr (fun b v => (match b.2 with | some x => x.toNat | none => 0) + 256 * v) 0

/-- An entry leaves the buffer. -/
def State.dropWcb (s : State) (c idx : Nat) : State :=
  s.setCore c { s.core c with wcb := dropNth (s.core c).wcb idx }

/-- A drain starts (06 R122; 02 R34; 03 Table 03-2). -/
def execWcbDrain (core idx : Nat) (s : State) : MemResult :=
  let c := s.core core
  match c.wcb[idx]? with
  | none => .next s
  | some e =>
    if e.phase ≠ 0 ∨ s.wcbDue e = false ∨ s.wcbMay core idx e = false then .next s
    else
      let put := fun (s : State) (e : Wcb) => s.setCore core { s.core core with wcb := setNth (s.core core).wcb idx e }
      let a := e.line * 64 + e.span.1
      if e.line * 64 ≥ 2 ^ 59 then
        let id := s.nHost
        let s : State := { s with nHost := id + 1 }
        let s := s.emit (.hostWrite id (a - 2 ^ 59) (2 ^ e.span.2 - 1) [e.value % 2 ^ 64, e.value / 2 ^ 64] false)
        .next (put s { e with phase := 2, tag := id + 1 })
      else if e.line * 64 ≥ 2 ^ 58 ∧ e.load = 0 then
        if s.conflicts none e.line then .next (((s.dropWcb core idx).pend e.slot 0x12 e.va 0).enterSync e.slot)
        else
        let q := s.sendRemote 1 core e.slot 2 (a - 2 ^ 58) [e.span.2, e.value % 2 ^ 64, e.value / 2 ^ 64]
        .next (put q.1 { e with phase := 1, tag := q.2 + 1 })
      else .next (put s { e with phase := 1 })

/-- Bytes perform at a line in a segment of a protected load (12 R267): provisional, or beyond the limit a machine check
with SRC 6. -/
def State.provStore (s : State) (k load wave line : Nat) (bs : Tab (Option Byte)) (pois : Bool) (thread : Bool) : State :=
  let d := dieOfSlot k
  let asid := match s.load load with | some l => bits l.asid 0 16 | none => 0
  if s.provFull load wave asid line d then s.failCapacity load
  else s.provWrite load wave line bs pois (if thread then some (k / 16) else none)

/-! ## Atomics (17 R359 to R361) -/

/-- The least n-bit number greater than every one that is not negative as a signed n-bit value. -/
def signBit (n : Nat) : Nat := 2 ^ (n - 1)
/-- a < b as signed n-bit values. -/
def sltN (n a b : Nat) : Bool := decide ((a + signBit n) % 2 ^ n < (b + signBit n) % 2 ^ n)

/-- Table 17-6: what an atomic writes over old, none when it writes nothing. Number 12 is the scheduler's decrement of a
descriptor's DEPCNT (04 R77). -/
def atomNew (aop n old bv dv : Nat) : Option Nat :=
  match aop with
  | 0 => some ((old + bv) % 2 ^ n)
  | 1 => some (old &&& bv)
  | 2 => some (old ||| bv)
  | 3 => some (old ^^^ bv)
  | 4 => some bv
  | 5 => some (if sltN n bv old then bv else old)
  | 6 => some (if sltN n old bv then bv else old)
  | 7 => some (if bv < old then bv else old)
  | 8 => some (if old < bv then bv else old)
  | 9 => if old = dv then some bv else none
  | 10 => if old < bv then some (old + 1) else none
  | 12 => if fld old 32 8 ≠ 0 then some (old - 2 ^ 32) else none
  | _ => if old ≠ 0 then some (old - 1) else none

/-- ord orders earlier accesses, or later ones (15 R313). -/
def ordRel (o : Nat) : Bool := o == 2 || o == 3
def ordAcq (o : Nat) : Bool := o == 1 || o == 3

/-- The atomic has its old value: the register is written, an ordered acquire takes effect, and the thread goes on. -/
def State.finishAtomic (s : State) (k d ord scope n old : Nat) : State :=
  let s := s.setSlot k ((s.slot k).setReg d (wordResult old n))
  let s := if ordAcq ord ∧ scope ≥ 1 then s.acquire k else s
  s.setSlot k { s.slot k with pc := (s.slot k).pc + 4, wait := .none, seq := (s.slot k).seq + 1 }

/-- The atomic performs at a local home at this instant. -/
def State.atomicLocal (s : State) (d aop ord scope sz : Nat) (ea : Word) (pa bv dv : Nat) : State :=
  let k := s.cur
  let off := offOf pa
  let n := 8 * sz
  let feed := s.feedAccess k ea
  if s.poisoned pa then s.raise 0x08 ea
  else if s.mustSnoop (lineOf off) false then s.askHost (lineOf off)
  else
    let old := if feed then s.provView s.me.load off (s.home pa sz) sz else s.home pa sz
    match atomNew aop n old bv dv with
    | none => s.finishAtomic k d ord scope n old
    | some v =>
      if s.conflicts (if feed then some s.me.load else none) (lineOf off) then s.raise 0x12 ea
      else if feed then
        (s.provStore k s.me.load (s.me.marks + 1) (lineOf off) (lineBytes (off % 64) v sz) false true).finishAtomic k d ord scope n old
      else if s.mustSnoop (lineOf off) true then s.askHost (lineOf off)
      else (s.store (some s.myCore) pa sz v).finishAtomic k d ord scope n old

/-- An atomic instruction. -/
def State.atomicOp (s : State) (d a b aop ord scope size : Nat) : State :=
  let ea := s.rg a
  let sz := opBytes size
  let bv := (s.rg b).toNat % 2 ^ (8 * sz)
  let dv := (s.rg d).toNat % 2 ^ (8 * sz)
  s.run [d, a, b] [(5, 0), (4, 1), (7, 1)]
    (match s.me.wait with
     | .remote _ => s
     | .host _ => s
     | _ =>
      if aligned ea sz = false then s.raise 0x03 ea
      else s.withXlate ea 2 (fun pa mt =>
        if s.refused s.cur ea pa mt || s.feedRefused s.cur ea mt then s.raise 0x07 ea
        else match s.routeOf pa mt with
        | none => s.raise 0x07 ea
        | some (.ctl _) => s.raise 0x07 ea
        | some r =>
          if (match r with | .host _ => (aop != 0 && aop != 4 && aop != 9) || !s.pkg.facts.atomics | _ => false) then s.raise 0x07 ea
          else if s.allPerformed s.cur (ordRel ord && decide (scope ≥ 2)) = false then
            (if ordRel ord && decide (scope ≥ 2) then s.forceAll s.cur else s.force s.cur)
          else match r with
          | .dram _ => s.atomicLocal d aop ord scope sz ea pa bv dv
          | .remote p =>
            if s.feedAccess s.cur ea || s.conflicts none (lineOf r.key) then
              let q := s.sendRemote 2 s.cur 0 0 p [sz]
              q.1.setMe { q.1.me with wait := .remote q.2 }
            else
            let q := s.sendRemote 2 s.cur 0 3 p [aop + 16 * sz, bv, dv]
            q.1.setMe { q.1.me with wait := .remote q.2 }
          | .host h =>
            let q := s.sendHost 2 s.cur 0 h (fun id => .hostAtomic id h aop sz (BitVec.ofNat 64 bv) (BitVec.ofNat 64 dv))
            q.1.setMe { q.1.me with wait := .host q.2, dur := durAfter mt q.1.me.dur }
          | .ctl _ => s.raise 0x07 ea))

def execAmoAdd (d a b o sc z : Nat) (s : State) : MemResult := .next (s.atomicOp d a b 0 o sc z)
def execAmoAnd (d a b o sc z : Nat) (s : State) : MemResult := .next (s.atomicOp d a b 1 o sc z)
def execAmoOr (d a b o sc z : Nat) (s : State) : MemResult := .next (s.atomicOp d a b 2 o sc z)
def execAmoXor (d a b o sc z : Nat) (s : State) : MemResult := .next (s.atomicOp d a b 3 o sc z)
def execAmoSwap (d a b o sc z : Nat) (s : State) : MemResult := .next (s.atomicOp d a b 4 o sc z)
def execAmoMin (d a b o sc z : Nat) (s : State) : MemResult := .next (s.atomicOp d a b 5 o sc z)
def execAmoMax (d a b o sc z : Nat) (s : State) : MemResult := .next (s.atomicOp d a b 6 o sc z)
def execAmoMinu (d a b o sc z : Nat) (s : State) : MemResult := .next (s.atomicOp d a b 7 o sc z)
def execAmoMaxu (d a b o sc z : Nat) (s : State) : MemResult := .next (s.atomicOp d a b 8 o sc z)
/-- cas (17 Table 17-6): g[d] is the compare value, then receives the old one. -/
def execCas (d a b o sc z : Nat) (s : State) : MemResult := .next (s.atomicOp d a b 9 o sc z)
def execAincb (d a b o sc z : Nat) (s : State) : MemResult := .next (s.atomicOp d a b 10 o sc z)
/-- adecz (17 Table 17-6): the b field is 0. -/
def execAdecz (d a o sc z : Nat) (s : State) : MemResult := .next (s.atomicOp d a 0 11 o sc z)

/-! ## Fences (11 R237, R238; 17 R362, R363) -/

/-- Class c is masked: class 7 always is. -/
def masked (m c : Nat) : Bool := c == 7 || m.testBit c

/-- A scope of a fence that is die or wider; and package or wider. -/
def scopeDie (sc : Nat) : Bool := decide (1 ≤ sc) && decide (sc ≤ 4)
def scopePk (sc : Nat) : Bool := decide (2 ≤ sc) && decide (sc ≤ 4)

/-- The earlier accesses of a masked class have performed; posted writes count too at package scope or wider. -/
def State.maskedDone (s : State) (k m sc : Nat) : Bool :=
  (s.slot k).outs.all (fun o => o.isPf || !masked m o.cls) &&
    (s.wcbOf k).all (fun e => e.sts.all (fun t => !masked m t.2) || (!e.open_ && !scopePk sc))

/-- Every MT 4 write of the thread has completed (03 R53, R54). -/
def State.mt4Done (s : State) (k : Nat) : Bool := (s.wcbOf k).all (fun e => e.mt != 4)

/-- The entries that a fence waits for are to drain. -/
def State.forceMask (s : State) (k m : Nat) : State :=
  let c := s.core (k / 16)
  s.setCore (k / 16) { c with wcb := c.wcb.map (fun e =>
    if e.slot = k ∧ (e.mt = 4 ∨ e.sts.any (fun t => masked m t.2)) then { e with force := true } else e) }

/-- A fence waits: what it orders drains, and at package scope or wider posted writes are followed up (03 R53). -/
def State.fenceWait (s : State) (k m sc : Nat) : State :=
  if scopePk sc then (s.forceMask k m).flushPosted k else s.forceMask k m

/-- A fence completes: an acquire of die scope or wider takes effect, and the thread goes on. -/
def State.finishFence (s : State) (k : Nat) (acq : Bool) (sc : Nat) : State :=
  let s := if acq && scopeDie sc then s.acquire k else s
  s.setSlot k { s.slot k with pc := (s.slot k).pc + 4, wait := .none }

/-- fence.acq: every earlier load, of any class, has returned. -/
def execFenceAcq (sc _m : Nat) (s : State) : MemResult :=
  .next (s.run [] [] (if s.me.outs.all (fun o => o.isPf) then s.finishFence s.cur true sc else s))

/-- fence.rel. -/
def execFenceRel (sc m : Nat) (s : State) : MemResult :=
  .next (s.run [] [] (if s.maskedDone s.cur m sc then s.finishFence s.cur false sc else s.fenceWait s.cur m sc))

/-- fence.full. -/
def execFenceFull (sc m : Nat) (s : State) : MemResult :=
  .next (s.run [] [] (if s.maskedDone s.cur m sc then s.finishFence s.cur true sc else s.fenceWait s.cur m sc))

/-- fence.persist (03 R54, R55; 17 R363): as full, and then the flush line is read while PERSIST.EN is 1. One that was
abandoned waits for the read that is still under way, or has the outcome of that which has ended. -/
def execFencePersist (sc m : Nat) (s : State) : MemResult :=
  .next (s.run [] []
    (match s.me.wait with
     | .flush _ => s
     | _ =>
      if s.maskedDone s.cur m sc = false ∨ s.mt4Done s.cur = false then (s.forceMask s.cur m).flushPosted s.cur
      else match s.me.dur with
        | 1 => s.setMe { s.me with wait := .flush true }
        | 2 => (s.setMe { s.me with dur := 0 }).finishFence s.cur true sc
        | 3 => s
        | 4 => (s.setMe { s.me with dur := 0 }).raise 0x17 0
        | _ =>
          if bit s.pkg.persist 0 then
            (s.emit (.hostFlush (bits s.pkg.persist 6 50 * 64))).setMe { s.me with wait := .flush true, dur := 1 }
          else s.finishFence s.cur true sc))

/-- The flush-line read ends (03 R54; 17 R363): the waiting fence completes, or takes cause 0x17; where it was abandoned the
slot keeps how the read ended, unless an MT 4 write has followed. -/
def execPersistAck (core slot ok : Nat) (s : State) : MemResult :=
  let k := slotKey core slot
  match (s.slot k).wait with
  | .flush _ =>
    if ok = 1 then .next ((s.setSlot k { s.slot k with dur := 0 }).finishFence k true (fld (s.slot k).word 19 3))
    else .next ((s.setSlot k { s.slot k with wait := .none, dur := 0 }).raiseAt k 0x17 0 (s.slot k).pc)
  | _ =>
    match (s.slot k).dur with
    | 1 => .next (s.setSlot k { s.slot k with dur := if ok = 1 ∧ s.pkg.hostUp then 2 else 4 })
    | 3 => .next (s.setSlot k { s.slot k with dur := 0 })
    | _ => .next s

/-! ## Cache invalidation and waitw (17 R364 to R366) -/

/-- l1inv. -/
def execL1inv (c : Nat) (s : State) : MemResult :=
  let x := s.me
  let x := if c % 2 = 1 then { x with acq := s.clock } else x
  let x := if c / 2 = 1 then { x with iacq := s.clock } else x
  .next (s.run [] [] (s.setMe x).advance)

/-- dinv: the line leaves the descriptor caches of all four dies (04 R73), after every earlier access. -/
def execDinv (a : Nat) (s : State) : MemResult :=
  let ea := s.rg a
  .next (s.run [a] [(5, 0), (4, 1)] (s.withXlate ea 0 (fun pa mt =>
    if s.refused s.cur ea pa mt then s.raise 0x07 ea
    else if s.allPerformed s.cur false = false then s.force s.cur
    else
      let line := match s.routeOf pa mt with | some r => lineOf r.key | none => lineOf (offOf pa)
      let cut := fun (s : State) (d : Nat) => s.setDie d { s.die d with dcache := Tab.set none (s.die d).dcache line none }
      (cut (cut (cut (cut s 0) 1) 2) 3).advance)))

/-- The comparison of a waitw holds: kind 0 .ne, 1 .eq. -/
def waitHolds (eq : Bool) (v b : Nat) : Bool := if eq then v == b else v != b

/-- A waitw has its value: it completes with a system-scope acquire, or its slot blocks until a write or a poll. -/
def State.waitValue (s : State) (k d key n : Nat) (eq : Bool) (v b : Nat) : State :=
  if waitHolds eq v b then
    let s := s.setSlot k ((s.slot k).setReg d (wordResult v n))
    let s := s.acquire k
    s.setSlot k { s.slot k with pc := (s.slot k).pc + 4, wait := .none, seq := (s.slot k).seq + 1, st := .ready }
  else s.setSlot k { s.slot k with st := .blockedWait, wait := .word (lineOf key) (s.cycle + 1024), since := s.cycle }

/-- waitw: one read and what follows from it. -/
def State.waitwOp (s : State) (d a b z : Nat) (eq : Bool) : State :=
  let ea := s.rg a
  let sz := opBytes z
  let bv := (s.rg b).toNat % 2 ^ (8 * sz)
  s.run [d, a, b] [(5, 0), (4, 1), (6, 1)]
    (match s.me.wait with
     | .remote _ => s
     | .host _ => s
     | _ =>
      if aligned ea sz = false then s.raise 0x03 ea
      else s.withXlate ea 0 (fun pa mt =>
        if s.refused s.cur ea pa mt then s.raise 0x07 ea
        else match s.routeOf pa mt with
        | none => s.raise 0x07 ea
        | some r =>
          if s.me.outs.any (fun o => !o.isPf && overlap o.key o.size r.key sz) then s
          else if r.mt mt = 2 ∧ (s.mt2Clear s.cur s.me.seq = false ∨ s.earlierStore s.cur s.me.seq r.key sz) then s.force s.cur
          else match r with
          | .ctl off => s.waitValue s.cur d r.key (8 * sz) eq (s.ctlRead off sz) bv
          | .dram off =>
            if s.poisoned pa then s.raise 0x08 ea
            else if s.mustSnoop (lineOf off) false then s.askHost (lineOf off)
            else s.waitValue s.cur d r.key (8 * sz) eq (s.view s.cur off sz) bv
          | .remote p =>
            if s.earlierStore s.cur s.me.seq r.key sz then s.force s.cur
            else
            let q := s.sendRemote 4 s.cur 0 0 p [sz]
            q.1.setMe { q.1.me with wait := .remote q.2 }
          | .host h =>
            if s.earlierStore s.cur s.me.seq r.key sz then s.forceAll s.cur
            else
            let q := s.sendHost 4 s.cur 0 h (fun id => .hostRead id (h - h % 64) 64)
            q.1.setMe { q.1.me with wait := .host q.2 }))

def execWaitwNe (d a b z : Nat) (s : State) : MemResult := .next (s.waitwOp d a b z false)
def execWaitwEq (d a b z : Nat) (s : State) : MemResult := .next (s.waitwOp d a b z true)

/-- A blocked waitw looks again (17 R366): a write to its line was reported, or its poll is due. -/
def execWaitwPoll (core slot : Nat) (s : State) : MemResult :=
  let k := slotKey core slot
  match (s.slot k).st, (s.slot k).wait with
  | .blockedWait, .word _ due =>
    if due ≤ s.cycle then .next (s.setSlot k { s.slot k with st := .ready, wait := .none, nextAt := s.cycle + 1 })
    else .next s
  | _, _ => .next s

end Sys2Proof.Machine
end

