-- ==== Sys2Proof/Machine/Queue.lean ====
section
/-! DEFINITION. The queue instructions (18 R370, R373 to R376) and the loss-of-decoupling event (06 R129). -/

namespace Sys2Proof.Machine

/-- What every meaning answers. -/
abbrev QueueResult := Host.Outcome State Fault Refusal

/-- A loss-of-decoupling event (06 R129, R130): the run has reached WINDOW. -/
def execLossOfDecoupling (key : Nat) (s : State) : QueueResult := .next (s.lodEvent key)

/-- qbind (18 R370). -/
def execQbind (sc q b o : Nat) (s : State) : QueueResult :=
  let id := s.rg sc
  let k := s.cur
  let out := o == 1
  let key := queueKey (dieOfSlot k) id out
  .next (s.run [sc] [(5, 0)]
    (let s := s.unbind k q
     if id = 0 then s.advance
     else match s.qidFault id false s.me.asidN s.me.feedOf with
     | some (c, r) =>
       s.raise c (if c = 0x07 then BitVec.ofNat 64 q
                  else descTval r (if r = 0x0C then qidLoad id else q))
     | none =>
       let x := s.queue key
       if keyIsCircuit key = false ∧ x.live ∧ x.asid ≠ s.me.asid then s.raise 0x07 (BitVec.ofNat 64 q)
       else if keyIsCircuit key = false ∧ x.live = false ∧ qidCap id * 64 > s.freeCircuit (dieOfSlot k) then
         s.raise 0x11 (descTval 0x05 q)
       else
         let s := s.setMe { s.me with
           binds := Tab.set none s.me.binds q (some { key := key, qid := id, out := out, branch := b == 1, decthr := s.me.decthr }) }
         (s.qJoin key id s.me.asid out (bindKey k q) s.me.decthr (some (bindKey k q))).advance))

/-! ## Push, pop, peek and clasp -/

/-- The slot has its operation done: it is ready and waits for nothing. -/
def State.unblocked (s : State) : State :=
  let x := s.me
  let s := s.setMe { x with st := .ready, wait := .none, probed := false }
  match x.wait with
  | .queue b => match x.bind b with
    | some y =>
      let s := s.qSync y.key
      s.sampleQueue y.key (if y.out then 4 else 3) (s.cycle - x.since)
    | none => s
  | _ => s

/-- The slot blocks on the queue of a binding, or goes on waiting there (06 Table 06-2). -/
def State.blockOn (s : State) (b key : Nat) : State :=
  let x := s.me
  let again := x.wait == .queue b
  (s.setMe { x with st := .blockedQueue, wait := .queue b, since := if again then x.since else s.cycle,
                    probed := again && x.probed }).qSync key

/-- A cycle in which an operation that does not block found the queue empty or full counts once (06 R128, R130). -/
def State.countCycle (s : State) (key : Nat) (out : Bool) : State :=
  let q := s.queue key
  if out then (if q.fFrom = 0 ∧ q.fAt ≠ s.cycle + 1 then
      s.setQueue key { q with fwait := satAdd q.fwait 1 (2 ^ 48 - 1), fAt := s.cycle + 1 } else s)
  else if q.eFrom = 0 ∧ q.eAt ≠ s.cycle + 1 then
    s.setQueue key { q with ewait := satAdd q.ewait 1 (2 ^ 48 - 1), eAt := s.cycle + 1 }
  else s

/-- A push or clasp of a word on a binding (18 R373). -/
def State.pushOp (s : State) (rs : List Nat) (us : List (Nat × Nat)) (b g : Nat) (try_ rel : Bool) (mk : Word → LW) : State :=
  s.run (g :: rs) us
    (match s.me.bind b with
     | none => s.raise 0x11 (descTval 0x01 b)
     | some x =>
       if x.out = false then s.raise 0x11 (descTval 0x02 b)
       else if s.qFull x.key then
         if try_ then ((s.countCycle x.key true).wr g 1).advance
         else if bit s.me.qctl (3 * b + 1) then ((s.unblocked).countCycle x.key true).raise 0x0D (BitVec.ofNat 64 b)
         else s.blockOn b x.key
       else if rel && !s.allPerformed s.cur true then s.forceAll s.cur
       else
         let s := (s.qAppend x.key (mk x.qid)).unblocked
         (if try_ then s.wr g 0 else s).advance)

/-- qpush. -/
def execQpush (g sc q t r : Nat) (s : State) : QueueResult :=
  .next (s.pushOp [sc] [(5, 0), (7, 1)] q g (t == 1) (r == 1)
    (fun id => mkWord (BitVec.ofNat 256 (s.rg sc).toNat) (qidVc id) 0 0 (qidRoute id)))

/-- qclasp. -/
def execQclasp (g q t r l : Nat) (s : State) : QueueResult :=
  .next (s.pushOp [] [(7, 1)] q g (t == 1) (r == 1) (fun id => mkWord 0 (qidVc id) 1 l (qidRoute id)))

/-- The place of the executing slot's request in the order. -/
def State.myOrder (s : State) (b : Nat) : Nat :=
  reqOrder (if s.me.wait = .queue b then s.me.since else s.cycle) s.myCore (s.cur % 16)

/-- A pop or peek on a binding (18 R373, R375): fin says how the thread goes on with the value. -/
def State.popOp (s : State) (rs : List Nat) (b st : Nat) (try_ acq take branch : Bool) (fin : State → Word → State) : State :=
  s.run (st :: rs) [(6, 1)]
    (match s.me.bind b with
     | none => s.raise 0x11 (descTval 0x01 b)
     | some x =>
       if x.out then s.raise 0x11 (descTval 0x02 b)
       else if branch && !x.branch then s.raise 0x11 (descTval 0x03 b)
       else
         let who := bindKey s.cur b
         let order := s.myOrder b
         match s.tokenFor x.key who order with
         | none =>
           if s.tokenLater x.key who order then s
           else
           let s := s.foundEmpty x.key
           if try_ then ((s.countCycle x.key false).wr st 1).advance
           else if bit s.me.qctl (3 * b) then ((s.unblocked).countCycle x.key false).raise 0x0C (BitVec.ofNat 64 b)
           else s.blockOn b x.key
         | some n =>
           match (s.queue x.key).toks[n]? with
           | none => s
           | some t =>
             if t.w.poisoned then (s.unblocked).raise 0x08 (BitVec.ofNat 64 b)
             else if t.w.badResid then (s.unblocked).coreCheck 6 0 false
             else
               let s := s.unblocked
               let s := if take then (s.serves x.key order).qTake x.key n who else s
               let s := if acq then s.acquire s.cur else s
               let s := fin s t.w.value
               if try_ then s.wr st t.w.status else s)

/-- qpop. -/
def execQpop (d sc q t a : Nat) (s : State) : QueueResult :=
  .next (s.popOp [d] q sc (t == 1) (a == 1) true false (fun s v => (s.wr d v).advance))

/-- qpeek. -/
def execQpeek (d sc q t a : Nat) (s : State) : QueueResult :=
  .next (s.popOp [d] q sc (t == 1) (a == 1) false false (fun s v => (s.wr d v).advance))

/-- bqpop (18 R375). -/
def execBqpop (d q a n : Nat) (s : State) : QueueResult :=
  .next (s.popOp [d] q 0 false (a == 1) true true
    (fun s v => (s.wr d v).setPc (s.pc + 4 * BitVec.ofNat 64 (1 + min v.toNat n))))

/-- qstat (18 R376). -/
def execQstat (d q c : Nat) (s : State) : QueueResult :=
  .next (s.run [d] []
    (match s.me.bind q with
     | none => s.raise 0x11 (descTval 0x01 q)
     | some x => (s.wr d (BitVec.ofNat 64 (s.qCounter x.key c))).advance))

end Sys2Proof.Machine
end

