-- ==== Sys2Proof/Machine/Fetch.lean ====
section
/-! DEFINITION. Fetching an instruction (07 R147 to R149; 12 R263; 17 R364), and what happens around an instruction when
a slot issues (06 R116; 19 R401). -/

namespace Sys2Proof.Machine

/-- The instruction-cache line a fetch of a slot hits. -/
def State.l1iHit (s : State) (k off : Nat) : Option Line :=
  match Tab.get none (s.core (k / 16)).l1i (lineOf off) with
  | some l => if l.at_ > (s.slot k).iacq then some l else none
  | none => none

/-- A line enters the instruction cache of 512 lines (06 R118), the oldest leaving a full one. -/
def l1iPut (t : Tab (Option Line)) (line : Nat) (l : Line) : Tab (Option Line) :=
  let t := Tab.set none t line (some l)
  if t.length > 512 then
    match oldestLine line t with
    | some v => Tab.set none t v.1 none
    | none => t
  else t

/-- The word at a translated address: the state after the fetch, and the word if it came. -/
def State.fetchAt (s : State) (k : Nat) (va : Word) (pa mt : Nat) : State × Option Nat :=
  if s.refused k va pa mt then (s.raiseWord k 0x07 va va 0, none)
  else match s.routeOf pa mt with
  | none => (s.raiseWord k 0x07 va va 0, none)
  | some (.ctl off) => (s, some (s.ctlRead off 4))
  | some (.remote a) =>
    let q := s.sendRemote 3 k 0 0 a [4]
    (q.1.setSlot k { q.1.slot k with wait := .remote q.2 }, none)
  | some (.host a) =>
    let q := s.sendHost 3 k 0 a (fun id => .hostRead id (a - a % 64) 64)
    (q.1.setSlot k { q.1.slot k with wait := .host q.2 }, none)
  | some (.dram off) =>
    match s.l1iHit k off with
    | some l => (s, some (lineRead l.data (off % 64) 4))
    | none =>
      if s.poisoned pa then (s.raiseWord k 0x08 va va 0, none)
      else if s.mustSnoop (lineOf off) false then (s.askHost (lineOf off), none)
      else
        let c := k / 16
        (s.setCore c { s.core c with
          l1i := l1iPut (s.core c).l1i (lineOf off) { at_ := s.clock, data := s.homeLine (lineOf off) } },
         some (s.home pa 4))

/-- A slot's next instruction word (07 R149: a fetch fault is met at the address that missed). -/
def State.fetch (s : State) (k : Nat) : State × Option Nat :=
  let x := s.slot k
  match x.fetched with
  | some (a, w) => if a = x.pc then (s, some w) else (s.setSlot k { x with fetched := none }, none)
  | none =>
    match x.wait with
    | .walk => (s, none)
    | .none =>
      match s.xlate k x.pc 3 with
      | .ok pa mt => s.fetchAt k x.pc pa mt
      | .fault r l => (s.xfault k x.pc r l 3, none)
      | .perm => (s.raiseWord k 0x07 x.pc x.pc 0, none)
      | .held _ => (s.startWalk k x.pc 3, none)
      | .miss => (s.startWalk k x.pc 3, none)
    | _ => match s.xlate k x.pc 3 with
      | .ok pa mt => match s.routeOf pa mt with
        | some (.dram _) => s.fetchAt k x.pc pa mt
        | some (.ctl off) => (s, some (s.ctlRead off 4))
        | _ => (s, some x.word)
      | _ => (s, some x.word)

/-- The instruction word at an address of a slot as it stands now, 0 where it cannot be fetched (07 Table 07-11; log 26). -/
def State.wordAt (s : State) (k : Nat) (va : Word) : Nat :=
  match s.xlate k va 3 with
  | .ok pa mt =>
    if s.refused k va pa mt then 0
    else match s.routeOf pa mt with
    | some (.dram off) =>
      (match s.l1iHit k off with
       | some l => lineRead l.data (off % 64) 4
       | none => if s.poisoned pa then 0 else s.home pa 4)
    | some (.ctl off) => s.ctlRead off 4
    | _ => 0
  | _ => 0

/-- An asynchronous trap may interrupt what the slot waits for: not an atomic that has left the core (17 R353), a tlbinv
(19 R407) or a self-test. -/
def State.interruptible (s : State) (k : Nat) : Bool :=
  match (s.slot k).wait with
  | .inval _ => false
  | .test _ => false
  | .remote tag => match Tab.get none s.remotes tag with | some r => r.who != 2 | none => true
  | .host id => match Tab.get none s.hostRq id with | some r => r.kind != 2 | none => true
  | _ => true

/-- The slot may take its asynchronous trap now. -/
def State.asyncNow (s : State) (k : Nat) : Bool :=
  let x := s.slot k
  (x.st == .ready || x.st == .blockedQueue || x.st == .blockedWait) && s.takeable k && s.interruptible k && !x.blocked

/-- An asynchronous trap is entered; a request the slot had at a queue ends with it (06 Table 06-2). -/
def State.takeAsync (s : State) (k : Nat) : State :=
  let x := s.slot k
  let t := s.enterAsync k
  match x.wait with
  | .queue b => match x.bind b with | some y => t.qSync y.key | none => t
  | _ => t

/-- The slot's state once its instruction has had its effect: what came from afar for it is used up. -/
def State.issuedBy (s : State) (k : Nat) : State :=
  if (s.slot k).wait ≠ .none then s
  else
    let s := if (s.slot k).fetched ≠ none then s.setSlot k { s.slot k with fetched := none } else s
    let c := s.core (k / 16)
    if c.got.any (fun e => e.eid == 256 + k % 16) then
      s.setCore (k / 16) { c with got := c.got.filter (fun e => e.eid != 256 + k % 16) }
    else s

/-- A slot whose yield holds it back: another ready slot of its core has yet to issue, and 16 cycles have not passed
(18 R396). -/
def State.yields (s : State) (k : Nat) : Bool :=
  match (s.slot k).wait with
  | .yield u o => decide (s.cycle < u) && o.any (fun j => (s.slot j).st == .ready)
  | _ => false

/-- A slot has issued: no yield waits for it any more. -/
def State.sawIssue (s : State) (k : Nat) : State :=
  { s with slots := s.slots.map (fun (e : Nat × Slot) =>
      let y : Slot := e.2
      match y.wait with
      | .yield u o => (e.1, { y with wait := Wait.yield u (o.filter (fun j => j != k)) })
      | _ => e) }

/-- A yield that holds its slot back no longer is over. -/
def State.endYield (s : State) (k : Nat) : State :=
  match (s.slot k).wait with
  | .yield _ _ => s.setSlot k { s.slot k with wait := .none }
  | _ => s

/-- The word a slot executes next and the state in which it does: none where there is none now. -/
def State.ready (s : State) (k pos : Nat) : State × Option Nat :=
  let s := { s with cur := k, pos := pos }
  let x := s.slot k
  if x.sync.isSome then (s.enterSync k, none)
  else if s.asyncNow k then (s.takeAsync k, none)
  else if x.st ≠ .ready ∨ s.cycle < x.nextAt ∨ x.blocked ∨ s.running = false ∨ s.testing x.load ∨ s.yields k then (s, none)
  else
    let r := (s.endYield k).fetch k
    match r.2 with
    | none => (r.1, none)
    | some w => (r.1.setSlot k { r.1.slot k with word := w }, some w)

end Sys2Proof.Machine
end

