-- ==== Sys2Proof/Machine/Numbers.lean ====
section
/-! DEFINITION. Number formats and arithmetic (14): what each format code decodes to, rounding and conversion, exact sums
and products, the correctly rounded functions, and reduction trees. -/

namespace Sys2Proof.Machine

/-! ## Exact values -/

/-- A decoded value: (−1)^neg · m · 2^e, an infinity, or NaN. Zeros keep their sign. -/
inductive Val where
  | fin (neg : Bool) (m : Nat) (e : Int)
  | inf (neg : Bool)
  | nan
  deriving DecidableEq, Repr

def Val.zero : Val := .fin false 0 0
def Val.ofInt (i : Int) : Val := .fin (decide (i < 0)) i.natAbs 0
/-- An integer times 2^e. -/
def Val.scaled (i : Int) (e : Int) : Val := .fin (decide (i < 0)) i.natAbs e

def Val.isNaN : Val → Bool | .nan => true | _ => false
def Val.isInf : Val → Bool | .inf _ => true | _ => false
def Val.isZero : Val → Bool | .fin _ 0 _ => true | _ => false
def Val.sign : Val → Bool | .fin n _ _ => n | .inf n => n | .nan => false
def Val.neg : Val → Val | .fin n m e => .fin (!n) m e | .inf n => .inf (!n) | .nan => .nan
def Val.abs : Val → Val | .fin _ m e => .fin false m e | .inf _ => .inf false | .nan => .nan

/-- The integer m · 2^(e − q) with its sign, for q at most e. -/
def alignTo (neg : Bool) (m : Nat) (e q : Int) : Int :=
  let v : Int := (m * 2 ^ (e - q).toNat : Nat)
  if neg then -v else v

/-- The exact product (NaN for zero times infinity). -/
def Val.mul : Val → Val → Val
  | .nan, _ => .nan
  | _, .nan => .nan
  | .inf a, .inf b => .inf (Bool.xor a b)
  | .inf a, .fin b m _ => if m = 0 then .nan else .inf (Bool.xor a b)
  | .fin a m _, .inf b => if m = 0 then .nan else .inf (Bool.xor a b)
  | .fin a m e, .fin b n f => .fin (Bool.xor a b) (m * n) (e + f)

/-- The exact sum. A zero sum of operands of opposite signs is +0, and −0 when rounding down (14 R302). -/
def Val.add (down : Bool) : Val → Val → Val
  | .nan, _ => .nan
  | _, .nan => .nan
  | .inf a, .inf b => if a = b then .inf a else .nan
  | .inf a, .fin .. => .inf a
  | .fin .., .inf b => .inf b
  | .fin a m e, .fin b n f =>
    let q := if e ≤ f then e else f
    let s := alignTo a m e q + alignTo b n f q
    if s = 0 then .fin (if a = b then a else down) 0 0 else .fin (decide (s < 0)) s.natAbs q

/-- Comparison of two values that are not NaN: less, equal, greater as −1, 0, 1; the two zeros are equal. -/
def Val.cmp : Val → Val → Int
  | .inf a, .inf b => if a = b then 0 else if a then -1 else 1
  | .inf a, _ => if a then -1 else 1
  | _, .inf b => if b then 1 else -1
  | .fin a m e, .fin b n f =>
    let q := if e ≤ f then e else f
    let x := alignTo a m e q
    let y := alignTo b n f q
    if x < y then -1 else if x = y then 0 else 1
  | _, _ => 0

/-! ## Format codes (14 Table 14-1) -/

/-- The kinds of element formats. -/
inductive Kind where
  | raw
  | flt (ebits mbits bias special : Nat)   -- special: 0 no infinity, no NaN; 1 NaN only (e4m3); 2 as IEEE
  | int (n : Nat) (signed : Bool)
  | b1
  | ts4
  | ts8
  | mxi8
  | exa
  | bad
  deriving DecidableEq, Repr

/-- The element format of a block format (14 Table 14-4), other codes unchanged. -/
def elemCode (c : Nat) : Nat :=
  match c with
  | 0x20 => 0x01 | 0x21 => 0x02 | 0x22 => 0x03 | 0x23 => 0x04 | 0x24 => 0x05
  | 0x28 => 0x12 | 0x29 => 0x10 | 0x2A => 0x1C | 0x2B => 0x1D | 0x2C => 0x1E
  | 0x30 => 0x01 | 0x31 => 0x04
  | _ => c

/-- The kind of a format's elements. -/
def kindOf (c : Nat) : Kind :=
  match elemCode c with
  | 0x00 => .raw
  | 0x01 => .flt 2 1 1 0
  | 0x02 => .flt 2 3 1 0
  | 0x03 => .flt 3 2 3 0
  | 0x04 => .flt 4 3 7 1
  | 0x05 => .flt 5 2 15 2
  | 0x06 => .flt 8 7 127 2
  | 0x07 => .flt 5 10 15 2
  | 0x08 => .flt 8 23 127 2
  | 0x09 => .flt 11 52 1023 2
  | 0x10 => .int 2 true
  | 0x11 => .int 2 false
  | 0x12 => .int 4 true
  | 0x13 => .int 4 false
  | 0x14 => .int 8 true
  | 0x15 => .int 8 false
  | 0x16 => .int 16 true
  | 0x17 => .int 16 false
  | 0x18 => .int 32 true
  | 0x19 => .int 64 true
  | 0x1C => .b1
  | 0x1D => .ts4
  | 0x1E => .ts8
  | 0x25 => .mxi8
  | 0x3F => .exa
  | _ => .bad

def isBlock (c : Nat) : Bool := (decide (0x20 ≤ c) && decide (c ≤ 0x25)) || (decide (0x28 ≤ c) && decide (c ≤ 0x2C)) ||
  c == 0x30 || c == 0x31

/-- The elements of a block (14 Table 14-5). -/
def blockLen (c : Nat) : Nat := if c = 0x30 ∨ c = 0x31 then 16 else 32

/-- The width of a format's elements in bits. -/
def widthOf (c : Nat) : Nat :=
  match kindOf c with
  | .raw => 256
  | .flt e m _ _ => 1 + e + m
  | .int n _ => n
  | .b1 => 1
  | .ts4 => 4
  | .ts8 => 8
  | .mxi8 => 8
  | .exa => 64
  | .bad => 0

/-- A code that Table 14-1 lists. -/
def fmtListed (c : Nat) : Bool := kindOf c != .bad

/-- A matrix operand format (14 Table 14-1). -/
def fmtMatrix (c : Nat) : Bool :=
  (decide (1 ≤ c) && decide (c ≤ 8)) || (decide (0x10 ≤ c) && decide (c ≤ 0x17)) ||
    (decide (0x1C ≤ c) && decide (c ≤ 0x1E)) || isBlock c

/-- A floating-point format. -/
def fmtFloat (c : Nat) : Bool := decide (1 ≤ c) && decide (c ≤ 9)

/-- The elements a link word holds under lane packing (14 Table 14-1). -/
def lanesOf (c : Nat) : Nat := if widthOf c = 0 then 0 else 256 / widthOf c

/-! ## Decoding (14 R290 to R301) -/

/-- A ts4 term in eighths (14 R296). -/
def ts4Units (x : Nat) : Int :=
  let c := x % 8
  let v : Int := if c = 0 then 0 else (2 ^ (c - 1) : Nat)
  if x / 8 % 2 = 1 then -v else v

/-- A floating-point encoding (14 R290). -/
def fltVal (eb mb bias special x : Nat) : Val :=
  let s := x / 2 ^ (eb + mb) % 2 = 1
  let e := x / 2 ^ mb % 2 ^ eb
  let f := x % 2 ^ mb
  let top := 2 ^ eb - 1
  if special = 2 ∧ e = top then (if f = 0 then .inf (decide s) else .nan)
  else if special = 1 ∧ e = top ∧ f = 2 ^ mb - 1 then .nan
  else if e = 0 then .fin (decide s) f (1 - (bias : Int) - mb)
  else .fin (decide s) (2 ^ mb + f) ((e : Int) - bias - mb)

/-- The low n bits of x as a two's-complement value. -/
def sintOf (x n : Nat) : Int := if x % 2 ^ n < 2 ^ (n - 1) then (x % 2 ^ n : Nat) else (x % 2 ^ n : Nat) - (2 ^ n : Nat)

/-- The value an encoding decodes to, an exa element as an integer (14 R301: its scale is its reader's). -/
def decodeVal (c x : Nat) : Val :=
  match kindOf c with
  | .flt e m b sp => fltVal e m b sp x
  | .int n true => Val.ofInt (sintOf x n)
  | .int n false => Val.ofInt (x % 2 ^ n : Nat)
  | .b1 => Val.ofInt (if x % 2 = 0 then 1 else -1)
  | .ts4 => Val.scaled (ts4Units x) (-3)
  | .ts8 => Val.scaled (ts4Units (x / 16) + ts4Units x) (-3)
  | .mxi8 => Val.scaled (sintOf x 8) (-6)
  | .exa => Val.ofInt (sintOf x 64)
  | .raw => .nan
  | .bad => .nan

/-- A block scale or scale register (14 R298). -/
def scaleVal (x : Nat) : Val := if x % 256 = 255 then .nan else .fin false 1 ((x % 256 : Nat) - 127)

/-! ## Rounding (14 R302, R303) -/

/-- Whether a magnitude n + rem/den, with more below when st holds, rounds up to n + 1: mode of Table 14-6. -/
def roundsUp (mode : Nat) (neg : Bool) (n rem den : Nat) (st : Bool) : Bool :=
  let some_ := rem != 0 || st
  match mode with
  | 0 => decide (2 * rem > den) || (2 * rem == den && (st || n % 2 == 1))
  | 1 => false
  | 2 => !neg && some_
  | 3 => neg && some_
  | _ => decide (2 * rem ≥ den)

/-- m · 2^e, and more below it when st holds, rounded to an integer multiple of 2^q: the multiple. -/
def roundAt (mode : Nat) (neg : Bool) (m : Nat) (e q : Int) (st : Bool) : Nat :=
  if q ≤ e then
    let n := m * 2 ^ (e - q).toNat
    n + (if roundsUp mode neg n 0 1 st then 1 else 0)
  else
    let den := 2 ^ (q - e).toNat
    m / den + (if roundsUp mode neg (m / den) (m % den) den st then 1 else 0)

/-- The largest finite encoding of a floating-point format, without its sign. -/
def maxFlt (eb mb special : Nat) : Nat :=
  if special = 2 then 2 ^ (eb + mb) - 2 ^ mb - 1 else if special = 1 then 2 ^ (eb + mb) - 2 else 2 ^ (eb + mb) - 1
/-- What an overflow to infinity gives: infinity, or the canonical NaN in e4m3 (14 R291). -/
def infFlt (eb mb special : Nat) : Nat := if special = 2 then 2 ^ (eb + mb) - 2 ^ mb else 2 ^ (eb + mb) - 1
/-- The canonical NaN (14 Table 14-2): its quiet bit, or all ones in e4m3. -/
def nanFlt (eb mb special : Nat) : Nat :=
  if special = 2 then 2 ^ (eb + mb) - 2 ^ (mb - 1) else if special = 1 then 2 ^ (eb + mb) - 1 else 0

/-- Whether an overflow of this sign stays finite in a mode (14 Table 14-7). -/
def overStays (mode : Nat) (neg : Bool) : Bool := mode == 1 || (mode == 2 && neg) || (mode == 3 && !neg)

/-- A finite magnitude m · 2^e, with more below it when st holds, rounded to a floating-point format. -/
def roundFlt (eb mb bias special mode : Nat) (sat neg : Bool) (m : Nat) (e : Int) (st : Bool) : Nat :=
  let sbit := if neg then 2 ^ (eb + mb) else 0
  if m = 0 ∧ st = false then sbit
  else
    let top : Int := if m = 0 then e else (Nat.log2 m : Int) + e
    let emin : Int := 1 - (bias : Int)
    let lead := if top < emin then emin else top
    let q := lead - mb
    let n := roundAt mode neg m e q st
    -- n · 2^q, n at most 2^(mb+1); its encoding counts on from the encodings below it
    let code : Int := if n < 2 ^ mb then (n : Int) else (lead + bias - 1) * (2 ^ mb : Nat) + n
    if code ≤ (maxFlt eb mb special : Nat) then sbit + code.toNat
    else if sat || special = 0 || overStays mode neg then sbit + maxFlt eb mb special
    else if special = 1 then nanFlt eb mb special
    else sbit + infFlt eb mb special

/-- The magnitudes that ts4 and ts8 represent, in eighths, rising. -/
def tsSet (two : Bool) : List Nat :=
  let t := [0, 1, 2, 4, 8, 16, 32, 64]
  if two then (List.range 129).filter (fun v => t.any (fun a => t.any (fun b => a + b == v || a == v + b)))
  else t

/-- A magnitude of ts4 or ts8 in eighths, nearest to m · 2^e by a mode; ties go away from zero. -/
def roundTs (two : Bool) (mode : Nat) (neg : Bool) (m : Nat) (e : Int) (st : Bool) : Nat :=
  let set := tsSet two
  -- compare in units of 2^(e or −3, the lower), doubled so that st is a half
  let q := if e ≤ -3 then e else -3
  let x := 2 * (m * 2 ^ (e - q).toNat) + (if st then 1 else 0)
  let u := fun (v : Nat) => 2 * (v * 2 ^ (-3 - q).toNat)
  let lo := (set.filter (fun v => decide (u v ≤ x))).foldl Nat.max 0
  match set.find? (fun v => decide (u v ≥ x)) with
  | none => lo
  | some hi =>
    if u lo = x then lo
    else match mode with
      | 1 => lo
      | 2 => if neg then lo else hi
      | 3 => if neg then hi else lo
      | _ => if 2 * x ≥ u lo + u hi then hi else lo

/-- The ts4 code of a term magnitude in eighths. -/
def ts4Code (v : Nat) : Nat := if v = 0 then 0 else Nat.log2 v + 1

/-- The canonical ts8 encoding of a magnitude in eighths with a sign (14 R297). -/
def ts8Code (v : Nat) (neg : Bool) : Nat :=
  let s := fun (n : Bool) => if n then 8 else 0
  if v = 0 then 0
  else if [1, 2, 4, 8, 16, 32, 64].contains v then (ts4Code v + s neg) * 16
  else match [64, 32, 16, 8, 4, 2, 1].find? (fun a => [64, 32, 16, 8, 4, 2, 1].any (fun b =>
      decide (b ≤ a) && (a + b == v || a == v + b))) with
    | none => 0
    | some a =>
      if a < v then (ts4Code a + s neg) * 16 + ts4Code (v - a) + s neg
      else (ts4Code a + s neg) * 16 + ts4Code (a - v) + s (!neg)

/-- An integer in an n-bit format: clamped, or modulo 2^n. -/
def fitInt (n : Nat) (signed sat : Bool) (i : Int) : Nat :=
  let lo : Int := if signed then -(2 ^ (n - 1) : Nat) else 0
  let hi : Int := if signed then (2 ^ (n - 1) : Nat) - 1 else (2 ^ n : Nat) - 1
  let v := if sat then (if i < lo then lo else if i > hi then hi else i) else i
  (v % (2 ^ n : Nat)).toNat

/-- A signed integer from a sign and a magnitude. -/
def signedInt (neg : Bool) (n : Nat) : Int := if neg then -(n : Int) else n

/-- round and roundsat of a finite value that is m · 2^e with more below it when st holds, to the encoding of a format
(14 R303, R304). An exa destination has the binary point bp. -/
def roundFin (c mode : Nat) (sat : Bool) (bp : Int) (neg : Bool) (m : Nat) (e : Int) (st : Bool) : Nat :=
  match kindOf c with
  | .flt eb mb b sp => roundFlt eb mb b sp mode sat neg m e st
  | .int n sg => fitInt n sg sat (signedInt neg (roundAt mode neg m e 0 st))
  | .b1 => if neg && (m != 0 || st) then 1 else 0
  | .ts4 => let v := roundTs false mode neg m e st; if v = 0 then 0 else ts4Code v + (if neg then 8 else 0)
  | .ts8 => ts8Code (roundTs true mode neg m e st) neg
  | .mxi8 => fitInt 8 true sat (signedInt neg (roundAt mode neg m (e + 6) 0 st))
  | .exa => fitInt 64 true true (signedInt neg (roundAt mode neg m (e + bp) 0 st))
  | .raw => 0
  | .bad => 0

/-- Conversion of an exact value to a format (14 Table 14-8). -/
def encodeVal (c mode : Nat) (sat : Bool) (bp : Int) (v : Val) : Nat :=
  match v with
  | .fin neg m e => roundFin c mode sat bp neg m e false
  | .inf neg =>
    match kindOf c with
    | .flt eb mb _ sp =>
      (if neg then 2 ^ (eb + mb) else 0) + (if sp = 2 then infFlt eb mb sp else maxFlt eb mb sp)
    | .int n sg => fitInt n sg true (signedInt neg (2 ^ 80))
    | .b1 => if neg then 1 else 0
    | .ts4 => if neg then 15 else 7
    | .ts8 => if neg then 0xFF else 0x77
    | .mxi8 => fitInt 8 true true (signedInt neg (2 ^ 80))
    | .exa => fitInt 64 true true (signedInt neg (2 ^ 80))
    | _ => 0
  | .nan => match kindOf c with
    | .flt eb mb _ sp => nanFlt eb mb sp
    | _ => 0

/-- A value after a floating-point format's subnormal is read as a zero of its sign (14 R292). -/
def flushCode (c x : Nat) : Nat :=
  match kindOf c with
  | .flt eb mb _ _ => if x / 2 ^ mb % 2 ^ eb = 0 then x / 2 ^ (eb + mb) % 2 * 2 ^ (eb + mb) else x
  | _ => x

/-! ## Correctly rounded functions (14 R305) -/

/-- An interval that holds an exact positive value: [lo, hi] · 2^(−p). -/
abbrev Ivl := Nat × Nat

/-- Bounds of Σ_{k=1}^{n} 1/(k·2^k) = ln 2, p fraction bits, n terms. -/
def ln2Sum (p : Nat) : Nat → Nat
  | 0 => 0
  | n + 1 => 2 ^ p / ((n + 1) * 2 ^ (n + 1)) + ln2Sum p n
def ln2Ivl (p : Nat) : Ivl := (ln2Sum p p, ln2Sum p p + p + 2)

/-- Σ x^k/k! for k from i on, n terms, t the term x^i/i!; x and t with p fraction bits, rounded down. -/
def expSum (p x i t : Nat) : Nat → Nat
  | 0 => 0
  | n + 1 => t + expSum p x (i + 1) (t * x / 2 ^ p / (i + 1)) n
/-- e^x for 0 ≤ x ≤ 1: rounding down loses less than n·e units, the tail less than one. -/
def expIvl (p : Nat) (x : Ivl) : Ivl :=
  (expSum p x.1 0 (2 ^ p) (p + 4), expSum p x.2 0 (2 ^ p) (p + 4) + 4 * p + 32)

/-- Σ t^(2k+1)/(2k+1), n terms from k on, u the power t^(2k+1), t2 = t²; p fraction bits. -/
def atanhSum (p t2 k u : Nat) : Nat → Nat
  | 0 => 0
  | n + 1 => u / (2 * k + 1) + atanhSum p t2 (k + 1) (u * t2 / 2 ^ p) n
/-- ln(m / 2^r) for 1 ≤ m/2^r < 2, as 2·atanh((m − 2^r)/(m + 2^r)). -/
def lnIvl (p m r : Nat) : Ivl :=
  let t := (m - 2 ^ r) * 2 ^ p / (m + 2 ^ r)
  let s := atanhSum p (t * t / 2 ^ p) 0 t p
  (2 * s, 2 * s + 8 * p + 16)

/-- An exact magnitude known to lie strictly inside [lo, hi] · 2^e is rounded; none while the two ends disagree or the
interval is too coarse. -/
def roundIvl (c mode : Nat) (sat neg : Bool) (lo hi : Nat) (e : Int) : Option Nat :=
  let a := roundFin c mode sat 0 neg lo e true
  let b := roundFin c mode sat 0 neg (hi - 1) e true
  if a = b ∧ 2 ^ 60 ≤ lo then some a else none

/-- The first precision, of those listed, that decides a result; the last decides by its lower end. -/
def decideAt (f : Nat → Option Nat) (last : Nat) : List Nat → Nat
  | [] => last
  | p :: r => match f p with
    | some x => x
    | none => decideAt f last r

/-- 2^x for a finite x = ±m·2^e that is not an integer: a magnitude interval times 2^k. -/
def exp2Ivl (p : Nat) (neg : Bool) (m : Nat) (e : Int) : Nat × Nat × Int :=
  let x := alignTo neg m e (if e ≤ 0 then e else 0)
  let den : Int := (2 ^ (if e ≤ 0 then (-e).toNat else 0) : Nat)
  let n := x.fdiv den
  let f := (x - n * den).toNat
  let l := ln2Ivl p
  let y := (f * l.1 / den.toNat, f * l.2 / den.toNat + 1)
  let r := expIvl p y
  (r.1, r.2, n - p)

/-- e^(−x) for a finite positive x = m·2^e below 2^11: through 2^(−x / ln 2). -/
def expNegIvl (p : Nat) (m : Nat) (e : Int) : Ivl :=
  -- x in p bits; x = n·ln 2 + g with 0 ≤ g < ln 2; e^(−x) = 2^(−n)·e^(−g), e^(−g) = 1/e^g
  let x := if e < 0 then m * 2 ^ p / 2 ^ (-e).toNat else m * 2 ^ p * 2 ^ e.toNat
  let l := ln2Ivl p
  let n := x / l.2
  let g := (x - n * l.2, x + 1 - n * l.1)
  let r := expIvl p g
  (2 ^ (2 * p) / r.2 / 2 ^ n, 2 ^ (2 * p) / r.1 / 2 ^ n + 1)

/-- The precisions tried. -/
def precisions : List Nat := [96, 224, 480, 1200]

/-- x / y of finite values, y not zero: quotient bits and whether more lies below. -/
def divFin (m : Nat) (e : Int) (n : Nat) (f : Int) : Nat × Int × Bool :=
  let k := 160 + Nat.log2 n
  (m * 2 ^ k / n, e - f - k, m * 2 ^ k % n != 0)

/-- fdiv. -/
def fdivVal (c mode : Nat) (sat : Bool) (x y : Val) : Nat :=
  match x, y with
  | .nan, _ => encodeVal c mode sat 0 .nan
  | _, .nan => encodeVal c mode sat 0 .nan
  | .inf _, .inf _ => encodeVal c mode sat 0 .nan
  | .inf a, .fin b _ _ => encodeVal c mode sat 0 (.inf (Bool.xor a b))
  | .fin a _ _, .inf b => encodeVal c mode sat 0 (.fin (Bool.xor a b) 0 0)
  | .fin a m e, .fin b n f =>
    if n = 0 then (if m = 0 then encodeVal c mode sat 0 .nan else encodeVal c mode sat 0 (.inf (Bool.xor a b)))
    else if m = 0 then encodeVal c mode sat 0 (.fin (Bool.xor a b) 0 0)
    else let q := divFin m e n f; roundFin c mode sat 0 (Bool.xor a b) q.1 q.2.1 q.2.2

/-- The integer square root, one bit of the result at a time from bit k − 1 down; r the root so far. -/
def sqrtBits (v r : Nat) : Nat → Nat
  | 0 => r
  | k + 1 => let t := r + 2 ^ k; if t * t ≤ v then sqrtBits v t k else sqrtBits v r k

/-- fsqrt. -/
def fsqrtVal (c mode : Nat) (sat : Bool) (x : Val) : Nat :=
  match x with
  | .nan => encodeVal c mode sat 0 .nan
  | .inf n => encodeVal c mode sat 0 (if n then .nan else .inf false)
  | .fin n m e =>
    if m = 0 then encodeVal c mode sat 0 (.fin n 0 0)
    else if n then encodeVal c mode sat 0 .nan
    else
      let e2 := if e % 2 = 0 then e else e - 1
      let v := (if e % 2 = 0 then m else 2 * m) * 2 ^ 256
      let r := sqrtBits v 0 (Nat.log2 v / 2 + 1)
      roundFin c mode sat 0 false r (e2 / 2 - 128) (r * r != v)

/-- fexp2. -/
def fexp2Val (c mode : Nat) (sat : Bool) (x : Val) : Nat :=
  match x with
  | .nan => encodeVal c mode sat 0 .nan
  | .inf n => encodeVal c mode sat 0 (if n then .fin false 0 0 else .inf false)
  | .fin n m e =>
    if m = 0 then encodeVal c mode sat 0 (Val.ofInt 1)
    else if (Nat.log2 m : Int) + e ≥ 12 then roundFin c mode sat 0 false 1 (if n then -4096 else 4096) true
    else if e ≥ 0 ∨ m % 2 ^ (-e).toNat = 0 then
      encodeVal c mode sat 0 (.fin false 1 (alignTo n m e (if e ≤ 0 then e else 0) / (2 ^ (if e ≤ 0 then (-e).toNat else 0) : Nat)))
    else if (Nat.log2 m : Int) + e < -200 then
      (if n then roundFin c mode sat 0 false (2 ^ 200 - 1) (-200) true else roundFin c mode sat 0 false (2 ^ 200) (-200) true)
    else
      let f := fun p => let r := exp2Ivl p n m e; roundIvl c mode sat false r.1 r.2.1 r.2.2
      let r := exp2Ivl 1200 n m e
      decideAt f (roundFin c mode sat 0 false r.1 r.2.2 true) precisions

/-- flog2. -/
def flog2Val (c mode : Nat) (sat : Bool) (x : Val) : Nat :=
  match x with
  | .nan => encodeVal c mode sat 0 .nan
  | .inf n => encodeVal c mode sat 0 (if n then .nan else .inf false)
  | .fin n m e =>
    if m = 0 then encodeVal c mode sat 0 (.inf true)
    else if n then encodeVal c mode sat 0 .nan
    else
      let r := Nat.log2 m
      let k : Int := e + r
      if m = 2 ^ r then encodeVal c mode sat 0 (Val.ofInt k)
      else
        let bounds := fun (p : Nat) =>
          let l := lnIvl p m r
          let d := ln2Ivl p
          let lo : Int := k * (2 ^ p : Nat) + (l.1 * 2 ^ p / d.2 : Nat)
          let hi : Int := k * (2 ^ p : Nat) + (l.2 * 2 ^ p / d.1 + 1 : Nat)
          (lo, hi)
        let f := fun (p : Nat) =>
          let b := bounds p
          if b.1 ≥ 0 then roundIvl c mode sat false b.1.toNat b.2.toNat (-(p : Int))
          else if b.2 ≤ 0 then roundIvl c mode sat true (-b.2).toNat (-b.1).toNat (-(p : Int))
          else none
        let b := bounds 1200
        decideAt f (roundFin c mode sat 0 (decide (b.1 < 0)) b.1.natAbs (-1200) true) precisions

/-- ftanh. -/
def ftanhVal (c mode : Nat) (sat : Bool) (x : Val) : Nat :=
  match x with
  | .nan => encodeVal c mode sat 0 .nan
  | .inf n => encodeVal c mode sat 0 (Val.ofInt (if n then -1 else 1))
  | .fin n m e =>
    if m = 0 then encodeVal c mode sat 0 (.fin n 0 0)
    else if (Nat.log2 m : Int) + e ≥ 8 then roundFin c mode sat 0 n (2 ^ 200 - 1) (-200) true
    else if (Nat.log2 m : Int) + e < -60 then roundFin c mode sat 0 n (m * 2 ^ 64 - 1) (e - 64) true
    else
      -- (1 − w)/(1 + w) with w = e^(−2x)
      let bounds := fun (p : Nat) =>
        let w := expNegIvl p m (e + 1)
        ((2 ^ p - w.2) * 2 ^ p / (2 ^ p + w.2), (2 ^ p - w.1) * 2 ^ p / (2 ^ p + w.1) + 1)
      let f := fun (p : Nat) => let b := bounds p; roundIvl c mode sat n b.1 b.2 (-(p : Int))
      decideAt f (roundFin c mode sat 0 n (bounds 1200).1 (-1200) true) precisions

/-- fsig. -/
def fsigVal (c mode : Nat) (sat : Bool) (x : Val) : Nat :=
  match x with
  | .nan => encodeVal c mode sat 0 .nan
  | .inf n => encodeVal c mode sat 0 (if n then .fin false 0 0 else Val.ofInt 1)
  | .fin n m e =>
    if m = 0 then encodeVal c mode sat 0 (.fin false 1 (-1))
    else if (Nat.log2 m : Int) + e ≥ 9 then
      (if n then roundFin c mode sat 0 false 1 (-700) true else roundFin c mode sat 0 false (2 ^ 200 - 1) (-200) true)
    else if (Nat.log2 m : Int) + e < -200 then
      (if n then roundFin c mode sat 0 false (2 ^ 200 - 1) (-201) true else roundFin c mode sat 0 false (2 ^ 200) (-201) true)
    else
      -- w = e^(−|x|): 1/(1 + w) for positive x, w/(1 + w) for negative x
      let bounds := fun (p : Nat) =>
        let w := expNegIvl p m e
        if n then (w.1 * 2 ^ p / (2 ^ p + w.1), w.2 * 2 ^ p / (2 ^ p + w.2) + 1)
        else (2 ^ (2 * p) / (2 ^ p + w.2), 2 ^ (2 * p) / (2 ^ p + w.1) + 1)
      let f := fun (p : Nat) => let b := bounds p; roundIvl c mode sat false b.1 b.2 (-(p : Int))
      decideAt f (roundFin c mode sat 0 false (bounds 1200).1 (-1200) true) precisions

/-! ## Smaller, larger, and combine (14 R308; 20 R418) -/

/-- x before y, −0 before +0, for values that are not NaN. -/
def Val.before (x y : Val) : Bool := decide (x.cmp y < 0) || (x.isZero && y.isZero && x.sign && !y.sign)

/-- fmin or fmax: a NaN operand is ignored. -/
def Val.pick (big : Bool) (x y : Val) : Val :=
  if x.isNaN then y else if y.isNaN then x
  else if big then (if x.before y then y else x) else (if y.before x then y else x)

/-- combine of two elements of a format: op 1 sum, 2 max, 3 min (14 R308). -/
def combineCode (c mode : Nat) (sat : Bool) (op l r : Nat) : Nat :=
  match kindOf c with
  | .int n sg =>
    let v := fun (x : Nat) => if sg then sintOf x n else ((x % 2 ^ n : Nat) : Int)
    if op = 1 then fitInt n sg sat (v l + v r)
    else if decide (op = 2) == decide (v l < v r) then r % 2 ^ n else l % 2 ^ n
  | _ =>
    let x := decodeVal c l
    let y := decodeVal c r
    encodeVal c mode sat 0 (if op = 1 then Val.add (mode == 3) x y else Val.pick (op == 2) x y)

/-! ## Reduction trees (14 R308) -/

/-- The largest power of two below n, for n at least 2. -/
def halfOf (n : Nat) : Nat := 2 ^ Nat.log2 (n - 1)

/-- tree over a list, by fuel: the list is split at the largest power of two below its length. -/
def treeOf (f : Nat → Nat → Nat) (z : Nat) : Nat → List Nat → Nat
  | 0, l => l.headD z
  | _ + 1, [] => z
  | _ + 1, [x] => x
  | k + 1, l => f (treeOf f z k (l.take (halfOf l.length))) (treeOf f z k (l.drop (halfOf l.length)))

/-- The n elements of w bits of a number, the lowest first. -/
def splitN (w v : Nat) : Nat → List Nat
  | 0 => []
  | n + 1 => v % 2 ^ w :: splitN w (v / 2 ^ w) n

/-- A number from its elements of w bits, the lowest first. -/
def joinN (w : Nat) : List Nat → Nat
  | [] => 0
  | x :: r => x % 2 ^ w + 2 ^ w * joinN w r

end Sys2Proof.Machine
end

