-- ==== Sys2Proof/Machine/Engine.lean ====
section
/-! DEFINITION. The engines of the access cores (06 R123 to R126, R132; 07 R148 to R152; 18 R378 to R386): command blocks,
their translated accesses, streams, copies and collective steps, and the instructions that enter and watch commands. -/

namespace Sys2Proof.Machine

/-- What every meaning answers. -/
abbrev EngResult := Host.Outcome State Fault Refusal

/-! ## Command blocks (18 R378, Tables 18-6, 18-8, 18-9) -/

def ctypeOf (ws : List Word) : Nat := bits (ws.getD 0 0) 60 4

/-- A stream descriptor is within its limits; prot tells whether it is of a protected load's feed group. -/
def streamOk (ws : List Word) (prot : Bool) : Bool :=
  let d := fun i => ws.getD i 0
  let esz := bits (d 0) 51 3
  let gather := bit (d 0) 59
  let drain := bit (d 0) 58
  let cfg := qidCfg (d 2)
  ctypeOf ws == 1 && bits (d 0) 24 12 == 0 && decide (esz ≤ 5) && !(gather && drain) &&
    bits (d 1) 56 8 == 0 && (d 1).toNat % 2 ^ esz == 0 &&
    bits (d 3) 0 32 != 0 && bits (d 3) 32 32 != 0 && bits (d 4) 0 32 != 0 && bits (d 4) 32 32 != 0 &&
    (!gather || (d 6 == 0 && (!bit (d 0) 57 || bits (d 5) 0 2 == 0))) &&
    bits (d 7) 56 8 == 0 && bits (d 7) 0 5 == 0 && (bits (d 0) 0 24 == 0 || prot) && !(cfg && (drain || esz != 2))

/-- Formats a collective may combine (Table 18-8). -/
def copyFmt (f : Nat) : Bool := f == 0x06 || f == 0x07 || f == 0x08 || f == 0x09 || f == 0x18 || f == 0x19

/-- A copy descriptor is within its limits, but for its buffers; self is this package. -/
def copyOk (ws : List Word) (self : Nat) : Bool :=
  let d := fun i => ws.getD i 0
  let role := bits (d 0) 55 2
  let op := bits (d 0) 52 3
  let addr := fun (w : Word) (used : Bool) => if used then bits w 56 8 == 0 && bits w 0 6 == 0 else w == 0
  ctypeOf ws == 2 && bits (d 0) 0 18 == 0 && decide (role ≤ 2) && decide (op ≤ 3) &&
    (op == 0 || copyFmt (bits (d 0) 46 6)) &&
    addr (d 1) (role != 2) && addr (d 2) (role != 1) && addr (d 3) (op != 0 && role != 1) &&
    bits (d 4) 40 24 == 0 && bits (d 4) 0 6 == 0 && bits (d 4) 0 40 != 0 &&
    bits (d 5) 56 8 == 0 && bits (d 5) 0 5 == 0 && d 6 == 0 && addr (d 7) true &&
    (role == 0 || bits (d 0) 30 10 != self)

/-- A step's destination overlaps its source or its operand (02 R42). -/
def copyOverlaps (ws : List Word) : Bool :=
  let d := fun i => (ws.getD i 0).toNat
  let role := bits (ws.getD 0 0) 55 2
  let op := bits (ws.getD 0 0) 52 3
  let n := bits (ws.getD 4 0) 0 40
  (role == 0 && overlap (d 2) n (d 1) n) || (role != 1 && op != 0 && overlap (d 2) n (d 3) n)

/-- A thread command is within its limits. -/
def threadOk (ws : List Word) : Bool :=
  let d := fun i => ws.getD i 0
  ctypeOf ws == 3 && bits (d 0) 0 60 == 0 && bits (d 1) 56 8 == 0 && bits (d 1) 0 2 == 0 &&
    d 3 == 0 && d 4 == 0 && d 5 == 0 && d 6 == 0 && d 7 == 0

/-- NEXT of a copy descriptor. -/
def nextOf (ws : List Word) : Word := ws.getD 7 0

/-! ## An engine's accesses (07 R136, R148; 11 R229, R241) -/

/-- What an access of an engine meets. -/
inductive EGot where
  | data (v : Nat) (pois : Bool)
  | fault (reason level : Nat)
  | stop
  | wait
  deriving DecidableEq, Repr

/-- The translation of a command's access, in the mode it captured and without the bypass of R147. -/
def State.engXlate (s : State) (c : Nat) (m : Cmd) (va : Word) (acc : Nat) : State × XRes :=
  let asid := bits m.asid 0 16
  if outside va then (s, .fault 1 0)
  else match s.tlbGives (s.die (dieOfCore c)).tlb2 asid va.toNat acc m.mode with
    | some r => (s, .ok r.1 r.2)
    | none => s.walkAs (dieOfCore c) (engineParty c) asid m.ptb va acc m.mode

/-- A line that has come from afar for an engine. -/
def State.gotLine (s : State) (c eid line : Nat) : Option EData :=
  (s.core c).got.find? (fun e => e.eid == eid && e.line == line)

/-- The lines that the stream engine of a core has asked for and that have not come (06 Table 06-7). -/
def State.lineRequests (s : State) (c : Nat) : Nat :=
  ((s.core c).asked.filter (fun e => eidOfStream e.1 && !(s.core c).got.any (fun g => g.eid == e.1 && g.line == e.2))).length

/-- An engine has asked for a line and not used it yet. -/
def State.hasAsked (s : State) (c eid line : Nat) : Bool := (s.core c).asked.contains (eid, line)

/-- A line is asked for once, of another package or of the host; the stream engine asks for no more than 512 at once. -/
def State.askLine (s : State) (c eid : Nat) (r : Route) : State :=
  let line := lineOf r.key
  if s.hasAsked c eid line ∨ (eidOfStream eid ∧ 512 ≤ s.lineRequests c) then s
  else
    let s := s.setCore c { s.core c with asked := (eid, line) :: (s.core c).asked }
    match r with
    | .remote a => (s.sendRemote 5 c eid 0 (a - a % 64) [64]).1
    | .host h => (s.sendHost 5 c eid (h - h % 64) (fun id => .hostRead id (h - h % 64) 64)).1
    | _ => s

/-- A line from afar, once it has come. It stands until it is used. -/
def State.farLine (s : State) (c eid : Nat) (r : Route) : State × EGot :=
  match s.gotLine c eid (lineOf r.key) with
  | some e => (s, if e.bad then .stop else .data e.data e.pois)
  | none => (s.askLine c eid r, .wait)

/-- A line from afar has been used. -/
def State.used (s : State) (c eid line : Nat) : State :=
  if s.hasAsked c eid line then
    s.setCore c { s.core c with
      got := (s.core c).got.filter (fun f => !(f.eid == eid && f.line == line)),
      asked := (s.core c).asked.filter (fun f => f != (eid, line)) }
  else s

/-- The line key that a virtual address has for an engine, where it translates now. -/
def State.engKey (s : State) (c : Nat) (m : Cmd) (va : Word) : Nat :=
  match s.tlbGives (s.die (dieOfCore c)).tlb2 (bits m.asid 0 16) va.toNat 0 m.mode with
  | some r => (match s.routeOf r.1 r.2 with | some t => lineOf t.key | none => 0)
  | none => 0

/-- An engine reads the line that holds a virtual address. -/
def State.engLine (s : State) (c eid : Nat) (m : Cmd) (va : Word) : State × EGot :=
  let q := s.engXlate c m va 0
  match q.2 with
  | .fault r l => (q.1, .fault r l)
  | .perm => (q.1, .stop)
  | .held _ => (q.1, .wait)
  | .miss => (q.1, .wait)
  | .ok pa mt =>
    let s := q.1
    match s.routeOf pa mt with
    | none => (s, .stop)
    | some (.ctl _) => (s, .stop)
    | some (.dram off) =>
      if s.stackRefused (bits m.asid 0 16) pa then (s, .stop)
      else if s.mustSnoop (lineOf off) false then (s.askHost (lineOf off), .wait)
      else (s, .data (s.homeLine (lineOf off)).toNat (s.poisoned pa))
    | some (.remote a) => if s.reachable (a / 2 ^ 46 % 1024) then s.farLine c eid (.remote a) else (s, .stop)
    | some (.host a) => s.farLine c eid (.host a)

/-- The doublewords of the n low bytes of a number. -/
def dwords (v n : Nat) : List Nat := splitN 64 v ((n + 7) / 8)

/-- The command is of the feed group of a protected load: that load. -/
def State.protOf (s : State) (m : Cmd) : Option Nat :=
  if m.load = 0 then none
  else match s.load m.load with
    | some l => if l.prot then some m.load else none
    | none => none

/-- The segment in which a copy's writes and its record stand (12 R267): that in which it was issued, or the first one that
has not committed (log 19). -/
def State.cmdWave (s : State) (m : Cmd) : Nat :=
  match s.load m.load with | some l => max m.wave (l.wave + 1) | none => m.wave

/-- A write of an engine to another package or to the host is under way. -/
def State.pending (s : State) (c eid : Nat) : State :=
  s.setCore c { s.core c with pendW := Tab.set 0 (s.core c).pendW eid (Tab.get 0 (s.core c).pendW eid + 1) }

/-- Where an engine's write in one line goes, or what keeps it from going (07 R140; 12 R265, R270; 03 R50). -/
inductive EWhere where
  | to (r : Route)
  | not (g : EGot)
  deriving DecidableEq, Repr

/-- The checks of an engine's write at a virtual address: nothing has been written yet. -/
def State.engWhere (s : State) (c : Nat) (m : Cmd) (va : Word) : State × EWhere :=
  let q := s.engXlate c m va 1
  match q.2 with
  | .fault r l => (q.1, .not (.fault r l))
  | .perm => (q.1, .not .stop)
  | .held _ => (q.1, .not .wait)
  | .miss => (q.1, .not .wait)
  | .ok pa mt =>
    let s := q.1
    let prot := s.protOf m
    if prot.isSome && mt != 5 then (s, .not .stop)
    else match s.routeOf pa mt with
    | none => (s, .not .stop)
    | some (.ctl _) => (s, .not .stop)
    | some (.dram off) =>
      if s.stackRefused (bits m.asid 0 16) pa then (s, .not .stop)
      else if s.conflicts prot (lineOf off) then (s, .not .stop)
      else if prot.isNone ∧ s.mustSnoop (lineOf off) true then (s.askHost (lineOf off), .not .wait)
      else (s, .to (.dram off))
    | some (.remote a) =>
      if s.reachable (a / 2 ^ 46 % 1024) = false then (s, .not .stop)
      else if s.conflicts prot (lineOf (Route.remote a).key) then (s, .not .stop)
      else (s, .to (.remote a))
    | some (.host h) => (s, .to (.host h))

/-- An engine writes the n low bytes of v where its checks sent it, all in one line; pois poisons the line (12 R263, R267).
A segment's write is provisional wherever its line lies (log 69). -/
def State.engPut (s : State) (c eid : Nat) (m : Cmd) (wave : Nat) (r : Route) (n v : Nat) (pois : Bool) : State :=
  match s.protOf m, r with
  | some l, _ => s.provStore (slotKey c 0) l wave (lineOf r.key) (lineBytes (r.key % 64) v n) pois false
  | none, .dram off =>
    let s := s.store none off n v
    if pois then s.setPoison (lineOf off) true else s
  | none, .remote a => ((s.pending c eid).sendRemote 6 c eid 2 a ((n + (if pois then 256 else 0)) :: dwords v n)).1
  | none, .host h => ((s.pending c eid).sendHost 6 c eid h (fun id => .hostWrite id h (2 ^ n - 1) (dwords v n) (n == 64))).1
  | none, .ctl _ => s

/-- An engine writes the n low bytes of v at a virtual address, all in one line. -/
def State.engWrite (s : State) (c eid : Nat) (m : Cmd) (wave : Nat) (va : Word) (n v : Nat) (pois : Bool) : State × EGot :=
  let q := s.engWhere c m va
  match q.2 with
  | .not g => (q.1, g)
  | .to r => (q.1.engPut c eid m wave r n v pois, .data 0 false)

/-- The tag of a command in its issuer's pending list. -/
def cmdTag (c kind num : Nat) : Nat := 1 + (c * 4 + kind) * 4096 + num % 4096

/-- The thread that issued a command takes a cause. -/
def State.tellIssuer (s : State) (c : Nat) (m : Cmd) (cause : Nat) (tval : Word) : State :=
  s.pend m.by_ cause tval (cmdTag c m.kind m.num)

/-! ## Block reads by a thread (18 R383) -/

/-- A thread reads the 64-byte block at a virtual address, as a load that forwards its own stores, and goes on with its
doublewords. A block of another package or of the host is read once the thread's own stores to it have performed (11 R230,
R236). -/
def State.readBlock (s : State) (va : Word) (f : State → List Word → State) : State :=
  let k := s.cur
  let c := s.myCore
  if aligned va 64 = false then s.raise 0x03 va
  else s.withXlate va 0 (fun pa mt =>
    if s.refused k va pa mt then s.raise 0x07 va
    else match s.routeOf pa mt with
    | none => s.raise 0x07 va
    | some (.ctl _) => s.raise 0x03 va
    | some (.dram off) =>
      if s.poisoned pa then s.raise 0x08 va
      else if s.me.outs.any (fun o => !o.isPf && overlap o.key o.size off 64) then s
      else if mt = 2 ∧ (s.mt2Clear k s.me.seq = false ∨ s.earlierStore k s.me.seq off 64) then s.force k
      else if s.mustSnoop (lineOf off) false then s.askHost (lineOf off)
      else f s ((splitN 64 (s.view k off 64) 8).map (BitVec.ofNat 64))
    | some r =>
      match s.gotLine c (eidSlot (k % 16)) (lineOf r.key) with
      | some e =>
        if e.bad then s.raise 0x17 va
        else if e.pois then s.raise 0x08 va
        else f s ((splitN 64 e.data 8).map (BitVec.ofNat 64))
      | none =>
        if s.me.outs.any (fun o => !o.isPf && overlap o.key o.size r.key 64) then s
        else if s.earlierStore k s.me.seq r.key 64 ∨ (mt = 2 ∧ s.mt2Clear k s.me.seq = false) then s.forceAll k
        else match r with
        | .remote a =>
          let q := s.sendRemote 5 c (eidSlot (k % 16)) 0 a [64]
          q.1.setMe { q.1.me with wait := .remote q.2 }
        | .host h =>
          let q := s.sendHost 5 c (eidSlot (k % 16)) h (fun id => .hostRead id h 64)
          q.1.setMe { q.1.me with wait := .host q.2 }
        | _ => s)

/-- A thread reads a chain of copy descriptors, at most n more (18 R381). -/
def State.readChain (s : State) (head va : Word) (got : List (List Word)) (f : State → List (List Word) → State) :
    Nat → State
  | 0 => s.raise 0x11 (descTval 0x08 head.toNat)
  | n + 1 => s.readBlock va (fun s ws =>
      if copyOk ws s.pkg.pkgNo = false then s.raise 0x11 (descTval 0x08 va.toNat)
      else if copyOverlaps ws then s.raise 0x11 (descTval 0x0A va.toNat)
      else if nextOf ws = 0 then f s (got ++ [ws])
      else State.readChain s head (nextOf ws) (got ++ [ws]) f n)

/-! ## Entering commands -/

/-- A command of the executing thread. -/
def State.cmdOf (s : State) (kind num : Nat) (blk : Word) (words : List (List Word)) : Cmd :=
  let x := s.me
  { kind := kind, num := num, blk := blk, words := words, asid := x.asid, ptb := x.ptbase, mode := x.mode, by_ := s.cur,
    epc := s.pc, insn := x.word, load := x.feedOf, task := x.task,
    wave := if s.isProtFeed s.cur then x.marks + 1 else 0, dead := false }

/-- The executing thread blocks until an engine queue has room. -/
def State.blockEngine (s : State) (c : Nat) : State :=
  let x := s.me
  let again := x.wait == .engine c
  s.setMe { x with st := .blockedQueue, wait := .engine c, since := if again then x.since else s.cycle,
                   probed := again && x.probed }

/-- A command enters an engine queue. -/
def State.enterCmd (s : State) (c : Nat) (m : Cmd) : State :=
  let s := s.setCore c { s.core c with engq := (s.core c).engq ++ [m] }
  s.setMe { s.me with st := .ready, wait := .none, probed := false }

/-- A handle (Table 18-10). -/
def handleOf (c kind num : Nat) : Word := field 40 8 c ||| field 32 8 kind ||| field 0 32 num

/-- What keeps an identifier in a stream descriptor from being used: cause, reason and address of its TVAL (18 R378); a
die queue of another address space takes cause 0x07 as a load of another does (18 R371). -/
def State.streamQid (s : State) (d : Nat) (q : Word) (cfg : Bool) (asid : Word) (feed : Nat) (blk : Word) :
    Option (Nat × Word) :=
  match s.qidFault q cfg (bits asid 0 16) feed with
  | some (c, r) =>
    if c = 0x07 then some (0x07, blk)
    else if r = 0x0C then some (0x11, descTval 0x0C (qidLoad q))
    else some (0x11, descTval 0x08 blk.toNat)
  | none =>
    let x := s.queue (queueKey d q false)
    if qidLoad q = 0 ∧ x.live ∧ x.asid ≠ asid then some (0x07, blk) else none

/-- What keeps a stream descriptor from being entered: the cause and TVAL. -/
def State.streamFault (s : State) (d : Nat) (ws : List Word) (asid : Word) (feed : Nat) (blk : Word) : Option (Nat × Word) :=
  let prot := match s.load feed with | some l => l.prot && feed != 0 | none => false
  if streamOk ws prot = false then some (0x11, descTval 0x08 blk.toNat)
  else match s.streamQid d (ws.getD 2 0) true asid feed blk with
  | some e => some e
  | none =>
    if bit (ws.getD 0 0) 59 ∧ bit (ws.getD 0 0) 57 = false then s.streamQid d (ws.getD 5 0) false asid feed blk else none

/-- The core's engine queue is full (Table 06-7). -/
def State.engFull (s : State) (c : Nat) : Bool := decide ((s.core c).engq.length ≥ 64)

/-- strm (18 R383). -/
def execStrm (d a : Nat) (s : State) : EngResult :=
  let blk := s.rg a
  let c := s.myCore
  .next (s.run [d, a] [(5, 0), (4, 1), (6, 1)]
    (s.readBlock blk (fun s ws =>
      match s.streamFault (dieOfCore c) ws s.me.asid s.me.feedOf blk with
      | some (cause, tv) => s.raise cause tv
      | none =>
        if s.engFull c then s.blockEngine c
        else
        let n := (s.core c).numStrm
        let s := s.enterCmd c (s.cmdOf 1 n blk [ws])
        let s := s.setCore c { s.core c with numStrm := (n + 1) % 2 ^ 32 }
        (s.wr d (handleOf c 1 n)).advance)))

/-- copy (18 R381, R383). -/
def execCopy (d a : Nat) (s : State) : EngResult :=
  let blk := s.rg a
  let c := s.myCore
  .next (s.run [d, a] [(5, 0), (4, 1), (6, 1)]
    (s.readChain blk blk [] (fun s wss =>
        if s.engFull c then s.blockEngine c
        else
        let n := (s.core c).numCopy
        let s := s.enterCmd c (s.cmdOf 2 n blk wss)
        let s := s.setCore c { s.core c with numCopy := (n + 1) % 2 ^ 32 }
        (s.wr d (handleOf c 2 n)).advance) 64))

/-- renq (18 R386). -/
def execRenq (a b : Nat) (s : State) : EngResult :=
  let c := (s.rg b).toNat
  .next (s.run [a, b] [(5, 0)]
    (if c ≥ 256 ∨ s.mappedOut c then s.raise 0x11 (descTval 0x0C (c % 2 ^ 16))
     else if s.allPerformed s.cur true = false then s.forceAll s.cur
     else if s.engFull c then s.blockEngine c
     else (s.enterCmd c (s.cmdOf 0 (2 ^ 32) (s.rg a) [])).advance))

/-! ## Waiting and polling (18 R384) -/

/-- The state of a command: 0 queued, 1 running, 2 parked, 3 complete, 4 stopped or failed. -/
def State.cmdState (s : State) (c kind num : Nat) : Nat :=
  let x := s.core c
  if x.engq.any (fun m => m.kind == kind && m.num == num) then 0
  else
    let strm := x.streams.filterMap (fun e => match e.2 with
      | some y => if kind = 1 ∧ y.cmd.num = num then some y.st else none
      | none => none)
    let copy := x.copies.filterMap (fun e => match e.2 with
      | some y => if kind = 2 ∧ y.cmd.num = num then some y.st else none
      | none => none)
    match (strm ++ copy).head? with
    | some st => if st = 2 then 2 else 1
    | none => match x.hist.find? (fun e => e.kind == kind && e.num == num) with
      | some e => if e.ok then 3 else 4
      | none => 3

/-- The cause 0x16 or 0x17 of a command has yet to be taken, by the thread that issued it. -/
def State.untold (s : State) (c kind num : Nat) : Bool :=
  s.slots.any (fun e => e.1 / 16 == c &&
    e.2.pend.any (fun p => p.src == cmdTag c kind num && (p.cause == 0x16 || p.cause == 0x17)))

/-- A wait on a handle would return now. -/
def State.cmdDone (s : State) (h : Word) : Bool :=
  decide (s.cmdState (bits h 40 8) (bits h 32 8) (bits h 0 32) ≥ 3) && !s.untold (bits h 40 8) (bits h 32 8) (bits h 0 32)

/-- A handle that does not fit: TVAL's address is not stated for it (log 12). -/
def State.badHandle (s : State) : State :=
  let f := s.free 1
  f.1.raise 0x11 (descTval 0x0B f.2)

/-- A handle is of this core and of a kind. -/
def State.handleOk (s : State) (h : Word) (kinds : List Nat) : Bool :=
  bits h 48 16 == 0 && bits h 40 8 == s.myCore && kinds.contains (bits h 32 8)

/-- strmwait or cwait. -/
def State.waitCmd (s : State) (a kind : Nat) : State :=
  let h := s.rg a
  let x := s.me
  s.run [a] [(5, 0)]
    (if s.handleOk h [kind] = false then s.badHandle
     else if s.cmdDone h then (s.setMe { x with st := .ready, wait := .none }).advance
     else s.setMe { x with st := .blockedWait, wait := .command h.toNat,
                           since := if x.wait = .command h.toNat then x.since else s.cycle })

def execStrmwait (a : Nat) (s : State) : EngResult := .next (s.waitCmd a 1)
def execCwait (a : Nat) (s : State) : EngResult := .next (s.waitCmd a 2)

/-- cpoll. -/
def execCpoll (d a : Nat) (s : State) : EngResult :=
  let h := s.rg a
  .next (s.run [d, a] [(5, 0)]
    (if s.handleOk h [1, 2] = false then s.badHandle
     else (s.wr d (BitVec.ofNat 64 (s.cmdState (bits h 40 8) (bits h 32 8) (bits h 0 32)))).advance))

/-! ## Streams: the walk (06 R124, 18 R379) -/

def Stream.gather (x : Stream) : Bool := bit (x.d 0) 59
def Stream.idxMem (x : Stream) : Bool := bit (x.d 0) 57
def Stream.esz (x : Stream) : Nat := 2 ^ bits (x.d 0) 51 3
def Stream.perWord (x : Stream) : Nat := 32 / x.esz
def Stream.pfd (x : Stream) : Nat := let n := bits (x.d 0) 36 11; if n = 0 then 1 else min n 256
def Stream.markInt (x : Stream) : Nat := bits (x.d 0) 0 24
def Stream.qid (x : Stream) : Word := x.d 2
def Stream.craddr (x : Stream) : Word := x.d 7
/-- COUNTk and STRIDEk. -/
def Stream.cnt (x : Stream) (k : Nat) : Nat := bits (x.d (3 + k / 2)) (32 * (k % 2)) 32
def Stream.str (x : Stream) (k : Nat) : Word := sext64 (bits (x.d (5 + k / 2)) (32 * (k % 2)) 32) 32
/-- The product of the counts of the k inner levels. -/
def Stream.inner (x : Stream) : Nat → Nat
  | 0 => 1
  | k + 1 => Stream.inner x k * x.cnt k
def Stream.total (x : Stream) : Nat := x.inner 4
/-- The index of level k at element e. -/
def Stream.ix (x : Stream) (e k : Nat) : Nat := e / x.inner k % x.cnt k
/-- The address of element e; a gather's index is given. -/
def Stream.addr (x : Stream) (e idx : Nat) : Word :=
  if x.gather then x.d 1 + BitVec.ofNat 64 (idx * x.esz)
  else x.d 1 + BitVec.ofNat 64 (x.ix e 0) * x.str 0 + BitVec.ofNat 64 (x.ix e 1) * x.str 1 +
    BitVec.ofNat 64 (x.ix e 2) * x.str 2 + BitVec.ofNat 64 (x.ix e 3) * x.str 3
/-- The address of the index of element e. -/
def Stream.idxAddr (x : Stream) (e : Nat) : Word := x.d 5 + BitVec.ofNat 64 (4 * e)
/-- The levels of the clasps that follow element e, inner first. -/
def Stream.clasps (x : Stream) (e : Nat) : List Nat :=
  ((List.range 4).filter (fun k => bit (x.d 0) (47 + k) && (e + 1) % x.inner (k + 1) == 0)).map (fun k => k + 1)

/-- The address of an element whose index, in a gather, is known. -/
def Stream.addrOf (x : Stream) (e : Nat) : Option Word :=
  if x.gather then (Tab.get none x.idx e).map (fun i => x.addr e i) else some (x.addr e 0)

/-- The first element from e on that is neither delivered nor held. -/
def Stream.missing (x : Stream) (e : Nat) : Nat → Nat
  | 0 => e
  | n + 1 => if (Tab.get none x.buf e).isSome then Stream.missing x (e + 1) n else e
/-- The element a stream fetches next. -/
def Stream.nextFetch (x : Stream) : Nat := x.missing x.pos (x.buf.length + 1)

/-- Fetching stops before this element. -/
def Stream.limit (x : Stream) : Nat := match x.fault with | some f => min f.pos x.total | none => x.total

/-- The last element of the run from e that lies wholly on one line, n more elements looked at. -/
def Stream.runEnd (x : Stream) (line e : Nat) : Nat → Nat
  | 0 => e
  | n + 1 =>
    if e + 1 < x.limit && (Tab.get none x.buf (e + 1)).isNone then
      match x.addrOf (e + 1) with
      | some a => if lineOf a.toNat = line && a.toNat % 64 + x.esz ≤ 64 then Stream.runEnd x line (e + 1) n else e
      | none => e
    else e

/-- Elements from e to last of a line enter the buffer. -/
def Stream.take (x : Stream) (e v : Nat) (pois : Bool) : Nat → Stream
  | 0 => x
  | n + 1 =>
    let a := match x.addrOf e with | some a => a.toNat % 64 | none => 0
    Stream.take { x with buf := Tab.set none x.buf e (some { val := v / 2 ^ (8 * a) % 2 ^ (8 * x.esz), pois := pois }) }
      (e + 1) v pois n

/-- The number of its word at position i of a word under way. -/
def Stream.partWord (x : Stream) : LW :=
  mkWord (BitVec.ofNat 256 (joinN (8 * x.esz) (x.part.map (fun e => e.val)))) (qidVc x.qid) 0 0 (qidRoute x.qid)

/-- The partly filled word, if any, is ready to be pushed. -/
def Stream.flush (x : Stream) : Stream :=
  if x.part.isEmpty then x else { x with outw := x.outw ++ [(x.pos, x.partWord)], part := [] }

/-- A token other than data is ready to be pushed. -/
def Stream.token (x : Stream) (kind level pay : Nat) : Stream :=
  let y := x.flush
  { y with outw := y.outw ++ [(y.pos, mkWord (BitVec.ofNat 256 pay) (qidVc x.qid) kind level (qidRoute x.qid))] }

/-- The element at the place reached is packed, and its clasps follow. -/
def Stream.pack (x : Stream) (e : Elem) : Stream :=
  let p := x.pos
  let x := { x with buf := Tab.set none x.buf p none, idx := Tab.set none x.idx p none }
  if qidCfg x.qid then { x with pos := p + 1, config := x.config ++ [if e.pois then 2 ^ 32 else e.val] }
  else
    let x := if e.pois then
        let y := x.flush
        { y with pos := p + 1, outw := y.outw ++ [(p + 1, poisonWord (qidVc x.qid) (qidRoute x.qid))] }
      else
        let y := { x with pos := p + 1, part := x.part ++ [e] }
        if y.part.length = x.perWord then y.flush else y
    (x.clasps p).foldl (fun x l => x.token kClasp l 0) x

/-- A marker due at the place reached. -/
def Stream.markDue (x : Stream) : Option (Nat × Nat × Nat) := x.markPos.find? (fun m => m.1 == x.pos)

/-- Lines all of whose elements are delivered leave. -/
def Stream.settle (x : Stream) (upto : Nat) : Stream :=
  let out := x.lines.filter (fun f => decide (f.last < upto))
  { x with lines := x.lines.filter (fun f => !decide (f.last < upto)), consumed := x.consumed + out.length }

/-- A stream's queue is a circuit of the load whose feed group it is of: only such a circuit carries its markers. -/
def Stream.own (x : Stream) : Bool := keyIsCircuit x.key && circuitLoad x.key == x.cmd.load && x.cmd.load != 0

/-- A stream's marker is sent at the place reached: its word, with its wave as payload, and the record of it (12 R266).
Kind 19 is a marker that the stream's interval calls for, which the next one follows: its wave is the next in the stream's
count. -/
def Stream.sendMark (x : Stream) (m : Nat × Nat × Nat) : Stream :=
  let wave := if m.2.2 = 19 then x.marked + 1 else m.2.1
  let y := if x.own then x.token (m.2.2 % 16) 0 wave else x
  let y := { y with markPos := y.markPos.erase m ++
    (if m.2.2 = 19 ∧ m.1 + x.markInt ≤ x.total then [(m.1 + x.markInt, m.2.1 + 1, 19)] else []) }
  if m.2.2 = kDrain then { y with drained := true }
  else { y with marked := wave, markHist := y.markHist ++ [(wave, x.pos)] }

/-- The elements of zeros of a gather, which need no line: those of the index values it has taken that are all ones. -/
def Stream.zeros (x : Stream) : Tab (Option Elem) := x.buf.filter (fun e => Tab.get none x.idx e.1 == some 0xFFFFFFFF)

/-- A stream as a rollback to a wave finds it: at its marker's place, with nothing fetched or to push. Its counters go back
with it but for the lines in hand, which are fetched again: they stay counted, as dropped (R132). -/
def Stream.atMark (x : Stream) : Stream :=
  { x with part := [], outw := [], lines := [], held := [], fault := none, emptyAt := 0, idxAt := 0,
           buf := x.zeros, dropped := if x.drain then 0 else x.dropped + (x.fetched - x.consumed - x.dropped) }

/-- A marker of a wave has left a stream: the load's snapshot of the wave keeps the stream's place (12 R269). -/
def State.noteMark (s : State) (c n : Nat) (x : Stream) : State :=
  match s.load x.cmd.load with
  | none => s
  | some l =>
    let s := s.snapUp x.cmd.load x.marked (fun y => { y with streams := y.streams ++ [(c * 32 + n, x.atMark)] })
    if l.top < x.marked then (match s.load x.cmd.load with
      | some z => s.setLoad x.cmd.load { z with top := x.marked }
      | none => s) else s

/-- Delivery in walk order while the target queue takes words, at most n actions. -/
def State.deliver (s : State) (c n : Nat) (x : Stream) : Nat → State × Stream
  | 0 => (s, x)
  | f + 1 =>
    match x.outw with
    | (p, w) :: r =>
      if s.qFull x.key then (s, x)
      else State.deliver (s.qAppend x.key w) c n ({ x with outw := r }.settle p) f
    | [] =>
      match x.markDue with
      | some m =>
        let y := x.sendMark m
        State.deliver (if m.2.2 = kDrain then s else s.noteMark c n y) c n y f
      | none =>
        if x.drained then (s, x)
        else if x.pos < x.limit then
          match Tab.get none x.buf x.pos with
          | some e =>
            let y := x.pack e
            State.deliver s c n (if qidCfg y.qid then y.settle y.pos else y) f
          | none => (s, x)
        else if x.pos = x.total ∧ x.part.length ≠ 0 then State.deliver s c n x.flush f
        else (s, x)

/-- A translation fault, or a reason to stop (8), is met at an element: the earliest counts (07 R150). -/
def Stream.meets (x : Stream) (pos : Nat) (va : Word) (reason level acc : Nat) : Stream :=
  let f : EFault := { pos := pos, va := va, reason := reason, level := level, acc := acc }
  match x.fault with
  | some g => if pos < g.pos then { x with fault := some f } else x
  | none => { x with fault := some f }

/-- Index i of element e is known; an index of all ones gives zeros without access. -/
def Stream.putIdx (x : Stream) (e i : Nat) : Stream :=
  let x := { x with idx := Tab.set none x.idx e (some i), idxNext := e + 1 }
  if i = 0xFFFFFFFF then { x with buf := Tab.set none x.buf e (some { val := 0, pois := false }) } else x

/-- Indexes of successive elements become known. -/
def Stream.putIdxs (x : Stream) : List Nat → Stream
  | [] => x
  | i :: r => if x.idxNext < x.total then Stream.putIdxs (x.putIdx x.idxNext i) r else x

/-- A stream takes the indexes it needs next: a line of the index array, or a token of the index queue. -/
def State.takeIndex (s : State) (c n : Nat) (x : Stream) : State × Stream :=
  if x.idxMem then
    let va := x.idxAddr x.idxNext
    let q := s.engLine c (eidIndex n) x.cmd va
    match q.2 with
    | .data v pois =>
      let o := va.toNat % 64
      let s := q.1.used c (eidIndex n) (s.engKey c x.cmd va)
      if pois then (s, x.meets x.idxNext va 8 0 0)
      else (s, x.putIdxs (splitN 32 (v / 2 ^ (8 * o)) ((64 - o) / 4)))
    | .fault r l => (q.1, x.meets x.idxNext va r l 0)
    | .stop => (q.1, x.meets x.idxNext va 8 0 0)
    | .wait => (q.1, x)
  else
    let who := streamKey c n
    let at_ := if x.idxAt = 0 then s.cycle + 1 else x.idxAt
    let order := reqOrder (at_ - 1) c (16 + n)
    match s.tokenFor x.ikey who order with
    | none =>
      if x.idxAt = 0 ∧ s.tokenLater x.ikey who order = false then
        let y := { x with idxAt := at_ }
        ((s.setStream c n (some y)).qSync x.ikey, y)
      else (s, x)
    | some i => match (s.queue x.ikey).toks[i]? with
      | none => (s, x)
      | some t =>
        let y := { x with idxAt := 0 }
        let s := if x.idxAt = 0 then s else s.sampleQueue x.ikey 3 (s.cycle + 1 - x.idxAt)
        let s := ((s.setStream c n (some y)).serves x.ikey order).qTake x.ikey i who
        if t.w.poisoned then (s, y.meets y.idxNext 0 8 0 0)
        else if t.w.kind = kNull then (s, y.putIdxs (List.replicate 8 0xFFFFFFFF))
        else if t.w.kind = kData then (s, y.putIdxs (splitN 32 t.w.pay.toNat 8))
        else (s, y)

/-- A consumer of the target queue waits on it empty, or found it so while this element was the next (06 R132). -/
def State.lateFor (s : State) (x : Stream) (first : Nat) : Bool :=
  first == x.pos && x.outw.isEmpty && (s.queue x.key).toks.isEmpty && ((s.queue x.key).eFrom != 0 || x.emptyAt == first + 1)

/-- A late line arrives (06 Table 06-11). -/
def State.sampleLate (s : State) (c : Nat) (x : Stream) (late : Bool) : State :=
  if late then
    let e := (s.queue x.key).eFrom
    s.sample (dieOfCore c) 6 (c % 64) (if e ≠ 0 then s.cycle + 1 - e else s.cycle - x.emptyC)
  else s

/-- The requests of a stream that wait for a line, or whose line has come and is not used yet. -/
def State.inFlight (s : State) (c n : Nat) : Nat := ((s.core c).asked.filter (fun e => e.1 == eidStream n)).length

/-- A stream's request of a line: FETCHED counts it where it is made, from afar before the line comes, and a line from afar
that cannot be used is dropped. -/
def State.streamLine (s : State) (c n : Nat) (x : Stream) (va : Word) : State × Stream × EGot :=
  let was := s.inFlight c n
  let old := s.hasAsked c (eidStream n) (s.engKey c x.cmd va)
  let q := s.engLine c (eidStream n) x.cmd va
  match q.2 with
  | .wait => (q.1, { x with fetched := x.fetched + (q.1.inFlight c n - was) }, .wait)
  | .data v p => (q.1, if old then x else { x with fetched := x.fetched + 1 }, .data v p)
  | g => if old then (q.1.used c (eidStream n) (s.engKey c x.cmd va), { x with dropped := x.dropped + 1 }, g) else (q.1, x, g)

/-- A line of a reading stream is fetched for element e, which begins a run. -/
def State.fetchRun (s : State) (c n : Nat) (x : Stream) (e : Nat) (va : Word) : State × Stream :=
  let line := lineOf va.toNat
  let use := fun (s : State) (va : Word) => s.used c (eidStream n) (s.engKey c x.cmd va)
  match s.streamLine c n x va with
  | (s, x, .fault r l) => (s, x.meets e va r l 0)
  | (s, x, .stop) => (s, x.meets e va 8 0 0)
  | (s, x, .wait) => (s, x)
  | (s, x, .data v pois) =>
    let late := s.lateFor x e
    if va.toNat % 64 + x.esz > 64 then
      let va2 := BitVec.ofNat 64 ((line + 1) * 64)
      match s.streamLine c n x va2 with
      | (s, x, .fault r l) => (use s va, { x with dropped := x.dropped + 1 }.meets e va2 r l 0)
      | (s, x, .stop) => (use s va, { x with dropped := x.dropped + 1 }.meets e va2 8 0 0)
      | (s, x, .wait) =>
        -- a local line is read again once the other has come
        (s, if s.hasAsked c (eidStream n) (s.engKey c x.cmd va) then x else { x with fetched := x.fetched - 1 })
      | (s, x, .data v2 pois2) =>
        let w := (v + v2 * 2 ^ 512) / 2 ^ (8 * (va.toNat % 64)) % 2 ^ (8 * x.esz)
        let one : Fetch := { first := e, last := e, late := late }
        ((use (use s va) va2).sampleLate c x late, { x with
          buf := Tab.set none x.buf e (some { val := w, pois := pois || pois2 }),
          late := x.late + 2 * b2n late, lines := x.lines ++ [one, one] })
    else
      let last := x.runEnd line e 1024
      ((use s va).sampleLate c x late, { x.take e v pois (last - e + 1) with
        late := x.late + b2n late, lines := x.lines ++ [{ first := e, last := last, late := late }] })

/-- The line of element e has been asked for, and so its translation has completed. -/
def State.askedFor (s : State) (c n : Nat) (x : Stream) (e : Nat) : Bool :=
  match x.addrOf e with
  | some va => s.hasAsked c (eidStream n) (s.engKey c x.cmd va)
  | none => false

/-- Element e may be fetched now: its line has been asked for, or the stream is not parked and has room within its prefetch
distance, in which a line for the next element always counts. -/
def State.mayFetch (s : State) (c n : Nat) (x : Stream) (e : Nat) : Bool :=
  s.askedFor c n x e || (x.st == 1 &&
    (e == x.pos || decide (x.lines.length + s.inFlight c n +
      b2n ((Tab.get none x.buf x.pos).isNone && !s.askedFor c n x x.pos) < x.pfd)))

/-- A line of a reading stream returns (06 R124, R132; 07 R150; 18 R379): for the run of elements that begins at elem,
then delivery in walk order. Lines are held and asked for ahead up to the prefetch distance; a parked stream takes only what
it has asked for. -/
def execStreamLineReturn (core stream elem : Nat) (s : State) : EngResult :=
  match s.stream core stream with
  | none => .next s
  | some x =>
    if x.drain ∨ x.st = 0 ∨ x.st ≥ 3 ∨ s.testing x.cmd.load then .next s
    else
      let r : State × Stream :=
        if x.drained ∨ elem ≥ x.limit ∨ elem < x.pos then (s, x)
        else if x.gather ∧ x.idxNext < x.total ∧ x.idxNext ≤ elem then (if x.st = 1 then s.takeIndex core stream x else (s, x))
        else if (Tab.get none x.buf elem).isSome ∨ s.mayFetch core stream x elem = false then (s, x)
        else match x.addrOf elem with
          | none => (s, x)
          | some va =>
            let starts := elem == x.pos || (Tab.get none x.buf (elem - 1)).isSome ||
              (match x.addrOf (elem - 1) with | some a => lineOf a.toNat != lineOf va.toNat | none => false)
            if starts then s.fetchRun core stream x elem va else (s, x)
      let q := r.1.deliver core stream r.2 4096
      .next ((q.1.setStream core stream (some q.2)).qSync q.2.key)

/-! ## Streams: stopping -/

/-- A stream ends with a status; its record is still to be written. Lines not wholly delivered, those still under way among
them, are dropped. -/
def Stream.endWith (x : Stream) (status : Nat) : Stream :=
  { x with st := 3, status := status, buf := [], held := [], part := [], outw := [], fault := none, emptyAt := 0,
           idxAt := 0, dropped := if x.drain then 0 else x.dropped + (x.fetched - x.consumed - x.dropped), lines := [] }

/-- A stream's reads stop: what has come or may still come for it is dropped. Its writes under way are left. -/
def State.stopReads (s : State) (c n load : Nat) : State :=
  if (s.core c).asked.any (fun e => e.1 == eidStream n || e.1 == eidIndex n) then
    (s.stopFar c (eidStream n) load).stopFar c (eidIndex n) load
  else s

/-- A stream ends with a status: what it asked of its queues and of memory is withdrawn. -/
def State.endStream (s : State) (c n : Nat) (x : Stream) (status : Nat) : State :=
  (((s.setStream c n (some (x.endWith status))).stopReads c n x.cmd.load).qSync x.key).qSync x.ikey

/-- A line that a stream has asked for is not wanted any more: its reply is dropped as it comes. -/
def State.dropAsked (s : State) (c eid line load : Nat) : State :=
  let s := s.orphans (fun r => r.who == 5 && r.a == c && r.b == eid && lineOf (2 ^ 58 + r.pkt.addr) == line)
    (fun r => r.kind == 5 && r.a == c && r.b == eid && lineOf (2 ^ 59 + r.addr) == line) load
  s.used c eid line

/-- DW4 and DW5 of a stream's fault-queue entry: the indexes of its levels. -/
def Stream.ixWord (x : Stream) (e hi lo : Nat) : Word := field 32 32 (x.ix e hi) ||| field 0 32 (x.ix e lo)

/-- A stream parks at a fault: the entry is written (07 R150, R151, R157). -/
def State.parkStream (s : State) (c n : Nat) (x : Stream) (f : EFault) : State :=
  let d := dieOfCore c
  let seq := (s.die d).fqSeq
  let gone := if x.drain then [] else x.lines.filter (fun l => decide (f.pos ≤ l.last))
  -- the lines asked for that no element before the fault point needs
  let late := (s.core c).asked.filter (fun e => e.1 == eidStream n &&
    !((List.range (min (f.pos - x.pos) 4096)).any (fun i => match x.addrOf (x.pos + i) with
      | some va => s.engKey c x.cmd va == e.2 || s.engKey c x.cmd (va + BitVec.ofNat 64 (x.esz - 1)) == e.2
      | none => false)))
  let x := { x with st := 2, parkDie := d, parkSeq := seq, emptyAt := 0, idxAt := 0,
                    buf := x.buf.filter (fun e => decide (e.1 < f.pos) || Tab.get none x.idx e.1 == some 0xFFFFFFFF),
                    dropped := x.dropped + gone.length + late.length,
                    lines := x.lines.filter (fun l => !gone.contains l) }
  let s := late.foldl (fun s e => s.dropAsked c e.1 e.2 x.cmd.load) (s.setStream c n (some x))
  s.faultEntry d 1 (bits x.cmd.asid 0 16) f.reason f.level f.acc
    [faultDw1 x.cmd.by_ 0 n false c, f.va, x.cmd.epc, x.ixWord f.pos 1 0, x.ixWord f.pos 3 2, x.cmd.blk,
     BitVec.ofNat 64 f.pos]

/-- A fault of a reason that parks, with the fault queue enabled (Table 07-6). -/
def State.parks (s : State) (c : Nat) (f : EFault) : Bool := decide (f.reason ≤ 2) && s.fqOn (dieOfCore c)

/-- Every element from e to before a place, n more looked at, has been fetched or its line asked for: its translation has
completed without fault (07 R150). -/
def State.allBefore (s : State) (c n : Nat) (x : Stream) (p e : Nat) : Nat → Bool
  | 0 => true
  | f + 1 => decide (p ≤ e) ||
      (((Tab.get none x.buf e).isSome || s.askedFor c n x e) && State.allBefore s c n x p (e + 1) f)

/-- A stream that met a fault parks, or stops at the element (07 R148, R150, R151; R140; 18 R380). -/
def execStreamPark (core stream : Nat) (s : State) : EngResult :=
  match s.stream core stream with
  | none => .next s
  | some x =>
    match x.fault with
    | none => .next s
    | some f =>
      if x.st ≠ 1 then .next s
      else if s.parks core f then
        if x.drain ∨ s.allBefore core stream x f.pos x.pos (f.pos - x.pos) then .next (s.parkStream core stream x f) else .next s
      else if x.drain ∨ (x.pos = f.pos ∧ x.outw.isEmpty) then
        let s := s.endStream core stream x 3
        .next (s.tellIssuer core x.cmd 0x16 x.cmd.blk)
      else .next s

/-- Every element of a stream has been delivered, or written and performed. -/
def State.streamDone (s : State) (c n : Nat) (x : Stream) : Bool :=
  x.st == 1 && x.pos == x.total && x.part.isEmpty && x.outw.isEmpty && x.held.isEmpty && x.markPos.isEmpty &&
    Tab.get 0 (s.core c).pendW (eidStream n) == 0 && (!qidCfg x.qid || x.status == 1)

/-- strmkill can stop a stream: it has not completed or stopped (18 R385). -/
def State.killable (s : State) (c n : Nat) (x : Stream) : Bool :=
  (x.st == 1 || x.st == 2) && (x.status == 0 || x.status == 6) && !s.streamDone c n x

/-- strmkill (18 R385). -/
def execStrmkill (a : Nat) (s : State) : EngResult :=
  let h := s.rg a
  let c := s.myCore
  .next (s.run [a] [(5, 0)]
    (if s.handleOk h [1] = false then s.badHandle
     else
       let num := bits h 0 32
       let s := s.setCore c { s.core c with engq := (s.core c).engq.map (fun m =>
         if m.kind = 1 ∧ m.num = num then { m with dead := true } else m) }
       let s := (List.range 32).foldl (fun s n => match s.stream c n with
         | some x => if x.cmd.num = num ∧ s.killable c n x then s.endStream c n x 2 else s
         | none => s) s
       s.advance))

/-! ## Machine checks of the engines (12 R250, R255) -/

/-- TVAL of a machine check that an engine detects: the issuing slot, and the word of its command's instruction (12 Table
12-3). -/
def engineTval (c : Nat) (m : Cmd) (unit src : Nat) : Word :=
  field 56 8 c ||| field 52 4 (m.by_ % 16) ||| field 48 3 unit ||| field 32 4 src ||| field 0 32 m.insn

/-- A copy stops with a status; its record is still to be written. -/
def CopyEng.endWith (x : CopyEng) (status : Nat) : CopyEng := { x with st := 3, status := status, fault := none }

/-- A command stops at its element after a machine check: STATUS 3 (log 77). -/
def State.stopCommand (s : State) (c eid : Nat) : State :=
  if eid < 32 then
    (match s.stream c eid with | some x => if x.st < 3 then s.endStream c eid x 3 else s | none => s)
  else match s.copy c (eid - 32) with
    | some x => if x.st < 3 then (s.stopFar c eid x.cmd.load).setCopy c (eid - 32) (some (x.endWith 3)) else s
    | none => s

/-- A residue mismatch in a stream or copy engine, at its store data (unit 7): the record, the self-test, and then the load of
a protected feed group is rolled back, or the command stops and its issuing thread takes cause 0x09 (12 Table 12-7). -/
def State.engineCheck (s : State) (c eid : Nat) (m : Cmd) (src : Nat) (inj : Bool) : State :=
  let d := dieOfCore c
  let tval := engineTval c m 7 src
  let rec_ := (d, (s.die d).mnext)
  match s.protOf m with
  | some l =>
    let a := s.failAction l
    let s := s.logCheck d 0 a.1 a.2 (bits m.asid 0 16) inj tval m.epc
    (s.failLoad l).startTest [0, c, 7, 0] none inj (some rec_) l
  | none =>
    let s := s.logCheck d 0 0 0 (bits m.asid 0 16) inj tval m.epc
    ((s.startTest [0, c, 7, 0] none inj (some rec_) 0).stopCommand c eid).tellIssuer c m 0x09 tval

/-- A transient error of the hardware shows in what an engine writes next: its predicted residue differs (log 75). -/
def State.engineUpset (s : State) (c eid : Nat) : State :=
  if eid < 32 then
    (match s.stream c eid with | some x => if x.st = 1 then s.engineCheck c eid x.cmd 1 false else s | none => s)
  else match s.copy c (eid - 32) with
    | some x => if x.st = 1 ∧ eid < 160 then s.engineCheck c eid x.cmd 1 false else s
    | none => s

/-! ## Draining streams -/

/-- The elements that make the whole line which begins with the element at place p, none where they do not. -/
def Stream.lineRun (x : Stream) (p : Nat) : Nat :=
  let n := 64 / x.esz
  if decide (p + n ≤ x.total) && (x.addr p 0).toNat % 64 == 0 &&
      (List.range n).all (fun i => x.addr (p + i) 0 == x.addr p 0 + BitVec.ofNat 64 (i * x.esz)) then n else 0

/-- An element that a draining stream writes lies on two lines: both parts are checked before either is written, so that an
element that faults or is refused has no effect (01 R20; 07 R140, R151). -/
def State.drainTwo (s : State) (c n : Nat) (x : Stream) (va : Word) (m : Nat) (e : Elem) : State × EGot × Word :=
  let va2 := BitVec.ofNat 64 (va.toNat + m)
  let q := s.engWhere c x.cmd va
  match q.2 with
  | .not g => (q.1, g, va)
  | .to r =>
    let q2 := q.1.engWhere c x.cmd va2
    match q2.2 with
    | .not g => (q2.1, g, va2)
    | .to r2 =>
      let s := q2.1.engPut c (eidStream n) x.cmd (x.marked + 1) r m (e.val % 2 ^ (8 * m)) e.pois
      (s.engPut c (eidStream n) x.cmd (x.marked + 1) r2 (x.esz - m) (e.val / 2 ^ (8 * m)) e.pois, .data 0 false, va2)

/-- Held elements are written in walk order, at most n writes: a whole line at once where its elements are in hand (03 Table
03-2), else one element. -/
def State.drainWrite (s : State) (c n : Nat) (x : Stream) : Nat → State × Stream
  | 0 => (s, x)
  | f + 1 =>
    match x.held with
    | [] => (s, x)
    | e :: _ =>
      if x.pos ≥ x.total then (s, { x with held := [] })
      else if Tab.get 0 (s.core c).pendW (eidStream n) ≠ 0 then (s, x)
      else
        let va := x.addr x.pos 0
        let a := va.toNat % 64
        let k := x.lineRun x.pos
        let whole := k != 0 && decide (k ≤ x.held.length)
        let done := if whole then k else 1
        let r : State × EGot × Word :=
          if a + x.esz > 64 then s.drainTwo c n x va (64 - a) e
          else
            let es := x.held.take done
            let q := s.engWrite c (eidStream n) x.cmd (x.marked + 1) va (done * x.esz)
              (joinN (8 * x.esz) (es.map (fun e => e.val))) (es.any (fun e => e.pois))
            (q.1, q.2, va)
        match r.2.1 with
        | .fault rs l => (r.1, x.meets x.pos r.2.2 rs l 1)
        | .stop => (r.1, x.meets x.pos r.2.2 8 0 1)
        | .wait => (r.1, x)
        | .data .. => State.drainWrite r.1 c n { x with pos := x.pos + done, held := x.held.drop done } f

/-- The elements of a data token, as many as the walk has left. -/
def Stream.elemsOf (x : Stream) (w : LW) : List Elem :=
  (splitN (8 * x.esz) w.pay.toNat (min x.perWord (x.total - x.pos - x.held.length))).map
    (fun v => { val := v, pois := w.poisoned })

/-- A draining stream that holds part of a whole line takes one more word for it, where a data token is at hand. -/
def State.fillsLine (s : State) (c n : Nat) (x : Stream) : Bool :=
  let k := x.lineRun x.pos
  !x.held.isEmpty && k != 0 && decide (x.held.length < k) && Tab.get 0 (s.core c).pendW (eidStream n) == 0 &&
    (match s.tokenFor x.key (streamKey c n) (reqOrder s.cycle c (16 + n)) with
     | some i => (match (s.queue x.key).toks[i]? with | some t => t.w.kind == kData | none => false)
     | none => false)

/-- A draining stream pops a word or writes what it holds (07 R151; 18 R372, R379). -/
def execStreamDrainPop (core stream : Nat) (s : State) : EngResult :=
  match s.stream core stream with
  | none => .next s
  | some x =>
    if x.drain = false ∨ x.st ≠ 1 ∨ x.fault.isSome ∨ x.drained ∨ s.testing x.cmd.load then .next s
    else if x.held.isEmpty = false ∧ s.fillsLine core stream x = false then
      let q := s.drainWrite core stream x 64
      .next (q.1.setStream core stream (some q.2))
    else if x.pos + x.held.length ≥ x.total then .next s
    else
      let who := streamKey core stream
      let at_ := if x.emptyAt = 0 then s.cycle + 1 else x.emptyAt
      let order := reqOrder (at_ - 1) core (16 + stream)
      match s.tokenFor x.key who order with
      | none =>
        if x.emptyAt = 0 ∧ s.tokenLater x.key who order = false then .next ((s.setStream core stream (some { x with emptyAt := at_ })).qSync x.key) else .next s
      | some i => match (s.queue x.key).toks[i]? with
        | none => .next s
        | some t =>
          let waited := x.emptyAt != 0 && decide (x.emptyAt ≤ s.cycle)
          let line := lineOf (x.addr x.pos 0).toNat
          let counted := x.lines.any (fun l => l.first == line)
          let y := { x with emptyAt := 0 }
          let y := if waited && !counted then
              { y with late := y.late + 1, lines := [{ first := line, last := line, late := true }] } else y
          if t.w.kind = kData ∧ t.w.poisoned = false ∧ t.w.badResid then
            .next (s.engineCheck core (eidStream stream) x.cmd 0 false)
          else
          let y := if t.w.kind = kData then { y with held := x.held ++ x.elemsOf t.w }
            else if t.w.kind = kNull then { y with pos := min x.total (x.pos + x.perWord) }
            else if t.w.kind = kMark then { y with marked := t.w.pay.toNat, markHist := x.markHist ++ [(t.w.pay.toNat, x.pos)] }
            else if t.w.kind = kDrain then { y with drained := true }
            else y
          let s := if x.emptyAt = 0 then s else s.sampleQueue x.key 3 (s.cycle + 1 - x.emptyAt)
          let s := if waited && !counted then s.sample (dieOfCore core) 6 (core % 64) (s.cycle + 1 - x.emptyAt) else s
          let s := ((s.setStream core stream (some y)).serves x.key order).qTake x.key i who
          let s := if t.w.kind = kMark then s.noteMark core stream y else s
          if s.fillsLine core stream y then .next (s.setStream core stream (some y))
          else
            let q := s.drainWrite core stream y 64
            .next (q.1.setStream core stream (some q.2))

/-! ## Completion (18 R380) -/

/-- A command leaves its engine: how it ended is remembered, the last 1,024 of each kind. -/
def State.ended (s : State) (c : Nat) (m : Cmd) (ok : Bool) : State :=
  let e : Ended := { kind := m.kind, num := m.num, ok := ok, blk := m.blk, by_ := m.by_ }
  let h := e :: (s.core c).hist
  s.setCore c { s.core c with hist := (h.filter (fun e => e.kind == 1)).take 1024 ++ (h.filter (fun e => e.kind == 2)).take 1024 }

/-- A stream leaves its queues and its engine. -/
def State.closeStream (s : State) (c n : Nat) (x : Stream) : State :=
  let who := streamKey c n
  let s := s.setStream c n none
  let s := if qidCfg x.qid then s else s.qLeave x.key who
  let s := if x.gather && !x.idxMem then s.qLeave x.ikey who else s
  ((s.stopReads c n x.cmd.load).quit c (eidStream n) x.cmd.load).ended c x.cmd (x.status == 1)

/-- What is left of writing a record: the first part, the second, or the record's fault. -/
inductive Rec where
  | done
  | fault (f : EFault)
  | stop
  | wait
  deriving DecidableEq, Repr

/-- Doublewords of a completion record are written from a virtual address on, in ascending order. -/
def State.writeRec (s : State) (c eid : Nat) (m : Cmd) (wave : Nat) (va : Word) : List Word → State × Rec
  | [] => (s, .done)
  | w :: r =>
    let q := s.engWrite c eid m wave va 8 w.toNat false
    match q.2 with
    | .data .. => State.writeRec q.1 c eid m wave (va + 8) r
    | .fault rs l => (q.1, .fault { pos := 0, va := va, reason := rs, level := l, acc := 1 })
    | .stop => (q.1, .stop)
    | .wait => (q.1, .wait)

/-- A stream completes, or one that has stopped writes its record: DW1 to DW3, and at the next such event DW0. -/
def execStreamComplete (core stream : Nat) (s : State) : EngResult :=
  match s.stream core stream with
  | none => .next s
  | some x =>
    let x := if s.streamDone core stream x then { x with st := 3, status := if x.status = 0 then 1 else x.status } else x
    if x.st < 3 then .next s
    else if Tab.get 0 (s.core core).pendW (eidStream stream) ≠ 0 then .next s
    else if x.craddr = 0 ∨ x.st = 5 then .next (s.closeStream core stream x)
    else
      let q := if x.st = 3 then
          s.writeRec core (eidStream stream) x.cmd (x.marked + 1) (x.craddr + 8)
            [field 0 48 x.consumed, field 0 48 x.late, field 0 48 x.dropped]
        else s.writeRec core (eidStream stream) x.cmd (x.marked + 1) x.craddr [field 56 8 x.status ||| field 0 48 x.fetched]
      match q.2 with
      | .done => if x.st = 3 then .next (q.1.setStream core stream (some { x with st := 4 }))
                 else .next (q.1.setStream core stream (some { x with st := 5 }))
      | .wait => .next q.1
      | .stop => .next ((q.1.closeStream core stream x).tellIssuer core x.cmd 0x16 x.cmd.blk)
      | .fault f =>
        if s.parks core f then .next (q.1.parkStream core stream { x with st := 3, fault := some f } { f with pos := x.pos })
        else .next ((q.1.closeStream core stream x).tellIssuer core x.cmd 0x16 x.cmd.blk)

/-! ## Copies (18 R381; 02 R41 to R44) -/


/-- combine of two lines, element by element (14 R308, R310); d0 is the descriptor's first doubleword. -/
def combineLine (d0 : Word) (data opnd : Nat) : Nat :=
  let f := bits d0 46 6
  let w := widthOf f
  let n := 512 / w
  let side := bit d0 44
  let comb := fun (p : Nat × Nat) => combineCode f 0 (bit d0 45) (bits d0 52 3) (if side then p.2 else p.1) (if side then p.1 else p.2)
  joinN w (((splitN w data n).zip (splitN w opnd n)).map comb)

/-- A line of data is combined with its operand, if any, and written at its destination. -/
def State.copyWrite (s : State) (c eid : Nat) (x : CopyEng) (off data : Nat) (pois : Bool) : State × EGot × Word :=
  let dst := x.d 2 + BitVec.ofNat 64 off
  if x.op = 0 then
    let q := s.engWrite c eid x.cmd (s.cmdWave x.cmd) dst 64 data pois
    (q.1, q.2, dst)
  else
    let src := x.d 3 + BitVec.ofNat 64 off
    let r := s.engLine c eid x.cmd src
    match r.2 with
    | .data v p =>
      let q := r.1.engWrite c eid x.cmd (s.cmdWave x.cmd) dst 64 (combineLine (x.d 0) data v) (pois || p)
      (match q.2 with
       | .data .. => (q.1.used c eid (s.engKey c x.cmd src), q.2, dst)
       | g => (q.1, g, dst))
    | g => (r.1, g, src)

/-- The copy goes on to its next step, or has run its last. -/
def CopyEng.nextStep (x : CopyEng) : CopyEng :=
  let x := { x with step := x.step + 1, off := 0, attempt := 0, sentAt := 0, recv := [] }
  if x.step ≥ x.cmd.words.length then { x with st := 3, status := 1 } else x

/-- A copy's reads stop: what was read and not written is discarded (07 R152). -/
def State.stopCopyReads (s : State) (c n load : Nat) : State :=
  if (s.core c).asked.any (fun e => e.1 == eidCopy n) then s.stopFar c (eidCopy n) load else s

/-- A copy meets a fault at a line: it parks, or stops (07 R148, R152; R140). -/
def State.copyMeets (s : State) (c n : Nat) (x : CopyEng) (off : Nat) (va : Word) (reason level acc : Nat) : State :=
  let d := dieOfCore c
  let f : EFault := { pos := off, va := va, reason := reason, level := level, acc := acc }
  if s.parks c f then
    let seq := (s.die d).fqSeq
    let s := (s.setCopy c n (some { x with st := 2, fault := some f, parkDie := d, parkSeq := seq })).stopCopyReads c n x.cmd.load
    s.faultEntry d 2 (bits x.cmd.asid 0 16) reason level acc
      [faultDw1 x.cmd.by_ 0 n false c, va, x.cmd.epc, BitVec.ofNat 64 off, BitVec.ofNat 64 x.step, x.cmd.blk, 0]
  else
    let s := (s.setCopy c n (some (x.endWith 3))).stopCopyReads c n x.cmd.load
    s.tellIssuer c x.cmd 0x16 x.cmd.blk

/-- What follows an access of a copy at a line: acc is the access it was. -/
def State.copyGot (s : State) (c n : Nat) (x : CopyEng) (off : Nat) (va : Word) (acc : Nat) (g : EGot)
    (f : State → Nat → Bool → State) : State :=
  match g with
  | .data v p => f s v p
  | .fault r l => s.copyMeets c n x off va r l acc
  | .stop => s.copyMeets c n x off va 8 0 acc
  | .wait => s.setCopy c n (some x)

/-- The acknowledgement of a step, under the tag of the data that completed it (02 R41; log 76). -/
def State.sendAck (s : State) (peer slot tag : Nat) : State := s.send (s.packet peer 9 slot tag 0 [])

/-- A receive step whose every line has been written and performed acknowledges; its data may come again (02 R44). -/
def State.recvDone (s : State) (c n : Nat) (x : CopyEng) : State :=
  if x.recv.length * 64 < x.len ∨ Tab.get 0 (s.core c).pendW (eidCopy n) ≠ 0 then s.setCopy c n (some x)
  else
    let e : RStep := { peer := x.peerOf, slot := x.sslot, cmd := x.cmd, step := x.step }
    let s := s.setCore c { s.core c with
      rsteps := e :: (s.core c).rsteps.filter (fun r => !(r.peer == e.peer && r.slot == e.slot)) }
    let s := s.setCopy c n (some x.nextStep)
    s.sendAck x.peerOf x.sslot x.tag

/-- An acknowledged step whose data have all come again, and been written and performed, acknowledges again (02 R44). -/
def State.againDone (s : State) (c : Nat) (r : RStep) : State :=
  let put := fun (s : State) (r : RStep) => s.setCore c { s.core c with
    rsteps := r :: (s.core c).rsteps.filter (fun q => !(q.peer == r.peer && q.slot == r.slot)) }
  if r.recv.length * 64 < bits (r.cmd.dw r.step 4) 0 40 ∨ Tab.get 0 (s.core c).pendW (eidStep r.peer r.slot) ≠ 0 then put s r
  else (put s { r with recv := [] }).sendAck r.peer r.slot r.tag

/-- The load of a command is on its way out of the fabric or back into it, or stands still: the command waits (13 R274,
R280). -/
def State.cmdHeld (s : State) (m : Cmd) : Bool :=
  m.load != 0 && (s.testing m.load || (match s.load m.load with
    | some x => x.st == .draining || x.st == .saved || x.st == .restoring || x.st == .placed
    | none => false))

/-- A copy moves its next line (07 R152; 18 R381). -/
def execCopyLine (core copy : Nat) (s : State) : EngResult :=
  match s.copy core copy with
  | none => .next s
  | some x =>
    if x.st ≠ 1 ∨ s.cmdHeld x.cmd then .next s
    else if x.role = 2 then .next (s.recvDone core copy x)
    else if x.off ≥ x.len then
      if x.role = 0 ∧ Tab.get 0 (s.core core).pendW (eidCopy copy) = 0 then .next (s.setCopy core copy (some x.nextStep))
      else .next s
    else
      let src := x.d 1 + BitVec.ofNat 64 x.off
      let q := s.engLine core (eidCopy copy) x.cmd src
      .next (q.1.copyGot core copy x x.off src 0 q.2 (fun s v p =>
        if x.role = 0 then
          let w := s.copyWrite core (eidCopy copy) x x.off v p
          w.1.copyGot core copy x x.off w.2.2 (if w.2.2 = x.d 2 + BitVec.ofNat 64 x.off then 1 else 0) w.2.1 (fun s _ _ =>
            (s.used core (eidCopy copy) (s.engKey core x.cmd src)).setCopy core copy
              (some { x with off := x.off + 64, bytes := x.bytes + 64 }))
        else
          let s := s.used core (eidCopy copy) (s.engKey core x.cmd src)
          let tag := if x.off = 0 then s.nStep % 65536 else x.tag
          let s := if x.off = 0 then { s with nStep := s.nStep + 1 } else s
          let s := s.send (s.packet x.peerOf 8 x.sslot tag x.off (splitN 64 v 8 ++ (if p then [1] else [])))
          s.setCopy core copy (some { x with off := x.off + 64, bytes := if x.attempt = 0 then x.bytes + 64 else x.bytes,
                                             sentAt := if x.off = 0 then s.cycle + 1 else x.sentAt, tag := tag })))

/-- The first packet of a kind that has arrived, and the rest. -/
def takeKind (kind : Nat) (l : List (Nat × Packet)) : Option (Packet × List (Nat × Packet)) :=
  (takeFrom (fun n => n == kind) l).map (fun r => (r.2.1, r.2.2))

/-- The active copy of the package with a role, peer and step slot. -/
def State.findStep (s : State) (role peer slot : Nat) : Option (Nat × Nat × CopyEng) :=
  (s.cores.flatMap (fun e => e.2.copies.filterMap (fun t => match t.2 with
    | some x => if (x.st = 1 ∨ (role = 1 ∧ x.st = 2)) ∧ x.role = role ∧ x.peerOf = peer ∧ x.sslot = slot
        then some (e.1, t.1, x) else none
    | none => none))).head?

/-- The receive step that has run in the package for a sender and slot, and its core. -/
def State.ranStep (s : State) (peer slot : Nat) : Option (Nat × RStep) :=
  (s.cores.filterMap (fun e => (e.2.rsteps.find? (fun r => r.peer == peer && r.slot == slot)).map (fun r => (e.1, r)))).head?

/-- A receive step as it stands when its data come again. -/
def RStep.copyOf (r : RStep) : CopyEng :=
  { cmd := r.cmd, st := 1, status := 0, step := r.step, off := 0, attempt := 0, sentAt := 0, recv := [], bytes := 0, steps := 0,
    fault := none, parkSeq := 0, parkDie := 0, resumed := false, peer := 0 }

/-- Data of a step arrive (02 R41, R44; 14 R310): a line, and a ninth doubleword where its source was poisoned (12 R263; log
76). -/
def execStepDataReceive (s : State) : EngResult :=
  match takeKind 8 s.inbox with
  | none => .next s
  | some (p, rest) =>
    let v := joinN 64 (p.data.take 8)
    let pois := decide (8 < p.data.length)
    let gone := { s with inbox := rest }
    match s.findStep 2 p.src p.circ with
    | some (c, n, x) =>
      if p.addr ≥ x.len ∨ p.addr % 64 ≠ 0 then .next gone
      else
        let q := s.copyWrite c (eidCopy n) x p.addr v pois
        match q.2.1 with
        | .wait => .next q.1
        | g =>
          let s := { q.1 with inbox := rest }
          .next (s.copyGot c n x p.addr q.2.2 (if q.2.2 = x.d 2 + BitVec.ofNat 64 p.addr then 1 else 0) g (fun s _ _ =>
            s.recvDone c n (if x.recv.contains p.addr then { x with tag := p.seq }
              else { x with recv := p.addr :: x.recv, bytes := x.bytes + 64, tag := p.seq })))
    | none =>
      match s.ranStep p.src p.circ with
      | none => .next gone
      | some (c, r) =>
        let x := r.copyOf
        if p.addr ≥ x.len ∨ p.addr % 64 ≠ 0 then .next gone
        else
          let q := s.copyWrite c (eidStep r.peer r.slot) x p.addr v pois
          match q.2.1 with
          | .wait => .next q.1
          | .data .. =>
            .next ({ q.1 with inbox := rest }.againDone c
              { r with recv := if r.recv.contains p.addr then r.recv else p.addr :: r.recv, tag := p.seq })
          | _ => .next { q.1 with inbox := rest }

/-- An acknowledgement arrives (02 R41): the sending copy goes on to its next step. -/
def execStepAckReceive (s : State) : EngResult :=
  match takeKind 9 s.inbox with
  | none => .next s
  | some (p, rest) =>
    let s := { s with inbox := rest }
    match s.findStep 1 p.src p.circ with
    | none => .next { s with loads := mapTab (fun (y : Load) => { y with steps := y.steps.filter (fun e => !(e.1 == p.src && e.2.1 == p.circ)) }) s.loads }
    | some (c, n, x) =>
      if x.sentAt = 0 ∨ (x.off < x.len ∧ x.attempt = 0) then .next s
      else .next (s.setCopy c n (some { x.nextStep with steps := x.steps + 1 }))

/-- REQTO in core cycles. -/
def State.reqTo (s : State) : Nat := 2000 * max 1 (bits (s.port 0).ctl 16 16)

/-- The virtual address of the descriptor of a copy's step. -/
def CopyEng.blkOf (x : CopyEng) : Word := if x.step = 0 then x.cmd.blk else x.cmd.dw (x.step - 1) 7

/-- A step has not been acknowledged in time (02 R43): it is sent again, or the copy stops. -/
def execStepTimeout (core copy : Nat) (s : State) : EngResult :=
  match s.copy core copy with
  | none => .next s
  | some x =>
    if (x.st ≠ 1 ∧ x.st ≠ 2) ∨ x.role ≠ 1 ∨ x.sentAt = 0 ∨ s.cycle + 1 < x.sentAt + s.stepTo then .next s
    else if x.attempt < x.retry then
      .next (s.setCopy core copy (some { x with attempt := x.attempt + 1, off := 0, sentAt := s.cycle + 1 }))
    else
      let s := s.setCopy core copy (some { x.endWith 4 with peer := x.peerOf })
      .next (s.tellIssuer core x.cmd 0x17 (BitVec.ofNat 64 (bits x.blkOf 0 56)))

/-- A copy leaves its engine. -/
def State.closeCopy (s : State) (c n : Nat) (x : CopyEng) : State :=
  ((s.setCopy c n none).quit c (eidCopy n) x.cmd.load).ended c x.cmd (x.status == 1)

/-- A copy that has run its steps, or stopped, writes its record (18 R380, Table 18-7). -/
def execCopyComplete (core copy : Nat) (s : State) : EngResult :=
  match s.copy core copy with
  | none => .next s
  | some x =>
    if x.st < 3 then .next s
    else if Tab.get 0 (s.core core).pendW (eidCopy copy) ≠ 0 then .next s
    else if x.craddr = 0 ∨ x.st = 5 then .next (s.closeCopy core copy x)
    else
      let eid := eidCopy copy
      let q := if x.st = 3 then
          s.writeRec core eid x.cmd (s.cmdWave x.cmd) (x.craddr + 8) [field 0 48 x.steps, field 0 10 (if x.status = 4 then x.peer else 0), 0]
        else s.writeRec core eid x.cmd (s.cmdWave x.cmd) x.craddr [field 56 8 x.status ||| field 0 48 x.bytes]
      match q.2 with
      | .done => .next (q.1.setCopy core copy (some { x with st := x.st + 1 }))
      | .wait => .next q.1
      | .stop => .next ((q.1.closeCopy core copy x).tellIssuer core x.cmd 0x16 x.cmd.blk)
      | .fault f =>
        if s.parks core f then .next (q.1.copyMeets core copy x x.off f.va f.reason f.level 1)
        else .next ((q.1.closeCopy core copy x).tellIssuer core x.cmd 0x16 x.cmd.blk)

/-- A parked stream or copy goes on (07 R159): from its fault point, or with the record it could not write. -/
def Stream.goesOn (x : Stream) : Stream :=
  { x with st := if x.status = 0 ∨ x.status = 6 then 1 else 3, fault := none, resumed := false }
def CopyEng.goesOn (x : CopyEng) : CopyEng :=
  { x with st := if x.status = 0 then 1 else 3, fault := none, resumed := false }

/-! ## Starting commands (06 R125; 18 R382, R386) -/

/-- The first number below n at which a table lists nothing. -/
def firstFree {α : Type} (t : Tab (Option α)) (n : Nat) : Option Nat :=
  (List.range n).find? (fun i => (Tab.get none t i).isNone)

/-- A stream begins: it joins its queues. -/
def State.startStream (s : State) (c n : Nat) (m : Cmd) : State :=
  let d := dieOfCore c
  let x : Stream :=
    { cmd := m, st := 1, status := 0, pos := 0, buf := [], lines := [], part := [], outw := [], key := 0, ikey := 0,
      emptyAt := 0, emptyC := 0, idxAt := 0, idx := [], idxNext := 0, held := [], fault := none, parkSeq := 0, parkDie := 0,
      resumed := false, fetched := 0, consumed := 0, late := 0, dropped := 0, config := [], marked := 0, markPos := [],
      markHist := [], drained := false, ahead := false }
  let q := m.dw 0 2
  let iq := m.dw 0 5
  let x := { x with key := if qidCfg q then 0 else queueKey d q (!x.drain), ikey := if x.gather && !x.idxMem then queueKey d iq false else 0,
                    marked := if (s.protOf m).isSome then s.cmdWave m - 1 else 0 }
  let x := { x with markPos := if x.markInt = 0 ∨ x.markInt > x.total ∨ (s.protOf m).isNone ∨ x.drain then [] else
                      [(x.markInt, x.marked + 1, 19)] }
  let x := { x with ahead := qidCfg q && (match s.load (qidLoad q) with
    | some l => l.st == .pending || l.st == .saved || l.st == .restoring
    | none => false) }
  let who := streamKey c n
  let s := s.setStream c n (some x)
  let s := if qidCfg q then s else s.qJoin x.key q m.asid (!x.drain) who 0 none
  if x.gather && !x.idxMem then s.qJoin x.ikey iq m.asid false who 0 none else s

/-- Storage that a die queue would need to come into being is exhausted, so the command waits. -/
def State.noStorage (s : State) (d : Nat) (q : Word) : Bool :=
  qidLoad q == 0 && !(s.queue (queueKey d q false)).live && decide (qidCap q * 64 > s.freeCircuit d)

/-- The command can start now: its kind's resource is free. -/
def State.startable (s : State) (c : Nat) (m : Cmd) : Bool :=
  match m.kind with
  | 1 => m.dead || ((firstFree (s.core c).streams 32).isSome && (qidCfg (m.dw 0 2) || !s.noStorage (dieOfCore c) (m.dw 0 2)))
  | 2 => (firstFree (s.core c).copies 128).isSome
  | 3 => false
  | _ => true

/-- The place of the first command of a kind, none while an unread command stands before it. -/
def firstOf (kind i : Nat) : List Cmd → Option Nat
  | [] => none
  | m :: r => if m.kind = kind then some i else if m.kind = 0 ∧ kind ≠ 0 then none else firstOf kind (i + 1) r

/-- The command at a place of an engine queue is taken out. -/
def State.dropCmd (s : State) (c i : Nat) : State := s.setCore c { s.core c with engq := dropNth (s.core c).engq i }

/-- A chain of descriptors is read for a command that renq entered; none is the end of a read that must go on. -/
def State.engChain (s : State) (c : Nat) (m : Cmd) (va : Word) (got : List (List Word)) : Nat → State × Option (Option (List (List Word)))
  | 0 => (s, some none)
  | n + 1 =>
    let q := s.engLine c eidQueue m va
    match q.2 with
    | .wait => (q.1, none)
    | .data v false =>
      let ws := (splitN 64 v 8).map (BitVec.ofNat 64)
      if copyOk ws s.pkg.pkgNo = false ∨ copyOverlaps ws then (q.1, some none)
      else if nextOf ws = 0 then (q.1, some (some (got ++ [ws])))
      else if got.length + 1 ≥ 64 then (q.1, some none)
      else State.engChain q.1 c m (nextOf ws) (got ++ [ws]) n
    | _ => (q.1, some none)

/-- A command that renq entered is rejected: its issuer takes cause 0x16. -/
def State.rejectCmd (s : State) (c i : Nat) (m : Cmd) : State :=
  ((s.dropCmd c i).forget c eidQueue).tellIssuer c m 0x16 m.blk

/-- The block of a command that renq entered is read at the queue's head (18 R386). -/
def State.readCmd (s : State) (c i : Nat) (m : Cmd) : State :=
  let put := fun (s : State) (kind : Nat) (wss : List (List Word)) =>
    (s.setCore c { s.core c with engq := setNth (s.core c).engq i { m with kind := kind, words := wss } }).forget c eidQueue
  if aligned m.blk 64 = false then s.rejectCmd c i m
  else
    let q := s.engLine c eidQueue m m.blk
    match q.2 with
    | .wait => q.1
    | .data v false =>
      let ws := (splitN 64 v 8).map (BitVec.ofNat 64)
      if ctypeOf ws = 1 then
        match q.1.streamFault (dieOfCore c) ws m.asid m.load m.blk with
        | some _ => q.1.rejectCmd c i m
        | none => put q.1 1 [ws]
      else if ctypeOf ws = 2 then
        if copyOk ws s.pkg.pkgNo = false ∨ copyOverlaps ws then q.1.rejectCmd c i m
        else if nextOf ws = 0 then put q.1 2 [ws]
        else
          let r := q.1.engChain c m (nextOf ws) [ws] 64
          match r.2 with
          | none => r.1
          | some none => r.1.rejectCmd c i m
          | some (some l) => put r.1 2 l
      else if threadOk ws then put q.1 3 [ws]
      else q.1.rejectCmd c i m
    | _ => q.1.rejectCmd c i m

/-- A stream's queues may be joined: they exist, and belong to its address space. -/
def State.joinable (s : State) (c : Nat) (m : Cmd) : Bool := (s.streamFault (dieOfCore c) (m.words.headD []) m.asid m.load m.blk).isNone

/-- A command starts: kind 1 a stream, 2 a copy, 0 the read of a block that renq named (06 R125). -/
def execEngineCommandStart (core kind : Nat) (s : State) : EngResult :=
  match firstOf kind 0 (s.core core).engq with
  | none => .next s
  | some i => match (s.core core).engq[i]? with
    | none => .next s
    | some m =>
      if s.cmdHeld m then .next s
      else if kind = 0 then
        if ((s.core core).engq.take i).any (fun p => s.startable core p) then .next s else .next (s.readCmd core i m)
      else if s.startable core m = false then .next s
      else if kind = 1 then
        match firstFree (s.core core).streams 32 with
        | none => .next s
        | some n =>
          let s := s.dropCmd core i
          let t := s.startStream core n m
          if m.dead then
            .next (match t.stream core n with | some x => t.endStream core n x 2 | none => t)
          else if s.joinable core m = false then
            .next ((match t.stream core n with | some x => t.endStream core n x 3 | none => t).tellIssuer core m 0x16 m.blk)
          else .next t
      else if kind = 2 then
        match firstFree (s.core core).copies 128 with
        | none => .next s
        | some n =>
          .next ((s.dropCmd core i).setCopy core n (some
            { cmd := m, st := 1, status := 0, step := 0, off := 0, attempt := 0, sentAt := 0, recv := [],
              bytes := 0, steps := 0, fault := none, parkSeq := 0, parkDie := 0, resumed := false, peer := 0 }))
      else .next s

end Sys2Proof.Machine
end

