-- ==== Sys2Proof/Machine/Fields.lean ====
section
/-! DEFINITION. The configuration of the fabric (08 R166 to R192; 09 R196, R197; 10 R214 to R218; 20 R411 to R413, R424;
21 R428, R429, R447): the fields of a tile, the configuration stream, its check, and its application. -/

namespace Sys2Proof.Machine

/-! ## Fields -/

/-- The default of a field of a tile kind (0 vector, 1 matrix, 2 memory), as Table 08-14, 09-1 and 10-1 give it. -/
def fieldDefault (kind f : Nat) : Nat :=
  if f = 0 then 0x700
  else if kind = 0 then (if 136 ≤ f ∧ f ≤ 151 then 0x7F else 0)
  else if kind = 1 then (if 136 ≤ f ∧ f ≤ 151 then 0x7F else if f = 4 then 1 else if f = 11 then 0x70000 else 0)
  else if f = 41 ∨ f = 42 then 7 else 0

/-- A field of a bank: what was written, else its default. A bank lists a written value plus one. -/
def bankField (kind : Nat) (b : Tab Nat) (f : Nat) : Nat :=
  match Tab.get 0 b f with
  | 0 => fieldDefault kind f
  | v + 1 => v

/-- The bank a command names: false the active one, true the shadow. -/
def Tile.bankOf (t : Tile) (shadow : Bool) : Tab Nat := if t.bank == shadow then t.bank0 else t.bank1
def Tile.setBank (t : Tile) (shadow : Bool) (b : Tab Nat) : Tile :=
  if t.bank == shadow then { t with bank0 := b } else { t with bank1 := b }
/-- A field of a bank, and of the active bank. -/
def Tile.fieldOf (t : Tile) (shadow : Bool) (f : Nat) : Nat := bankField t.kind (t.bankOf shadow) f
def Tile.field (t : Tile) (f : Nat) : Nat := t.fieldOf false f
/-- A tile after a field of a bank is set. -/
def Tile.setField (t : Tile) (shadow : Bool) (f v : Nat) : Tile :=
  t.setBank shadow (Tab.set 0 (t.bankOf shadow) f (v + 1))

/-- A memory tile carries a feed port. -/
def hasFeed (i : Nat) : Bool := tileKind i == 2 && i / 8 % 4 == 0

/-- A field is in the map of a tile kind (Tables 08-6 to 08-8). -/
def fieldIn (kind f : Nat) : Bool :=
  f != 7 && (if kind = 0 then decide (f < 256)
    else if kind = 1 then decide (f ≤ 21) || (decide (136 ≤ f) && decide (f ≤ 151))
    else decide (f ≤ 55))

/-! ## Slot words (Table 08-9) -/

def Tile.opw (t : Tile) (sh : Bool) (s : Nat) : Nat := t.fieldOf sh (8 + 6 * s)
/-- Input word i (0 to 2) of a slot. -/
def Tile.inw (t : Tile) (sh : Bool) (s i : Nat) : Nat := t.fieldOf sh (9 + 6 * s + i)
def Tile.outw (t : Tile) (sh : Bool) (s : Nat) : Nat := t.fieldOf sh (12 + 6 * s)
def Tile.immw (t : Tile) (sh : Bool) (s : Nat) : Nat := t.fieldOf sh (13 + 6 * s)
def opcodeOf (opw : Nat) : Nat := opw % 256
def fmtOf (opw : Nat) : Nat := fld opw 8 6
def modeOf (opw : Nat) : Nat := fld opw 14 3
def satOf (opw : Nat) : Bool := opw.testBit 17
def flushOf (opw : Nat) : Bool := opw.testBit 18
def levelOf (opw : Nat) : Nat := fld opw 20 3
def xopOf (opw : Nat) : Nat := fld opw 24 8
def srcOf (w : Nat) : Nat := w % 32
def vcOf (w : Nat) : Nat := fld w 5 5
def entOf (w : Nat) : Nat := fld w 10 6
def stickyOf (w : Nat) : Nat := fld w 16 16

/-! ## Operators (Tables 20-2, 20-3, 21-1) -/

/-- Which of a, b, c an operator uses: each list is one allowed form; none for an opcode that is no operator. -/
def opForms (op : Nat) : Option (List (List Bool)) :=
  let a := [true, false, false]
  let ab := [true, true, false]
  let abc := [true, true, true]
  if op = 0x10 ∨ op = 0x11 ∨ op = 0x12 ∨ (0x15 ≤ op ∧ op ≤ 0x18) then some [ab]
  else if op = 0x13 ∨ op = 0x14 then some [abc]
  else if 0x19 ≤ op ∧ op ≤ 0x1D then some [a]
  else if 0x20 ≤ op ∧ op ≤ 0x22 then some [ab]
  else if op = 0x23 then some [abc]
  else if op = 0x24 ∨ op = 0x25 then some [ab, a]
  else if 0x26 ≤ op ∧ op ≤ 0x2A then some [ab]
  else if op = 0x2B then some [a]
  else if op = 0x2C then some [abc]
  else if op = 0x30 ∨ op = 0x31 then some [ab]
  else if op = 0x32 then some [abc]
  else if op = 0x38 then some [a]
  else if op = 0x39 then some [ab, a]
  else if op = 0x3A then some [a]
  else if 0x40 ≤ op ∧ op ≤ 0x43 then some [a]
  else if op = 0x50 ∨ op = 0x53 then some [ab]
  else if op = 0x51 ∨ op = 0x52 then some [abc]
  else if 0x54 ≤ op ∧ op ≤ 0x57 then some [a]
  else if op = 0x58 then some [abc, ab]
  else if 0x59 ≤ op ∧ op ≤ 0x5B then some [a]
  else if op = 0x60 then some [ab]
  else if op = 0x61 then some [abc]
  else none

/-- A dataflow or loupe operator of Table 21-1. -/
def isFlow (op : Nat) : Bool := decide (0x50 ≤ op)
/-- An operator that sends to paths (21 R429), and how many it has. -/
def pathsOf (op xop : Nat) : Nat :=
  if op = 0x50 ∨ op = 0x5B then xop % 4 + 1 else if op = 0x60 ∨ op = 0x61 then 2 else 0

def isInt (f : Nat) : Bool := decide (0x10 ≤ f) && decide (f ≤ 0x19)

/-- The format is allowed for an operator. -/
def opFmtOk (op f : Nat) : Bool :=
  if (0x10 ≤ op ∧ op ≤ 0x17) then fmtFloat f
  else if 0x18 ≤ op ∧ op ≤ 0x1D then fmtFloat f && f != 9
  else if (0x20 ≤ op ∧ op ≤ 0x2C) ∨ op = 0x31 then isInt f
  else if op = 0x30 then fmtFloat f && f != 2 && f != 3
  else if op = 0x32 then fmtListed f
  else if op = 0x38 then fmtFloat f || isInt f || f == 0x1C || f == 0x1D || f == 0x1E
  else if op = 0x39 ∨ (0x40 ≤ op ∧ op ≤ 0x43) then fmtFloat f || isInt f
  else if op = 0x3A then widthOf f == 4 || widthOf f == 6 || widthOf f == 8
  else if op = 0x55 then isInt f
  else if op = 0x56 then f == 0x18 || f == 0x19
  else if op = 0x59 ∨ op = 0x5A then isInt f || f == 0
  else if op = 0x60 ∨ op = 0x61 then f == 8
  else f == 0

/-- The operator-specific byte is in its range. -/
def opXopOk (op x : Nat) : Bool :=
  if op = 0x17 then decide (x ≤ 2)
  else if op = 0x30 then decide (x ≤ 7)
  else if op = 0x31 then decide (x ≤ 5)
  else if op = 0x3A then decide (x ≤ 1)
  else if op = 0x43 then decide (x ≤ 2)
  else if op = 0x50 then decide (1 ≤ x) && decide (x ≤ 3)
  else if op = 0x53 ∨ op = 0x54 ∨ op = 0x56 then decide (x ≤ 1)
  else if op = 0x55 then decide (x ≤ 7)
  else if op = 0x5B then decide (x ≤ 3)
  else if op = 0x60 ∨ op = 0x61 then decide (x ≤ 31)
  else x == 0

/-- A path descriptor is legal. -/
def pathOk (p : Nat) : Bool := let d := fld p 5 3; d != 7 && ((d != 5 && d != 6) || p % 32 == 0)

/-- The path bytes of an IMM. -/
def pathBytes (imm n : Nat) : List Nat := (List.range n).map (fun k => fld imm (8 * k) 8)

/-- The immediate is in its range; bUsed tells whether INB is used, src what INA reads. -/
def opImmOk (op xop imm : Nat) (bUsed : Bool) (src : Nat) : Bool :=
  if op = 0x24 ∨ op = 0x25 then (if bUsed then imm == 0 else decide (imm < 64))
  else if op = 0x38 ∨ op = 0x3A then
    (if src = 20 ∨ src = 21 then decide (imm < 64) && fmtListed imm else imm == 0)
  else if op = 0x39 then decide (imm < 65536)
  else if pathsOf op xop ≠ 0 then
    let n := pathsOf op xop
    let ps := pathBytes imm n
    let top := if op = 0x60 ∨ op = 0x61 then decide (imm < 2 ^ 18) else decide (imm < 2 ^ (8 * n))
    ps.all pathOk && top && decide ((ps.filter (fun p => fld p 5 3 == 5)).length ≤ 1)
  else if op = 0x55 then true
  else if op = 0x57 then decide (imm < 2 ^ 28) && (List.range 7).all (fun k => decide (fld imm (4 * k) 4 < 8))
  else imm == 0

/-- The operator needs a clasp level of 1 to 7. -/
def opNeedsLevel (op xop : Nat) : Bool :=
  (decide (0x40 ≤ op) && decide (op ≤ 0x43)) || op == 0x56 || op == 0x60 || op == 0x61 || (op == 0x54 && xop == 1)

/-- The format a slot's output is read in (Table 20-2). -/
def outFmt (opw : Nat) : Nat :=
  if opcodeOf opw = 0x30 then
    (match widthOf (fmtOf opw) with | 4 => 0x12 | 8 => 0x14 | 16 => 0x16 | 32 => 0x18 | _ => 0x19)
  else fmtOf opw

/-- ceil(log2 n). -/
def clog2 (n : Nat) : Nat := if n ≤ 1 then 0 else Nat.log2 (n - 1) + 1

/-- The latency of an operator at the width that applies, n its lanes (Tables 20-3, 21-1). -/
def latencyOf (op w n : Nat) : Nat :=
  let pick := fun (a b c : Nat) => if w ≤ 16 then a else if w = 32 then b else c
  if op = 0x22 ∨ op = 0x23 then pick 2 3 4
  else if (0x20 ≤ op ∧ op ≤ 0x2C) ∨ op = 0x31 ∨ op = 0x32 ∨ op = 0x3A then 1
  else if op = 0x12 then pick 3 3 4
  else if op = 0x13 ∨ op = 0x14 then pick 4 4 5
  else if op = 0x1A ∨ op = 0x1B then 8
  else if op = 0x18 ∨ op = 0x19 then pick 8 10 10
  else if op = 0x1C ∨ op = 0x1D then 10
  else if 0x40 ≤ op ∧ op ≤ 0x43 then 4 + clog2 n
  else if op = 0x60 ∨ op = 0x61 then 8
  else if isFlow op then 1
  else pick 2 2 3

/-- The residue class of an operator: its SRC code when a result's check fails (Tables 12-1, 12-5). -/
def opSrc (op : Nat) : Nat :=
  if (0x18 ≤ op ∧ op ≤ 0x1D) ∨ op = 0x30 ∨ op = 0x31 ∨ (0x38 ≤ op ∧ op ≤ 0x3A) ∨ op = 0x59 ∨ op = 0x5A then 2 else 1

/-- A move-class operator passes a poisoned a or b (12 R263; 20 R425): it is sel. -/
def opIsSel (op : Nat) : Bool := op == 0x32

/-- What format an input's elements have: a VC entry, another slot's output, or the operand format. none for an unused
input. -/
def Tile.inFmt (t : Tile) (sh : Bool) (s i : Nat) : Option (Nat × Bool) :=
  let w := t.inw sh s i
  let src := srcOf w
  if src < 16 then some (outFmt (t.opw sh src), false)
  else if src ≤ 19 ∨ src = 22 then
    let e := t.fieldOf sh (104 + vcOf w)
    some (fld e 0 6, e.testBit 10)
  else if src = 20 ∨ src = 21 then
    let op := opcodeOf (t.opw sh s)
    some (if op = 0x38 ∨ op = 0x3A then t.immw sh s % 64 else fmtOf (t.opw sh s), false)
  else none

/-! ## The check (08 R179, R191, R192) -/

/-- The first fault of a list of conditions: each is a condition that holds when the check fails, its reason and field. -/
def firstBad : List (Bool × Nat × Nat) → Option (Nat × Nat)
  | [] => none
  | (b, r, f) :: l => if b then some (r, f) else firstBad l

/-- The first fault found along a list. -/
def findBad {α : Type} (f : α → Option (Nat × Nat)) : List α → Option (Nat × Nat)
  | [] => none
  | x :: l => match f x with | some e => some e | none => findBad f l

/-- An input word of a slot (R172, R173, R213, R412). -/
def Tile.badInput (t : Tile) (sh : Bool) (lsneed s i : Nat) (used : Bool) : Option (Nat × Nat) :=
  let w := t.inw sh s i
  let f := 9 + 6 * s + i
  let src := srcOf w
  let op := opcodeOf (t.opw sh s)
  let width := widthOf (fmtOf (t.opw sh s))
  if used = false then firstBad [(src != 31, 1, f)]
  else
    let fm := match t.inFmt sh s i with | some x => x | none => (0, false)
    firstBad [
      (src == 31 || (decide (23 ≤ src) && decide (src ≤ 30)), 1, f),
      (decide (src < 16) && stickyOf w != 0, 1, f),
      (src == 20 && decide (entOf w ≥ lsneed), 1, f),
      (src == 21 && fld w 12 4 != 0, 1, f),
      (src == 22 && decide (vcOf w < 16), 1, f),
      ((op == 0x51 || op == 0x52 || op == 0x60 || op == 0x61) && stickyOf w != 0, 1, f),
      (!isFlow op && op != 0x38 && op != 0x3A && (widthOf fm.1 != width || fm.2), 1, f),
      (op == 0x39 && i == 1 && !isInt fm.1, 1, f),
      (op == 0x38 && (fm.1 == 0 || !fmtListed fm.1), 1, f),
      (op == 0x3A && (fm.2 || !(widthOf fm.1 == 4 || widthOf fm.1 == 6 || widthOf fm.1 == 8)), 1, f),
      ((op == 0x60 || op == 0x61) && decide (i < 2) && (fm.1 != 8 || fm.2), 1, f),
      (op == 0x61 && i == 2 && !(if src < 16 then opcodeOf (t.opw sh src) == 0x60
        else (decide (src ≤ 19) || src == 22) && fm.1 == 0), 1, f)]

/-- The used inputs of a slot as its words have them. -/
def Tile.usedIns (t : Tile) (sh : Bool) (s : Nat) : List Bool :=
  (List.range 3).map (fun i => srcOf (t.inw sh s i) != 31)

/-- A slot of a vector tile (R172, R183, R413, R428, R429). -/
def Tile.badSlot (t : Tile) (sh : Bool) (lsneed s : Nat) : Option (Nat × Nat) :=
  let opw := t.opw sh s
  let op := opcodeOf opw
  let f := 8 + 6 * s
  if op = 0 then
    findBad (fun i => firstBad [(t.fieldOf sh (f + i) != 0, 1, f + i)]) [1, 2, 3, 4, 5]
  else match opForms op with
  | none => some (2, f)
  | some forms =>
    let used := t.usedIns sh s
    let form := match forms.find? (fun l => l == used) with | some l => l | none => forms.headD []
    let out := t.outw sh s
    let path := pathsOf op (xopOf opw) != 0
    let e := firstBad [
      (opw.testBit 23 || opw.testBit 19 || decide (modeOf opw ≥ 5), 1, f),
      (!opFmtOk op (fmtOf opw), 1, f),
      (!opXopOk op (xopOf opw), 1, f),
      (opNeedsLevel op (xopOf opw) && levelOf opw == 0, 1, f)]
    match e with
    | some x => some x
    | none =>
      match findBad (fun i => t.badInput sh lsneed s i (form.getD i false)) [0, 1, 2] with
      | some x => some x
      | none => firstBad [
          (decide (out ≥ 2 ^ 26), 1, f + 4),
          (path && (out % 2 ^ 17 != 0), 1, f + 4),
          ((op == 0x5A || (op == 0x54 && xopOf opw == 0)) && out != 0, 1, f + 4),
          (out.testBit 4 && decide (fld out 11 6 ≥ lsneed), 1, f + 4),
          (!opImmOk op (xopOf opw) (t.immw sh s) (form.getD 1 false) (srcOf (t.inw sh s 0)), 1, f + 5)]

/-- A route entry of a table, valid or not (R166, R213); feed tells whether the tile has a feed side. -/
def badRoute (v f : Nat) (feed : Bool) : Option (Nat × Nat) :=
  firstBad [(fld v 9 13 != 0 || decide (fld v 28 3 ≥ 5) || (!feed && (fld v 28 3 == 4 || v.testBit 27)), 1, f)]

/-- A timed-list entry as (tick, pipe, slot, idle, count). -/
def timedEntry (v : Nat) : Nat × Nat × Nat × Bool × Nat := (fld v 20 12, fld v 18 2, fld v 14 4, v.testBit 13, v % 8192)

/-- The entries of a timed list that count. -/
def Tile.timedList (t : Tile) (sh : Bool) : List (Nat × Nat × Nat × Bool × Nat) :=
  (List.range (t.fieldOf sh 4 % 64)).map (fun e => timedEntry (t.fieldOf sh (200 + e)))

/-- The lanes an input of a slot delivers a token, and the latency of its slot. -/
def Tile.slotLatency (t : Tile) (sh : Bool) (s : Nat) : Nat :=
  let opw := t.opw sh s
  let op := opcodeOf opw
  let w := widthOf (fmtOf opw)
  let w := if op = 0x38 ∨ op = 0x3A then max w (match t.inFmt sh s 0 with | some x => widthOf x.1 | none => 0) else w
  latencyOf op w (lanesOf (fmtOf opw))

/-- A timed configuration (R187, R188, R191, R424, R447). -/
def Tile.badTimed (t : Tile) (sh : Bool) : Option (Nat × Nat) :=
  if t.fieldOf sh 0 % 2 = 0 then none
  else
    let n := t.fieldOf sh 4
    let per := t.fieldOf sh 3
    let l := (t.timedList sh).zipIdx
    let land := fun (e : Nat × Nat × Nat × Bool × Nat) => e.1 + t.slotLatency sh e.2.2.1
    let lsOf := fun (e : Nat × Nat × Nat × Bool × Nat) =>
      let o := t.outw sh e.2.2.1
      if o.testBit 4 then some (fld o 11 6) else none
    let badValue := fun (e : Nat × Nat × Nat × Bool × Nat) =>
      if e.2.2.2.1 then e.2.2.1 != 0 || e.2.2.2.2 == 0 || decide (e.2.2.2.2 > 4096) else e.2.2.2.2 != 0
    let badEntry := fun (e : Nat × Nat × Nat × Bool × Nat) =>
      if e.2.2.2.1 then decide (e.1 + e.2.2.2.2 > per)
      else
        let op := opcodeOf (t.opw sh e.2.2.1)
        op == 0 || isFlow op || op == 0x3A || decide (e.1 ≥ per) || decide (land e ≥ per) ||
          (t.usedIns sh e.2.2.1).zipIdx.any (fun u => u.1 && decide (srcOf (t.inw sh e.2.2.1 u.2) < 16)) ||
          (op == 0x38 && (match t.inFmt sh e.2.2.1 0 with
            | some x => x.2 || lanesOf x.1 != lanesOf (fmtOf (t.opw sh e.2.2.1)) | none => true))
    let clash := fun (e o : Nat × Nat × Nat × Bool × Nat) =>
      if e.2.2.2.1 ∨ o.2.2.2.1 then
        e.2.1 == o.2.1 && overlap' e.1 (if e.2.2.2.1 then e.2.2.2.2 else 1) o.1 (if o.2.2.2.1 then o.2.2.2.2 else 1)
      else (e.1 == o.1 && e.2.1 == o.2.1) || ((lsOf e).isSome && lsOf e == lsOf o && land e == land o)
    match firstBad [(n % 64 == 0 || decide (n % 64 > 56), 5, 4), (per == 0 || decide (per > 4096), 6, 3)] with
    | some x => some x
    | none => findBad (fun e => firstBad [
        (badValue e.1, 1, 200 + e.2),
        (badEntry e.1, 7, 200 + e.2),
        (l.any (fun o => decide (o.2 < e.2) && clash o.1 e.1), 7, 200 + e.2)]) l
where
  /-- Two ranges of ticks overlap. -/
  overlap' (a n b m : Nat) : Bool := decide (a < b + m) && decide (b < a + n)

/-- TCTL and SWROUTE (R182); feed tells whether the tile has a feed side. -/
def Tile.badCtl (t : Tile) (sh : Bool) (feed : Bool) : Option (Nat × Nat) :=
  let c := t.fieldOf sh 0
  let p := fld c 8 3
  firstBad [
    (decide (c ≥ 2 ^ 26) || fld c 1 3 != 0, 1, 0),
    (t.kind != 0 && (c % 2 != 0 || fld c 4 4 != 0), 1, 0),
    (p == 5 || p == 6 || (p == 4 && !feed) || (c.testBit 20 && !feed), 1, 0),
    (p == 4 && (if t.kind = 0 then decide (fld c 11 5 < 16) else decide (fld c 11 5 ≥ 16)), 1, 0),
    (decide (t.fieldOf sh 6 ≥ 512), 1, 6)]

/-- A vector tile's bank. -/
def Tile.badVector (t : Tile) (sh : Bool) (lsneed : Nat) : Option (Nat × Nat) :=
  let fs : List (Option (Nat × Nat)) := [
    t.badCtl sh true,
    firstBad [(decide (t.fieldOf sh 3 ≥ 8192), 1, 3), (decide (t.fieldOf sh 4 ≥ 64), 1, 4)],
    findBad (fun v => let e := t.fieldOf sh (104 + v)
      firstBad [(fld e 11 20 != 0 || !fmtListed (e % 64) || (e.testBit 10 && !isBlock (e % 64)), 1, 104 + v)]) (List.range 32),
    findBad (fun i => firstBad [(decide (t.fieldOf sh (136 + i) ≥ 256), 1, 136 + i)]) (List.range 16),
    findBad (fun i => badRoute (t.fieldOf sh (152 + i)) (152 + i) true) (List.range 16),
    findBad (fun s => t.badSlot sh lsneed s) (List.range 16),
    t.badTimed sh]
  findBad id fs

/-- A port of a matrix tile's OPORTS. -/
def oportHas (f11 p : Nat) : Bool := f11.testBit (24 + p)

/-- A matrix tile's bank (R196, R197). -/
def Tile.badMatrix (t : Tile) (sh : Bool) : Option (Nat × Nat) :=
  let f := t.fieldOf sh
  let sect := f 13 != 0
  let af := f 8 % 64
  let bf := fld (f 8) 6 6
  let kind := fld (f 8) 12 2
  let of := f 10 % 64
  let ap := f 11 % 8
  let b0 := fld (f 11) 8 3
  let b1 := fld (f 11) 16 3
  let small := fun (c : Nat) => (decide (0x10 ≤ c) && decide (c ≤ 0x17)) || c == 0x1C
  let wide := fun (c : Nat) => c == 6 || c == 7 || c == 8
  let fs : List (Option (Nat × Nat)) := [
    t.badCtl sh false,
    firstBad [
      (decide (f 1 ≥ 2 ^ 20) || (sect && (fld (f 1) 17 3 == 0 || f 1 % 2 ^ 16 == 0)), 1, 1),
      (decide (f 2 ≥ 2 ^ 12), 1, 2), (decide (f 4 ≥ 2), 1, 4), (f 5 != 0, 1, 5),
      (decide (f 8 ≥ 2 ^ 23) || kind == 3 || !fmtListed af || !fmtListed bf, 1, 8),
      (sect && ((kind != 0 && fld (f 8) 14 6 != 0) || !fmtMatrix af || !fmtMatrix bf ||
        kind != (if wide af || wide bf then 2 else if kind = 1 && small af && small bf then 1 else 0)), 1, 8),
      (decide (f 10 ≥ 2 ^ 14) || decide (fld (f 10) 6 3 ≥ 5) || !fmtListed of, 1, 10),
      (sect && (isBlock of || of == 0 || (of == 0x3F && kind != 0)), 1, 10),
      (decide (f 11 ≥ 2 ^ 28) || decide (ap ≥ 4) || decide (b0 ≥ 4) || (decide (4 ≤ b1) && decide (b1 ≤ 6)), 1, 11),
      (sect && (ap == b0 || ap == b1 || oportHas (f 11) ap || b0 == b1), 1, 11),
      (decide (f 12 ≥ 2 ^ 14), 1, 12), (decide (f 13 ≥ 256), 1, 13)],
    findBad (fun i => badRoute (f (14 + i)) (14 + i) false) (List.range 8),
    findBad (fun i => firstBad [(decide (f (136 + i) ≥ 256), 1, 136 + i)]) (List.range 16)]
  findBad id fs

/-- A memory tile's bank (R214, R215, R217). -/
def Tile.badMemory (t : Tile) (sh : Bool) (feed : Bool) : Option (Nat × Nat) :=
  let f := t.fieldOf sh
  let mode := f 1
  let m := f 4
  let rsize := fld (f 40) 12 13
  let rbase := f 40 % 4096
  let wp := f 41 % 8
  let cp := f 42 % 8
  let op := f 43 % 32
  let badPort := fun (p v : Nat) => p == 5 || p == 6 || (p == 4 && (!feed || decide (fld v 3 5 ≥ 16)))
  let en := fun (g : Nat) => (f (8 + 8 * g)).testBit 31
  let wr := fun (g : Nat) => (f (8 + 8 * g)).testBit 30
  let gens := List.range 4
  let readers := (gens.filter (fun g => en g && !wr g)).length
  let writers := (gens.filter (fun g => en g && wr g)).length
  let needW := mode == 1 || mode == 2 || mode == 3 || mode == 4
  let needC := mode == 4 || mode == 5 || mode == 6
  let needO := mode == 2 || mode == 3 || mode == 4 || mode == 5 || mode == 6
  let mctlBad :=
    match mode with
    | 1 => let nb := m % 16; m % 256 != nb || decide (m ≥ 2 ^ 12) || nb == 0 || decide (nb > 8) || decide (fld m 8 4 > nb) || decide (rsize < nb)
    | 3 => let ll := m % 8192; let wh := fld m 13 3; let ww := fld m 16 3
           decide (m ≥ 2 ^ 19) || wh == 0 || ww == 0 || ll == 0 || decide (ll > 4096) || decide (ww > ll) || decide (wh * ll > rsize)
    | 4 => decide (m ≥ 8) || m == 0
    | 5 => decide (m ≥ 2 ^ 15) || m == 0 || decide (m > 16384) || decide ((m + 15) / 16 > rsize)
    | 6 => decide (m ≥ 2 ^ 17) || m == 0 || decide (m > 32768) || decide ((m + 7) / 8 > rsize)
    | _ => m != 0
  let badGen := fun (g : Nat) =>
    let b := 8 + 8 * g
    firstBad [
      (fld (f b) 12 4 != 0 || (en g && mode != 1), 1, b),
      (en g && (f (b + 1) / 65536 == 0), 1, b + 1), (en g && (f (b + 2) / 65536 == 0), 1, b + 2),
      (en g && (f (b + 3) / 65536 == 0), 1, b + 3), (en g && (f (b + 4) / 65536 == 0), 1, b + 4),
      (decide (f (b + 5) ≥ 16), 1, b + 5),
      (decide (f (b + 6) ≥ 2 ^ 19) || (!feed && (f (b + 6)).testBit 4) || (en g && wr g && f (b + 6) % 32 != 0), 1, b + 6),
      (f (b + 7) != 0, 1, b + 7)]
  let fs : List (Option (Nat × Nat)) := [
    t.badCtl sh feed,
    firstBad [
      (decide (mode ≥ 7), 1, 1), (decide (f 2 ≥ 2 ^ 15), 1, 2), (mctlBad, 1, 4), (f 5 != 0, 1, 5),
      (decide (f 40 ≥ 2 ^ 25) || decide (rsize > 4096) || decide (rbase + rsize > 4096) || (rsize == 0 && mode != 0), 1, 40),
      (decide (f 41 ≥ 256) || badPort wp (f 41) || (needW != (wp != 7)), 1, 41),
      (decide (f 42 ≥ 256) || badPort cp (f 42) || (needC != (cp != 7)), 1, 42),
      (wp != 7 && f 41 % 256 == f 42 % 256, 1, 41),
      (decide (f 43 ≥ 2 ^ 19) || (!feed && (f 43).testBit 4) || (needO != (op != 0)), 1, 43),
      (f 44 != 0, 1, 44), (f 45 != 0, 1, 45), (f 46 != 0, 1, 46), (f 47 != 0, 1, 47),
      (mode == 1 && (readers == 0 || decide (writers > 1)), 1, 8)],
    findBad badGen gens,
    findBad (fun i => badRoute (f (48 + i)) (48 + i) feed) (List.range 8)]
  findBad id fs

/-- A tile's bank fails the check: the reason and field. -/
def Tile.badBank (t : Tile) (sh : Bool) (idx lsneed : Nat) : Option (Nat × Nat) :=
  if t.kind = 0 then t.badVector sh lsneed
  else if t.kind = 1 then t.badMatrix sh
  else t.badMemory sh (hasFeed idx)

/-! ## The stream (08 R178, R179) -/

/-- A fault of a stream: element, field, reason. -/
abbrev CfgBad := Nat × Nat × Nat

/-- The writes that a stream of commands makes, in order: bank (true the shadow), element, field, value. left counts the
data words to come of a long write at (bank, element, field). -/
def parseCfg (sh : Bool) (e f left : Nat) : List Nat → CfgBad ⊕ List (Bool × Nat × Nat × Nat)
  | [] => if left = 0 then .inr [] else .inl (0, f, 4)
  | w :: r =>
    if left ≠ 0 then
      match parseCfg sh e (f + 1) (left - 1) r with
      | .inr l => .inr ((sh, e, f, w) :: l)
      | .inl b => .inl b
    else
      let sh' := w.testBit 30
      let e' := fld w 18 12
      let f' := fld w 10 8
      if w.testBit 31 then
        let n := w % 1024
        if n = 0 ∨ f' + n - 1 > 255 then .inl (e', f', 4) else parseCfg sh' e' f' n r
      else match parseCfg false 0 0 0 r with
        | .inr l => .inr ((sh', e', f', w % 1024) :: l)
        | .inl b => .inl b

/-- A 32-bit word of a row replaced. -/
def Row.setWord (r : Row) (i v : Nat) : Row :=
  { r with v := (r.v &&& ~~~(BitVec.ofNat 256 (0xFFFFFFFF * 2 ^ (32 * i)))) ||| BitVec.ofNat 256 (v % 2 ^ 32 * 2 ^ (32 * i)) }

/-- An initial token stands in its channel (08 R180). -/
def Tile.initial (t : Tile) (v : Nat) : Tile :=
  let row := Tab.get Row.zero t.ls (fld v 14 6)
  let kind := fld v 8 3
  let vc := fld v 3 5
  let ch := (v % 8) * 32 + vc
  let w := if kind = 0 ∨ kind = 5 then mkWord row.v vc kind 0 0 else mkWord 0 vc kind (if kind = 1 then fld v 11 3 else 0) 0
  { t with chans := Tab.set [] t.chans ch (Tab.get [] t.chans ch ++ [{ w := w, at_ := 0, fwd := 0, local_ := true, met := true }]) }

/-- The 64-bit value of an accumulator entry as it is stored: exa and i64 as integers, binary64 as its encoding. -/
def accHalf (x : Int) (half : Nat) (v : Nat) : Int :=
  let n := (x % (2 ^ 64 : Nat)).toNat
  let n := if half = 0 then n / 2 ^ 32 * 2 ^ 32 + v % 2 ^ 32 else n % 2 ^ 32 + v % 2 ^ 32 * 2 ^ 32
  sintOf n 64

/-- One write of a stream to a tile in a fabric cycle (R181: local store, SRAM and accumulators are not banked). A write of
MEMDATA takes its row's bank before any other access of the cycle (10 R212). -/
def Tile.write (t : Tile) (now : Nat) (sh : Bool) (f v : Nat) : Tile :=
  if t.kind = 0 ∧ f = 2 then
    let a := t.fieldOf sh 1
    let ent := a % 64
    let wd := fld a 6 3
    let t := { t with ls := Tab.set Row.zero t.ls ent ((Tab.get Row.zero t.ls ent).setWord wd v) }
    t.setField sh 1 (if wd = 7 then (ent + 1) % 64 else ent + (wd + 1) * 64)
  else if t.kind = 0 ∧ f = 5 then (t.initial v).setField sh f v
  else if t.kind = 1 ∧ f = 3 then
    let a := t.fieldOf sh 2
    let i := fld a 1 11
    let t := { t with mat := { t.mat with acc := Tab.set 0 t.mat.acc i (accHalf (Tab.get 0 t.mat.acc i) (a % 2) v) } }
    t.setField sh 2 ((a + 1) % 4096)
  else if t.kind = 2 ∧ f = 3 then
    let a := t.fieldOf sh 2
    let r := a / 8 % 4096
    let t := { t with pipeAt := Tab.set 0 t.pipeAt (30 + r % 4) (now + 1), mem := { t.mem with
      rows := Tab.set Row.zero t.mem.rows r ((Tab.get Row.zero t.mem.rows r).setWord (a % 8) v) } }
    t.setField sh 2 ((a + 1) % 32768)
  else t.setField sh f v

/-- What is wrong with one write as it is made, given the tile before it (R182, ITOKEN, LSADDR,
ACCADDR and MEMADDR). -/
def Tile.badWrite (t : Tile) (sh : Bool) (lsneed f v : Nat) : Option (Nat × Nat) :=
  if fieldIn t.kind f = false then some (3, f)
  else if t.kind = 0 ∧ f = 2 then
    let a := t.fieldOf sh 1
    firstBad [(decide (a ≥ 512) || decide (a % 64 ≥ lsneed), 1, 1)]
  else if t.kind = 0 ∧ f = 5 then
    let kind := fld v 8 3
    let p := v % 8
    firstBad [
      (decide (v ≥ 2 ^ 20) || decide (p ≥ 5) || !(kind == 0 || kind == 1 || kind == 5 || kind == 6), 1, 5),
      (if kind = 1 then fld v 11 3 == 0 else fld v 11 3 != 0, 1, 5),
      (p == 4 && decide (fld v 3 5 < 16), 1, 5),
      ((kind == 0 || kind == 5) && decide (fld v 14 6 ≥ lsneed), 1, 5)]
  else if t.kind = 1 ∧ f = 3 then firstBad [(decide (t.fieldOf sh 2 ≥ 2 ^ 12), 1, 2)]
  else if t.kind = 2 ∧ f = 3 then firstBad [(decide (t.fieldOf sh 2 ≥ 2 ^ 15), 1, 2)]
  else none

/-- A stream's writes applied to a set of tiles by element, checking each as it is made; run tells whether the elements
have had their start token (reason 8), use whether an element is in the cut's USEMASK, lsneed the entries it needs. -/
def applyWrites (now : Nat) (use : Nat → Bool) (lsneed : Nat → Nat) (run : Bool) (ts : Tab Tile) :
    List (Bool × Nat × Nat × Nat) → CfgBad ⊕ Tab Tile
  | [] => .inr ts
  | (sh, e, f, v) :: r =>
    if use e = false then .inl (e, f, 2)
    else
      let t := Tab.get Tile.empty ts e
      match t.badWrite sh (lsneed e) f v with
      | some (rs, fl) => .inl (e, fl, rs)
      | none =>
        if run && !sh then .inl (e, f, 8)
        else applyWrites now use lsneed run (Tab.ins (Tab.del ts e) e (t.write now sh f v)) r

/-- The first element of a list, with its tile, whose banks fail the check after the stream. -/
def badTiles (lsneed : Nat → Nat) : Tab Tile → Option CfgBad
  | [] => none
  | (e, t) :: r =>
    match t.badBank false (e % 64) (lsneed e) with
    | some (rs, f) => some (e, f, rs)
    | none => match t.badBank true (e % 64) (lsneed e) with
      | some (rs, f) => some (e, f, rs)
      | none => badTiles lsneed r

/-- A value of LSADDR that stands at the stream's end as it was written is in range. -/
def lsFinal (lsneed : Nat → Nat) : List (Bool × Nat × Nat × Nat) → Option CfgBad
  | [] => none
  | (sh, e, f, v) :: r =>
    if tileKind (e % 64) = 0 ∧ f = 1 ∧ (decide (v ≥ 512) || decide (v % 64 ≥ lsneed e)) ∧
        r.all (fun w => w.1 != sh || w.2.1 != e || (w.2.2.1 != 1 && w.2.2.1 != 2)) then some (e, 1, 1)
    else lsFinal lsneed r

/-- The channel of an initial token that a write makes in an element. -/
def itokOf (w : Bool × Nat × Nat × Nat) : Option (Nat × Nat) :=
  if tileKind (w.2.1 % 64) = 0 ∧ w.2.2.1 = 5 then some (w.2.1, w.2.2.2 % 256) else none

/-- The first element to one of whose channels more than two initial tokens are written (R179). -/
def tooManyTokens (l : List (Bool × Nat × Nat × Nat)) : Option CfgBad :=
  (l.find? (fun w => (itokOf w).isSome && decide (2 < (l.filter (fun u => itokOf u == itokOf w)).length))).map
    (fun w => (w.2.1, 5, 9))

/-- A configuration stream checked and applied, in a fabric cycle, to the tiles of a cut (R179, R180): the tiles after it, or
its fault. -/
def runCfg (now : Nat) (use : Nat → Bool) (lsneed : Nat → Nat) (run : Bool) (ts : Tab Tile) (words : List Nat) : CfgBad ⊕ Tab Tile :=
  match parseCfg false 0 0 0 words with
  | .inl b => .inl b
  | .inr l => match applyWrites now use lsneed run ts l with
    | .inl b => .inl b
    | .inr ts' => match (lsFinal lsneed l).or (tooManyTokens l) with
      | some b => .inl b
      | none => match badTiles lsneed (ts'.filter (fun e => l.any (fun w => w.2.1 == e.1))) with
      | some b => .inl b
      | none => .inr ts'

/-- TVAL of a cut fault (Table 08-10). -/
def cutTval (cut : Nat) (b : CfgBad) : Word := field 62 2 cut ||| field 50 12 b.1 ||| field 42 8 b.2.1 ||| field 38 4 b.2.2

end Sys2Proof.Machine
end

