-- ==== Sys2Proof/Machine/Mesh.lean ====
section
/-! DEFINITION. Links and switches of the fabric (08 R162 to R168, R193; 05 R101, R107, R108; 02 R37 to R40; 10 R213):
what a tile sends, what a switch does with it, what is dropped and who hears of it. -/

namespace Sys2Proof.Machine

/-- What every meaning answers. -/
abbrev MeshResult := Host.Outcome State Fault Refusal

/-! ## Reports to the owner of a load (05 R101, R108; 08 R168) -/

/-- An entry of a die's fault queue, by its sequence number, has not been passed by FQHEAD: it waits to be written, or
stands in the ring. -/
def State.fqHolds (s : State) (d seq : Nat) : Bool :=
  let x := s.die d
  let size := 64 * 2 ^ bits x.fqbase 4 4
  x.fqWait.any (fun e => e.1 == seq) ||
    (s.fqOn d && (List.range (min size ((x.fqtail + 2 ^ 32 - x.fqhead) % 2 ^ 32))).any (fun i =>
      bits (s.homeD (bits x.fqbase 12 44 * 4096 + 64 * ((x.fqhead + i) % size))) 32 32 == seq))

/-- TVAL of a report of drops with its DROPS field. -/
def withDrops (cause : Nat) (tval : Word) (n : Nat) : Word :=
  if cause = 0x0F then setBits tval 0 16 (min n 65535) else setBits tval 4 8 (min n 255)

/-- A word is dropped at the bezel or tile whose key is src: a new report, or one more drop of the pending one. die is the
sending die, whose fault queue takes a bezel's copy. -/
def State.reportDrop (s : State) (l src cause die : Nat) (tval : Word) : State :=
  match s.load l with
  | none => s
  | some x =>
    let copy := fun (s : State) (n : Nat) =>
      s.faultEntry die 5 (bits x.asid 0 16) 0 0 0 [0, withDrops cause tval n, 0, 0, 0, 0, 0]
    match x.owner with
    | some k =>
      match x.reports.find? (fun r => r.src == src) with
      | some r =>
        let r' := { r with drops := satAdd r.drops 1 (if cause = 0x0F then 65535 else 255) }
        s.setLoad l { x with reports := r' :: x.reports.filter (fun q => q.src != src) }
      | none =>
        let t := s.pend k cause (withDrops cause tval 1) src
        let took := decide ((s.context k).pend.length < (t.context k).pend.length)
        let t := if took then
            t.setLoad l { x with reports := { src := src, cause := cause, tval := tval, drops := 1 } :: x.reports }
          else t
        if cause = 0x0F then copy t 1 else t
    | none =>
      let d := if cause = 0x0F then die else x.die0
      let v := Tab.get 0 x.seen src
      if v ≠ 0 ∧ s.fqHolds d (v / 65536 - 1) then
        s.setLoad l { x with seen := Tab.set 0 x.seen src (v / 65536 * 65536 + satAdd (v % 65536) 1 65535) }
      else
        let n := 1 + v % 65536
        let s' := s.setLoad l { x with seen := Tab.set 0 x.seen src (((s.die d).fqSeq + 1) * 65536) }
        if cause = 0x0F then copy s' n else s'.orphanReport x cause (withDrops cause tval n)

/-- The keys of the reports of a tile and of a bezel of a load. -/
def tileSrc (l key : Nat) : Nat := l * 2 ^ 24 + key
def bezelSrc (l key edge : Nat) : Nat := l * 2 ^ 24 + 2 ^ 20 + key / 64 * 4 + edge

/-- TVAL of a fabric machine check (12 Table 12-4). -/
def fabTval (l cut e key slot lane opcode src : Nat) : Word :=
  field 48 16 l ||| field 46 2 cut ||| field 44 2 (tileDie key) ||| field 32 12 e ||| field 24 8 (tileFacet key) |||
    field 20 4 slot ||| field 17 3 lane ||| field 9 8 opcode ||| field 5 4 src

/-- A machine check in a tile: a mismatch is followed by the self-test of its lane, consumed poison is not (12 R259,
R263). unit: 0 an operator's pipe lane or a switch, 1 a local-store entry, 2 a matrix column, 3 a memory row. -/
def State.tileCheck (s : State) (key slot lane opcode src : Nat) (test inj : Bool) (unit : Nat) : State :=
  match s.tileLoad key with
  | none => s
  | some (l, x) => match x.elemOn key with
    | none => s
    | some (cut, e) =>
      s.fabricCheck l (fabTval l cut e key slot lane opcode src)
        (if test then some [1, key, unit, slot * 8 + lane] else none) inj false

/-! ## Links (08 R162, R163; 05 R107) -/

/-- The tile that a mesh port faces: 0 north, 1 east, 2 south, 3 west; none off the fabric die. -/
def neighbour (key p : Nat) : Option Nat :=
  let x := tileFacet key % 12 * 8 + key % 64 % 8
  let y := tileFacet key / 12 * 8 + key % 64 / 8
  let at_ := fun (x y : Nat) => tileKey (tileDie key) (y / 8 * 12 + x / 8) (y % 8 * 8 + x % 8)
  match p with
  | 0 => if y = 0 then none else some (at_ x (y - 1))
  | 1 => if x = 95 then none else some (at_ (x + 1) y)
  | 2 => if y = 127 then none else some (at_ x (y + 1))
  | _ => if x = 0 then none else some (at_ (x - 1) y)

/-- Two tiles stand in one cut, so that no enabled bezel lies between them. -/
def Load.sameCut (x : Load) (a b : Nat) : Bool := x.cuts.any (fun c =>
  c.holds (tileDie a) (tileFacet a) && c.holds (tileDie b) (tileFacet b))

/-- A channel's number in a tile. -/
def chan (port vc : Nat) : Nat := port * 32 + vc
def Tile.ch (t : Tile) (port vc : Nat) : List ChTok := Tab.get [] t.chans (chan port vc)
def Tile.setCh (t : Tile) (port vc : Nat) (l : List ChTok) : Tile := { t with chans := Tab.set [] t.chans (chan port vc) l }

/-- The head of a channel leaves it; its place is free for the sender one fabric cycle later (R163). -/
def Tile.dropHead (t : Tile) (now port vc : Nat) : Tile :=
  let v := Tab.get 0 t.freed (chan port vc)
  { t.setCh port vc ((t.ch port vc).drop 1) with
    freed := Tab.set 0 t.freed (chan port vc) (if v / 4 = now + 1 then v + 1 else (now + 1) * 4 + 1) }
/-- A channel has a credit to give: of its two places one is free, and was so before this fabric cycle. -/
def Tile.hasCredit (t : Tile) (now port vc : Nat) : Bool :=
  let v := Tab.get 0 t.freed (chan port vc)
  decide ((t.ch port vc).length + (if v / 4 = now + 1 then v % 4 else 0) < 2)

/-- A tile as it stands where nothing has been configured or received: its kind is that of its place (05 R88). -/
def State.tileOr (s : State) (key : Nat) : Tile :=
  let t := s.tile key
  if t = Tile.empty then { t with kind := tileKind (key % 64) } else t

/-- The port has sent no word in this fabric cycle. -/
def Tile.linkFree (t : Tile) (p now : Nat) : Bool := Tab.get 0 t.sentAt p != now + 1

/-- The feed port of a tile: the memory tile that carries it, itself or its west neighbour (R162). -/
def feedTile (key : Nat) : Nat := if tileKind (key % 64) = 2 then key else key - 1

/-- A tile has a feed side. -/
def feedSide (key : Nat) : Bool := tileKind (key % 64) == 0 || hasFeed (key % 64)

/-! ## The uplink of a feed port (08 R193) -/

/-- Where a word that leaves a feed port toward the base die goes. -/
inductive Up where
  | bridge (n : Nat)
  | border (circ : Nat)
  | queue (key : Nat)
  deriving DecidableEq, Repr

def brgSrc (w : Word) : Nat × Nat × Nat := (bits w 0 2, bits w 5 6, bits w 2 3)
def brgDst (w : Word) : Nat × Nat × Nat := (bits w 11 2, bits w 16 6, bits w 13 3)

/-- The destination for a word of a ROUTE and VC that leaves feed port p of facet fac of cut cut. -/
def Load.upFor (x : Load) (l cut fac p route vc : Nat) : Up :=
  match x.brg.findIdx? (fun w => bits w 27 9 == route && brgSrc w == (cut, fac, p)) with
  | some n => .bridge n
  | none =>
    match x.bord.find? (fun w => !bit w 25 && bits w 11 9 == route && bits w 0 2 == cut && bits w 2 6 == fac && bits w 8 3 == p) with
    | some w => .border (bits w 26 12)
    | none => .queue (circuitKey l cut fac p vc false)

/-- The key of a border-circuit end. -/
def borderKey (circ : Nat) (inward : Bool) : Nat := circ * 2 + b2n inward

/-- The destination can take a word. A circuit out of a load that drains always can: what its queue's storage does not hold goes
to the load's spill units (13 R274). -/
def State.upRoom (s : State) (x : Load) : Up → Bool
  | .bridge n => decide ((x.bridges.filter (fun b => b.br == n)).length < 64)
  | .border c => match Tab.get none s.borders (borderKey c false) with | some b => decide (b.words.length < 51) | none => false
  | .queue k => !s.qFull k || x.st == .draining

/-- The number of a link word on a border circuit: its 304 bits (02 R37, 08 Table 08-1). -/
def LW.number (w : LW) : Nat :=
  w.pay.toNat + 2 ^ 256 * (sideBits w.vc w.kind w.level w.route w.resid + 2 ^ 44 * w.sbpar.toNat)
/-- A link word from its number. -/
def LW.ofNumber (n : Nat) : LW :=
  let s := n / 2 ^ 256
  { pay := BitVec.ofNat 256 n, vc := fld s 0 5, kind := fld s 5 3, level := fld s 8 3, route := fld s 11 9,
    resid := BitVec.ofNat 24 (fld s 20 24), sbpar := BitVec.ofNat 4 (fld s 44 4) }

/-- The fabric cycles a bridge takes between two dies (R193): 30 to a neighbour, 50 to a diagonal die. -/
def bridgeTime (a b : Nat) : Nat := if a = b then 30 else if a + b = 3 then 50 else 30

/-- The converter of an outgoing circuit packs the words it holds, at most 51, into one packet, while fewer than 64 are
without credit (02 R37, R38; log 16). -/
def State.packBorder (s : State) (c : Nat) : State :=
  match Tab.get none s.borders (borderKey c false) with
  | none => s
  | some b =>
    if b.words.isEmpty ∨ 64 ≤ b.open_.length ∨ s.running = false then s
    else
      let s := { s with borders := Tab.set none s.borders (borderKey c false)
                          (some { b with words := [], seq := (b.seq + 1) % 65536, open_ := b.open_ ++ [b.seq] }) }
      s.send (s.packet (bits b.entry 50 10) 6 (bits b.entry 38 12) b.seq 0 (b.words.flatMap (fun w => splitN 64 w.number 5)))

/-- A word goes to its destination beyond the feed port. A marker goes no further, but over a bridge and to a draining
stream (13 R274; 18 R374). -/
def State.sendUp (s : State) (l : Nat) (x : Load) (w : LW) : Up → State
  | .bridge n =>
    let d := fun (c : Nat) => match x.cuts[c]? with | some y => y.die | none => 0
    let e := x.brg.getD n 0
    s.setLoad l { x with bridges := x.bridges ++ [{ br := n, at_ := s.fab + bridgeTime (d (brgSrc e).1) (d (brgDst e).1), w := w }] }
  | .border c =>
    match (if w.kind = kMark ∨ w.kind = kDrain then none else Tab.get none s.borders (borderKey c false)) with
    | none => s
    | some b => { s with borders := Tab.set none s.borders (borderKey c false) (some { b with words := b.words ++ [w] }) }
  | .queue k =>
    if (w.kind = kMark ∨ w.kind = kDrain) ∧ (s.queue k).cons.all (fun c => decide (c < 2 ^ 20)) then s else s.qAppend k w

/-! ## Sending (08 R107, R162, R163) -/

/-- Where a word that a tile sends on a port ends up. -/
inductive Dest where
  | tile (key port : Nat)
  | drop (edge : Nat)
  | up (u : Up)
  | nowhere
  deriving DecidableEq, Repr

/-- The destination of a word of a tile of a load. -/
def State.destOf (l : Nat) (x : Load) (key p : Nat) (w : LW) : Dest :=
  if p < 4 then
    match neighbour key p with
    | none => .drop p
    | some n => if x.sameCut key n then .tile n ((p + 2) % 4) else .drop p
  else match x.elemOn (feedTile key) with
    | some (cut, e) => if feedSide key then .up (x.upFor l cut (e / 64) (feedNo (e % 64)) w.route w.vc) else .nowhere
    | none => .nowhere

/-- The results that a word of the tile's own waits for have left its ports: src is the mask of their slots. -/
def Tile.passed (t : Tile) (src : Nat) : Bool :=
  src % 65536 == 0 || (List.range 16).all (fun n => !src.testBit n ||
    (let x := Tab.get OpSlot.empty t.slots n
     x.flight.isEmpty && x.out.all (fun o => o.ports == 0 && o.paths.isEmpty)))

/-- A tile holds a word of its own for a port and VC, which goes ahead of any other but the results that it waits for. -/
def Tile.holdsFor (t : Tile) (p vc : Nat) : Bool :=
  t.sendq.any (fun e => e.2.1.vc == vc && e.2.2.1.testBit p && t.passed e.2.2.2)

/-- The words of a tile that wait to leave on a port now. -/
def Tile.waiting (t : Tile) (now p : Nat) : List LW :=
  (t.sendq.filter (fun e => e.2.2.1.testBit p && decide (e.1 ≤ now))).map (fun e => e.2.1) ++
    (t.slots.filter (fun e => decide (e.2.outAt ≤ now))).flatMap (fun e =>
      ((e.2.out.take 1).filter (fun o => o.ports.testBit p)).map (fun o => o.w)) ++
    t.chans.flatMap (fun e => ((e.2.take 1).filter (fun c => c.met && c.fwd.testBit p)).map (fun c => c.w))

/-- The uplink of a feed port is a tile's turn: of its two tiles the one that did not send last goes first (10 R213). -/
def State.uplinkTurn (s : State) (l : Nat) (x : Load) (key : Nat) : Bool :=
  let m := feedTile key
  let other := if key = m then m + 1 else m
  Tab.get 0 (s.tile m).sentAt 6 != 1 + b2n (key == m) ||
    !((s.tile other).waiting s.fab 4).any (fun w => match State.destOf l x other 4 w with
      | .up u => s.upRoom x u
      | _ => false)

/-- A tile can send a word on a port in this fabric cycle: the link carries none yet, and the far side has room. -/
def State.canSend (s : State) (l : Nat) (x : Load) (key p : Nat) (w : LW) : Bool :=
  !(s.tile key).holdsFor p w.vc &&
  (if p < 4 then (s.tile key).linkFree p s.fab else (s.tile (feedTile key)).linkFree 4 s.fab && s.uplinkTurn l x key) &&
    (match State.destOf l x key p w with
     | .tile n q => (s.tile n).hasCredit s.fab q w.vc
     | .drop _ => true
     | .up u => s.upRoom x u
     | .nowhere => false)

/-- A word of a tile waits to go up from its feed port into a circuit. -/
def State.waitsUp (s : State) (l : Nat) (x : Load) (key k : Nat) : Bool :=
  ((s.tile key).waiting s.fab 4).any (fun w => State.destOf l x key 4 w == Dest.up (Up.queue k))

/-- Whether a word of the fabric waits for a full circuit is looked at again (06 R128). -/
def State.watchPort (s : State) (k : Nat) : State :=
  if keyIsCircuit k = false ∨ k % 2 = 1 then s
  else match s.load (circuitLoad k) with
  | none => s
  | some x =>
    let w := s.qFull k && x.elems.any (fun e => s.waitsUp (circuitLoad k) x e.2.2 k)
    if w = (s.queue k).portW then s else (s.setQueue k { s.queue k with portW := w }).qSync k

/-- TVAL of a bezel report (05 Table 05-5), its DROPS apart. -/
def bezelTval (l cut key edge : Nat) (w : LW) : Word :=
  field 48 16 l ||| field 46 2 cut ||| field 44 2 (tileDie key) ||| field 36 8 (tileFacet key) ||| field 34 2 edge |||
    field 25 9 w.route ||| field 20 5 w.vc

/-- The link of a port carries a word in this fabric cycle. -/
def State.markLink (s : State) (key p : Nat) : State :=
  let k := if p < 4 then key else feedTile key
  let t := s.tileOr k
  let at_ := Tab.set 0 t.sentAt p (s.fab + 1)
  s.setTile k { t with sentAt := if p = 4 then Tab.set 0 at_ 6 (1 + b2n (key == k)) else at_ }

/-- A load's fabric has moved something, which an occupancy sweep sees (13 R283). -/
def State.moved (s : State) (l : Nat) : State :=
  match s.load l with
  | some x => s.setLoad l { x with count := x.count + 1 }
  | none => s

/-- A word goes out on a port of a tile. -/
def State.sendWord (s : State) (l : Nat) (x : Load) (key p : Nat) (w : LW) : State :=
  let s := (s.markLink key p).moved l
  match State.destOf l x key p w with
  | .tile n q =>
    let t := s.tileOr n
    s.setTile n (t.setCh q w.vc (t.ch q w.vc ++ [{ w := w, at_ := s.fab + 1, fwd := 0, local_ := false, met := false }]))
  | .drop edge =>
    let d := tileDie key
    let y := s.die d
    let f := tileFacet key
    let s := s.setDie d { y with fbez := Tab.set 0 y.fbez f (satAdd (Tab.get 0 y.fbez f) 1 65535) }
    match x.elemOn key with
    | some (cut, _) => s.reportDrop l (bezelSrc l key edge) 0x0F d (bezelTval l cut key edge w)
    | none => s
  | .up u => s.sendUp l ((s.load l).getD x) w u
  | .nowhere => s

/-- Send a word on those of a set of ports (bit p for port p) on which it can go now: the state, and the ports left. -/
def State.sendPorts (s : State) (l : Nat) (key : Nat) (w : LW) (ports : Nat) : State × Nat :=
  (List.range 5).foldl (fun (r : State × Nat) p =>
    if r.2.testBit p then
      match r.1.load l with
      | some x => if r.1.canSend l x key p w then (r.1.sendWord l x key p w, r.2 - 2 ^ p) else r
      | none => r
    else r) (s, ports)

/-- The words that a tile itself sends leave as they can, those of one port and VC in order. -/
def State.sendHeld (s : State) (l key : Nat) : State :=
  let q := (s.tile key).sendq
  if q.isEmpty then s
  else q.foldl (fun s e =>
    let keep := fun (s : State) (ports : Nat) =>
      let t := s.tile key
      s.setTile key { t with sendq := t.sendq ++ [(e.1, e.2.1, ports, e.2.2.2)] }
    if e.1 > s.fab ∨ (s.tile key).passed e.2.2.2 = false then keep s e.2.2.1
    else
      let r := s.sendPorts l key e.2.1 e.2.2.1
      if r.2 = 0 then r.1 else keep r.1 r.2) (s.setTile key { s.tile key with sendq := [] })

/-- A tile has a word of its own to send: from a cycle on, on a set of ports. -/
def Tile.send (t : Tile) (at_ : Nat) (w : LW) (ports src : Nat) : Tile :=
  if ports = 0 then t else { t with sendq := t.sendq ++ [(at_, w, ports, src)], did := t.did + 1 }

/-! ## Words from a feed port into the fabric (08 R193; 10 R213; 18 R369) -/

/-- Words that wait for a feed port may enter the fabric: while the load drains, those up to the drain marker (13 R274). -/
def Load.passes (x : Load) (ws : List LW) : Bool :=
  if x.st = .draining then ws.any (fun w => w.kind == kDrain) else !ws.isEmpty

/-- The next packet of an incoming border circuit is delivered once the words before it have gone: the far side has its
credit, which names the circuit by its number here (02 R38, R40). -/
def State.refill (s : State) (circ : Nat) : State :=
  let k := borderKey circ true
  match Tab.get none s.borders k with
  | none => s
  | some b =>
    let runs := match s.load b.load with | some x => x.st == .running | none => false
    if b.words.isEmpty = false ∨ runs = false then s
    else match b.held.find? (fun h => h.1 == b.seq) with
    | none => s
    | some h =>
      let b' := { b with words := h.2.2, seq := (b.seq + 1) % 65536, held := b.held.filter (fun g => g.1 != b.seq) }
      { s with borders := Tab.set none s.borders k (some b') }.send (s.packet h.2.1 7 circ h.1 0 [])

/-- The word that comes next to a feed port on a VC: from a bridge, a border circuit, or the queue circuit; and the state
once it is taken. A word from another package bears the VC of its incoming entry (log 84, DEDUCED from 02 R37, R40). -/
def State.downWord (s : State) (l : Nat) (x : Load) (cut fac p vc : Nat) : Option (LW × State) :=
  match x.bridges.findIdx? (fun b =>
      let e := x.brg.getD b.br 0
      brgDst e == (cut, fac, p) && bits e 22 5 == vc && decide (b.at_ ≤ s.fab)) with
  | some i => match x.bridges[i]? with
    | some b =>
      let e := x.brg.getD b.br 0
      some (b.w.through vc (bits e 27 9), s.setLoad l { x with bridges := dropNth x.bridges i })
    | none => none
  | none =>
    match x.bord.find? (fun w => bit w 25 && bits w 0 2 == cut && bits w 2 6 == fac && bits w 8 3 == p && bits w 20 5 == vc &&
        (match Tab.get none s.borders (borderKey (bits w 26 12) true) with | some b => x.passes b.words | none => false)) with
    | some e =>
      let k := borderKey (bits e 26 12) true
      match Tab.get none s.borders k with
      | some b => match b.words with
        | w :: r => some (w.through vc (bits e 11 9), ({ s with borders := Tab.set none s.borders k (some { b with words := r }) }).refill (bits e 26 12))
        | [] => none
      | none => none
    | none =>
      let k := circuitKey l cut fac p vc true
      let q := s.queue k
      match (if x.passes (q.toks.map (fun t => t.w)) then q.toks else []) with
      | t :: r => some (t.w, (s.setQueue k { q with toks := r }).qSync k)
      | [] => none

/-- A word enters the feed-side channel of a tile, if one is there and the channel has room. -/
def State.pull (s : State) (l : Nat) (key vc : Nat) : State :=
  let m := feedTile key
  let t := s.tileOr key
  if feedSide key = false ∨ (tileKind (key % 64) = 0) ≠ (16 ≤ vc) ∨ t.hasCredit s.fab 4 vc = false ∨ (s.tile m).linkFree 5 s.fab = false then s
  else match s.load l with
  | none => s
  | some x => match x.elemOn m with
    | none => s
    | some (cut, e) => match s.downWord l x cut (e / 64) (feedNo (e % 64)) vc with
      | none => s
      | some (w, s) =>
        let s := s.moved l
        let y := s.tileOr m
        let s := s.setTile m { y with sentAt := Tab.set 0 y.sentAt 5 (s.fab + 1) }
        let t := s.tileOr key
        s.setTile key (t.setCh 4 vc (t.ch 4 vc ++ [{ w := w, at_ := s.fab, fwd := 0, local_ := false, met := false }]))

/-! ## The switch (08 R166 to R168) -/

/-- The route table of a tile: its first field and length. -/
def routeFields (kind : Nat) : Nat × Nat := if kind = 0 then (152, 16) else if kind = 1 then (14, 8) else (48, 8)

/-- The first valid entry for an arrival port and ROUTE. -/
def Tile.routeOf (t : Tile) (p route : Nat) : Option Nat :=
  let f := routeFields t.kind
  ((List.range f.2).map (fun i => t.field (f.1 + i))).find? (fun v => v.testBit 31 && fld v 28 3 == p && v % 512 == route)

/-- The reason for which a word is dropped, if it is. -/
def Tile.dropReason (t : Tile) (p : Nat) (w : LW) : Option Nat :=
  match t.routeOf p w.route with
  | none => some 1
  | some v =>
    if t.kind = 0 ∧ v.testBit 22 ∧ (t.field (104 + w.vc)).testBit 31 = false then some 2
    else if w.kind = 7 then some 3
    else if (w.kind = 1 ∨ w.kind = 2) ∧ w.level = 0 then some 4
    else none

/-- TVAL of a route-mismatch report (Table 08-4), its DROPS apart. -/
def mismatchTval (l cut e key p reason : Nat) (w : LW) : Word :=
  field 48 16 l ||| field 46 2 cut ||| field 44 2 (tileDie key) ||| field 32 12 e ||| field 29 3 p ||| field 20 9 w.route |||
    field 15 5 w.vc ||| field 12 3 w.kind ||| field 0 4 reason

/-- A load's tiles take and send words. -/
def LoadState.moves (st : LoadState) : Bool := match st with | .running | .draining => true | _ => false

/-- The load of a tile, when its fabric moves now: it runs or drains, and waits for no self-test. -/
def State.liveTile (s : State) (key : Nat) : Option (Nat × Load) :=
  if s.running = false then none
  else match s.tileLoad key with
  | some (l, x) => if x.st.moves && !s.testing l then some (l, x) else none
  | none => none

/-- The head of a channel after its copies have gone as far as they can: it leaves once all are sent, unless it is to be
taken here. -/
def State.forwardHead (s : State) (l key p vc : Nat) : State :=
  match (s.tile key).ch p vc with
  | [] => s
  | h :: _ =>
    if h.met = false ∨ h.fwd = 0 then s
    else
      let r := s.sendPorts l key h.w h.fwd
      let t := r.1.tile key
      r.1.setTile key (if r.2 = 0 ∧ h.local_ = false then t.dropHead s.fab p vc
        else t.setCh p vc ({ h with fwd := r.2 } :: (t.ch p vc).drop 1))

/-- The word at the head of a channel is matched, dropped, delivered or forwarded. -/
def execSwitchRoute (key p vc : Nat) (s : State) : MeshResult :=
  match s.liveTile key with
  | none => .next s
  | some (l, x) =>
    if p > 4 ∨ vc > 31 then .next s
    else
      let s := if p = 4 then s.pull l key vc else s
      let t := s.tileOr key
      match t.ch p vc with
      | [] => .next s
      | h :: rest =>
        if h.at_ > s.fab then .next s
        else if h.met then .next (s.forwardHead l key p vc)
        else
          let gone := s.setTile key (t.dropHead s.fab p vc)
          if h.w.badPar then .next (gone.tileCheck key 0 0 0xFF 3 true false 0)
          else match t.dropReason p h.w with
          | some r => match x.elemOn key with
            | some (cut, e) => .next (gone.reportDrop l (tileSrc l key) 0x18 (tileDie key) (mismatchTval l cut e key p r h.w))
            | none => .next gone
          | none =>
            match t.routeOf p h.w.route with
            | none => .next gone
            | some v =>
              let fwd := fld v 23 5
              if fwd = 0 ∧ v.testBit 22 = false then .next gone
              else
                let s := s.setTile key (t.setCh p vc ({ h with met := true, local_ := v.testBit 22, fwd := fwd } :: rest))
                .next (s.forwardHead l key p vc)

/-- A tile's inputs take the head of a channel: it leaves once its copies are sent too. -/
def Tile.takeHead (t : Tile) (now p vc : Nat) : Tile :=
  match t.ch p vc with
  | [] => t
  | h :: rest =>
    { (if h.fwd = 0 then t.dropHead now p vc else t.setCh p vc ({ h with local_ := false } :: rest)) with did := t.did + 1 }

/-- The word at the head of a channel that the tile's inputs may take now. -/
def Tile.headOf (t : Tile) (now p vc : Nat) : Option LW :=
  match t.ch p vc with
  | [] => none
  | h :: _ => if h.met && h.local_ && decide (h.at_ ≤ now) then some h.w else none

end Sys2Proof.Machine
end

