-- ==== Sys2Proof/Machine/VecOps.lean ====
section
/-! DEFINITION. What the operators of a vector tile compute from the tokens they take (20 R411 to R425; 21 R428 to R443;
09 R207, R208): lanes, formats, and each operator's result and state. -/

namespace Sys2Proof.Machine

/-- An operator slot as its words give it, and the format of each input: its code, its scale register, and whether it is
record-packed (20 R411). -/
structure OpCtx where
  op    : Nat
  f     : Nat
  mode  : Nat
  sat   : Bool
  ftz   : Bool
  level : Nat
  xop   : Nat
  imm   : Nat
  ins   : List (Nat × Nat × Bool)
  cst   : Nat
  deriving DecidableEq, Repr

/-- The width and number of lanes of the operating format. -/
def OpCtx.w (c : OpCtx) : Nat := widthOf c.f
def OpCtx.n (c : OpCtx) : Nat := lanesOf c.f
def OpCtx.inF (c : OpCtx) (i : Nat) : Nat × Nat × Bool := c.ins.getD i (0, 127, false)

/-! ## Elements (20 R411) -/

/-- The fields of an input's token. -/
def OpCtx.raws (c : OpCtx) (i : Nat) (p : Nat) : List Nat := splitN (widthOf (c.inF i).1) p (lanesOf (c.inF i).1)

/-- The exact value of a field of a format with a scale. -/
def elemVal (f sc : Nat) (ftz : Bool) (x : Nat) : Val :=
  let v := decodeVal f (if ftz then flushCode (elemCode f) x else x)
  if sc = 127 then v else v.mul (scaleVal sc)

/-- The exact values of an input's elements; subnormals flushed where the operator flushes. -/
def OpCtx.vals (c : OpCtx) (i p : Nat) (ftz : Bool) : List Val :=
  (c.raws i p).map (elemVal (c.inF i).1 (c.inF i).2.1 ftz)

/-- A field read as an integer: unsigned for an unsigned format, else two's complement. -/
def intField (f x : Nat) : Int :=
  match kindOf f with
  | .int n false => ((x % 2 ^ n : Nat) : Int)
  | _ => sintOf x (widthOf f)

def OpCtx.ints (c : OpCtx) (i p : Nat) : List Int := (c.raws i p).map (intField (c.inF i).1)

/-! ## Results -/

/-- A result rounded into F, and flushed where the slot flushes (R415). -/
def OpCtx.out (c : OpCtx) (v : Val) : Nat :=
  let x := encodeVal c.f c.mode c.sat 0 v
  if c.ftz then flushCode c.f x else x

/-- An integer result in F (R416). -/
def OpCtx.outInt (c : OpCtx) (v : Int) : Nat :=
  match kindOf c.f with
  | .int n sg => fitInt n sg c.sat v
  | _ => (v % (2 ^ c.w : Nat)).toNat

/-- The operating format is an integer one. -/
def OpCtx.isI (c : OpCtx) : Bool := isInt c.f

/-- The predicate of Table 20-6 on a comparison; none is unordered. -/
def predHolds (p : Nat) (r : Option Int) : Bool :=
  match r with
  | none => p == 1 || p == 6
  | some c => match p with
    | 0 => c == 0
    | 1 => c != 0
    | 2 => decide (c < 0)
    | 3 => decide (c ≤ 0)
    | 4 => decide (c > 0)
    | 5 => decide (c ≥ 0)
    | 7 => true
    | _ => false

/-- fsgn on x, y and y's sign bit as encoded (Table 20-4). -/
def fsgnVal (xop : Nat) (x y : Val) (sbit : Bool) : Val :=
  let ys := if y.isNaN then sbit else y.sign
  match xop with
  | 0 => if ys then x.abs.neg else x.abs
  | 1 => if ys then x.abs else x.abs.neg
  | _ => if ys then x.neg else x

/-- The bitwise operators of R416. -/
def logicOf (op a b : Nat) : Nat := if op = 0x26 then a &&& b else if op = 0x27 then a ||| b else a ^^^ b

/-- The integer operators of Table 20-5 but for shifts and logic. -/
def intFun (op : Nat) (a b z : Int) : Int :=
  if op = 0x20 then a + b
  else if op = 0x21 then a - b
  else if op = 0x22 then a * b
  else if op = 0x23 then a * b + z
  else if op = 0x29 then (if a ≤ b then a else b)
  else if op = 0x2A then (if a ≤ b then b else a)
  else if op = 0x2B then (if a < 0 then -a else a)
  else
    let m := if a ≤ b then b else a
    if m ≤ z then m else z

/-- The amount of a shift (R416). -/
def shiftAmt (b : Int) : Nat := if b < 0 then 0 else if b > 63 then 63 else b.toNat

/-- ishl and ishr of one element by s. -/
def OpCtx.shift (c : OpCtx) (a : Int) (s : Nat) : Nat :=
  if c.op = 0x24 then c.outInt (a * (2 ^ s : Nat))
  else
    let neg := decide (a < 0)
    c.outInt (signedInt neg (roundAt c.mode neg a.natAbs 0 s false))

/-- The exponent of scale, bounded where every larger one has the same result. -/
def boundExp (e : Int) : Int := if e > 5000 then 5000 else if e < -5000 then -5000 else e

/-- scale of one element (R419). -/
def OpCtx.scaled (c : OpCtx) (x : Val) (b : Int) : Nat :=
  let s := boundExp (sintOf c.imm 16 + b)
  c.out (match x with | .fin g m e => .fin g m (e + s) | v => v)

/-- The correctly rounded functions on one element. -/
def OpCtx.crFun (c : OpCtx) (x y : Val) : Nat :=
  let r :=
    if c.op = 0x18 then fdivVal c.f c.mode c.sat x y
    else if c.op = 0x19 then fsqrtVal c.f c.mode c.sat x
    else if c.op = 0x1A then fexp2Val c.f c.mode c.sat x
    else if c.op = 0x1B then flog2Val c.f c.mode c.sat x
    else if c.op = 0x1C then ftanhVal c.f c.mode c.sat x
    else fsigVal c.f c.mode c.sat x
  if c.ftz then flushCode c.f r else r

/-- The floating functions of one rounding (Table 20-4). -/
def OpCtx.fFun (c : OpCtx) (x y z : Val) : Val :=
  let down := c.mode == 3
  if c.op = 0x10 then Val.add down x y
  else if c.op = 0x11 then Val.add down x y.neg
  else if c.op = 0x12 then x.mul y
  else if c.op = 0x13 then Val.add down (x.mul y) z
  else if c.op = 0x14 then Val.add down (x.mul y) z.neg
  else Val.pick (c.op == 0x16) x y

/-- Element i of a list of values or integers. -/
def vAt (l : List Val) (i : Nat) : Val := l.getD i Val.zero
def iAt (l : List Int) (i : Nat) : Int := l.getD i 0

/-- The lanes of an elementwise operator (R415 to R419); a, b and d are the payloads of its inputs, hasB whether INB is
used. -/
def OpCtx.lanes (c : OpCtx) (a b d : Nat) (hasB : Bool) : List Nat :=
  let lanesN := List.range c.n
  if c.op = 0x32 then
    let x := c.raws 0 a; let y := c.raws 1 b; let z := c.raws 2 d
    lanesN.map (fun i => if z.getD i 0 ≠ 0 then x.getD i 0 else y.getD i 0)
  else if c.op = 0x30 then
    let x := c.vals 0 a c.ftz; let y := c.vals 1 b c.ftz
    lanesN.map (fun i =>
      let r := if (vAt x i).isNaN || (vAt y i).isNaN then none else some ((vAt x i).cmp (vAt y i))
      if predHolds (c.xop % 8) r then 2 ^ c.w - 1 else 0)
  else if c.op = 0x31 then
    let x := c.ints 0 a; let y := c.ints 1 b
    lanesN.map (fun i => if predHolds (c.xop % 8) (some (iAt x i - iAt y i)) then 2 ^ c.w - 1 else 0)
  else if c.op = 0x39 then
    let x := c.vals 0 a c.ftz; let y := c.ints 1 b
    lanesN.map (fun i => c.scaled (vAt x i) (if hasB then iAt y i else 0))
  else if c.op = 0x26 ∨ c.op = 0x27 ∨ c.op = 0x28 then
    let x := c.raws 0 a; let y := c.raws 1 b
    lanesN.map (fun i => logicOf c.op (x.getD i 0) (y.getD i 0))
  else if c.op = 0x24 ∨ c.op = 0x25 then
    let x := c.ints 0 a; let y := c.ints 1 b
    lanesN.map (fun i => c.shift (iAt x i) (if hasB then shiftAmt (iAt y i) else c.imm % 64))
  else if 0x20 ≤ c.op ∧ c.op ≤ 0x2C then
    let x := c.ints 0 a; let y := c.ints 1 b; let z := c.ints 2 d
    lanesN.map (fun i => c.outInt (intFun c.op (iAt x i) (iAt y i) (iAt z i)))
  else if c.op = 0x17 then
    let x := c.vals 0 a c.ftz; let y := c.vals 1 b c.ftz; let r := c.raws 1 b
    lanesN.map (fun i => c.out (fsgnVal c.xop (vAt x i) (vAt y i) ((r.getD i 0).testBit (widthOf (c.inF 1).1 - 1))))
  else if 0x18 ≤ c.op ∧ c.op ≤ 0x1D then
    let x := c.vals 0 a c.ftz; let y := c.vals 1 b c.ftz
    lanesN.map (fun i => c.crFun (vAt x i) (vAt y i))
  else
    let x := c.vals 0 a c.ftz; let y := c.vals 1 b c.ftz; let z := c.vals 2 d c.ftz
    lanesN.map (fun i => c.out (c.fFun (vAt x i) (vAt y i) (vAt z i)))

/-- A payload from lanes of the operating format. -/
def OpCtx.pack (c : OpCtx) (l : List Nat) : Nat := joinN c.w l

/-! ## Reductions (20 R422, R423; 14 R308, R309) -/

/-- A partial result of a reduction: an integer, or an exact value. -/
inductive Part where
  | i (v : Int)
  | v (v : Val)
  deriving DecidableEq, Repr

/-- The leaves of a token. -/
def OpCtx.leaves (c : OpCtx) (a : Nat) : List Part :=
  if c.isI then (c.ints 0 a).map Part.i else (c.vals 0 a c.ftz).map Part.v

/-- A partial result as it stands in F, and back. A NaN in a format without NaN is kept apart. -/
def OpCtx.code (c : OpCtx) : Part → Nat
  | .i v => c.outInt v
  | .v x => if x.isNaN then 2 ^ 70 else c.out x
def OpCtx.part (c : OpCtx) (x : Nat) : Part :=
  if c.isI then .i (intField c.f x) else if x = 2 ^ 70 then .v .nan else .v (decodeVal c.f x)
/-- What a partial result gives as an element of F. -/
def OpCtx.elemOf (c : OpCtx) (x : Nat) : Nat := if x = 2 ^ 70 then encodeVal c.f c.mode c.sat 0 .nan else x

/-- combine of R422: op 0 sum, 1 max, 2 min. -/
def OpCtx.combine (c : OpCtx) (op : Nat) (l r : Part) : Part :=
  match l, r with
  | .i a, .i b =>
    if op = 0 then .i (intField c.f (c.outInt (a + b)))
    else .i (if decide (op = 1) == decide (a < b) then b else a)
  | .v a, .v b =>
    if op = 0 then .v (decodeVal c.f (c.out (Val.add (c.mode == 3) a b))) else .v (Val.pick (op == 1) a b)
  | x, _ => x

/-- tree over partial results, by fuel. -/
def OpCtx.tree (c : OpCtx) (op : Nat) : Nat → List Part → Part
  | 0, l => l.headD (.i 0)
  | _ + 1, [] => .i 0
  | _ + 1, [x] => x
  | k + 1, l => c.combine op (OpCtx.tree c op k (l.take (halfOf l.length))) (OpCtx.tree c op k (l.drop (halfOf l.length)))

/-- The operation of a reduction or scan. -/
def OpCtx.redOp (c : OpCtx) : Nat := if c.op = 0x43 then c.xop else c.op - 0x40

/-- The identity of a reduction (R422). -/
def OpCtx.identity (c : OpCtx) : Nat :=
  if c.redOp = 0 then 0 else encodeVal c.f 0 false 0 (.inf (c.redOp == 1))

/-- The accumulator after a token. -/
def OpCtx.accum (c : OpCtx) (acc : List Nat) (a : Nat) : List Nat :=
  let t := c.tree c.redOp 10 (c.leaves a)
  match acc with
  | [] => [c.code t]
  | x :: _ => [c.code (c.combine c.redOp (c.part x) t)]

/-- The lanes of a scan, with its carry if any. -/
def OpCtx.scan (c : OpCtx) (carry : List Nat) (a : Nat) : List Nat :=
  let l := c.leaves a
  (List.range c.n).map (fun i =>
    let p := c.tree c.redOp 10 (l.take (i + 1))
    match carry with
    | [] => c.code p
    | x :: _ => c.code (c.combine c.redOp (c.part x) p))

/-! ## Repacking (20 R420, R421; 08 R171) -/

/-- The length of a record in bytes. -/
def recordLen (f : Nat) : Nat := 1 + blockLen f * widthOf f / 8

/-- The values of the whole records among bytes, by fuel, and the bytes left. -/
def recordVals (f : Nat) (ftz : Bool) : Nat → List Nat → List Val × List Nat
  | 0, b => ([], b)
  | k + 1, b =>
    if b.length < recordLen f then ([], b)
    else
      let r := b.take (recordLen f)
      let v := joinN 8 (r.drop 1)
      let l := (splitN (widthOf f) v (blockLen f)).map (elemVal f (r.headD 0) ftz)
      let t := recordVals f ftz k (b.drop (recordLen f))
      (l ++ t.1, t.2)

/-- One field of wadapt. -/
def OpCtx.adapt (c : OpCtx) (x : Nat) : Nat :=
  let wi := widthOf (c.inF 0).1
  if c.w ≥ wi ∧ c.xop % 2 = 1 then (sintOf x wi % (2 ^ c.w : Nat)).toNat else x % 2 ^ c.w

/-- The elements a token adds to the buffer of cvt or wadapt, and the record bytes left over. -/
def OpCtx.repack (c : OpCtx) (st : OpSt) (a : Nat) : List Nat × List Nat :=
  if c.op = 0x3A then ((c.raws 0 a).map c.adapt, [])
  else if (c.inF 0).2.2 then
    let r := recordVals (c.inF 0).1 c.ftz 8 (st.rec_ ++ splitN 8 a 32)
    (r.1.map c.out, r.2)
  else ((c.vals 0 a c.ftz).map c.out, [])

/-- The full words of a buffer, by fuel, and what is left. -/
def OpCtx.words (c : OpCtx) : Nat → List Nat → List Nat × List Nat
  | 0, l => ([], l)
  | k + 1, l =>
    if c.n = 0 ∨ l.length < c.n then ([], l)
    else let r := OpCtx.words c k (l.drop c.n); (c.pack (l.take c.n) :: r.1, r.2)

/-! ## The loupe (09 R207, R208; 21 R442, R443) -/

/-- r of a loupe operator, and the tokens of a row record. -/
def OpCtx.rank (c : OpCtx) : Nat := c.xop % 32 + 1
def OpCtx.recTokens (c : OpCtx) : Nat := (c.rank + 2 + 7) / 8

/-- Exact values of binary32 lanes and binary64 encodings. -/
def f32Of (x : Nat) : Val := decodeVal 0x08 x
def f64Of (x : Nat) : Val := decodeVal 0x09 x
/-- One binary64 rounding in a mode. -/
def r64 (mode : Nat) (v : Val) : Nat := encodeVal 0x09 mode false 0 v
def add64 (mode : Nat) (x y : Val) : Nat := r64 mode (Val.add (mode == 3) x y)
def mul64 (mode : Nat) (x y : Val) : Nat := r64 mode (x.mul y)
/-- a ≥ b, false with NaN. -/
def geVal (a b : Val) : Bool := !a.isNaN && !b.isNaN && decide (a.cmp b ≥ 0)

/-- y[j] after a factor token: lanes ascending, product exact, one rounding each. -/
def lpredY (y : Nat) : List Nat → List Nat → Nat
  | v :: vs, x :: xs => lpredY (r64 0 (Val.add false (f64Of y) ((f64Of v).mul (f64Of x)))) vs xs
  | _, _ => y

/-- z̃ of a row: b, then U[j]·y[j] ascending. -/
def lpredZ (z : Nat) : List Nat → List Nat → Nat
  | u :: us, y :: ys => lpredZ (r64 0 (Val.add false (f64Of z) ((f64Of u).mul (f64Of y)))) us ys
  | _, _ => z

/-- Y[j] after a factor token, every operation rounding up (R443). -/
def lcheckY (y : Nat) : List Nat → List Nat → Nat
  | v :: vs, x :: xs => lcheckY (add64 2 (f64Of y) (f64Of (mul64 2 (f64Of v).abs (f64Of x).abs))) vs xs
  | _, _ => y

/-- q after an x token. -/
def lcheckQ (q : Nat) : List Nat → Nat
  | x :: xs => lcheckQ (add64 2 (f64Of q) (f64Of (mul64 2 (f64Of x) (f64Of x)))) xs
  | [] => q

/-- m of a row. -/
def lcheckM (m : Nat) : List Nat → List Nat → Nat
  | u :: us, y :: ys => lcheckM (add64 2 (f64Of m) (f64Of (mul64 2 (f64Of u).abs (f64Of y)))) us ys
  | _, _ => m

/-- s = sqrt(q), rounded up in binary64. -/
def sqrt64Up (q : Nat) : Nat := fsqrtVal 0x09 2 false (f64Of q)

/-- β of a row: z, ρ, s, D + r + 2 and m (R443). -/
def lcheckBeta (z rho s k m : Nat) : Nat :=
  let e := mul64 2 (f64Of (mul64 2 (Val.scaled (k : Nat) (-52)) (Val.fin false 1 0))) (f64Of m)
  add64 2 (f64Of (add64 2 (f64Of z) (f64Of (mul64 2 (f64Of rho).abs (f64Of s))))) (f64Of e)

/-- The index words of a buffer of indices: full ones, and with flush a padded one. -/
def indexWord (l : List Nat) : Nat := joinN 32 (l ++ List.replicate (8 - l.length) 0xFFFFFFFF)

/-! ## Outcomes of a firing -/

/-- A token that a firing makes, before it has a VC and ROUTE: its kind, level, payload, and the paths it takes (none for
OUT). -/
structure Made where
  kind  : Nat
  level : Nat
  pay   : Nat
  pois  : Bool
  paths : Option (List Nat)
  deriving DecidableEq, Repr

def Made.data (p : Nat) : Made := { kind := 0, level := 0, pay := p, pois := false, paths := none }
def Made.clasp (l : Nat) : Made := { kind := 1, level := l, pay := 0, pois := false, paths := none }
def Made.null : Made := { kind := 6, level := 0, pay := 0, pois := false, paths := none }
def Made.on (m : Made) (ps : List Nat) : Made := { m with paths := some ps }
/-- A token passed on as it is. -/
def Made.ofWord (w : LW) : Made := { kind := w.kind, level := w.level, pay := w.pay.toNat, pois := w.poisoned, paths := none }

/-- What a firing does: consumed inputs, tokens made in order, the operator's new state, counts for the cut counters
(PRED, CHECK, REPLAY, SKIP), and the result value of a result operator. -/
structure Fired where
  take  : List Nat
  toks  : List Made
  st    : OpSt
  cnt   : Nat × Nat × Nat × Nat
  res   : Option Word
  deriving DecidableEq, Repr

/-- What the heads of an operator's inputs call for. -/
inductive Firing where
  | wait
  | misalign
  | poison
  | fire (f : Fired)
  deriving DecidableEq, Repr

/-- A firing that counts nothing and keeps no result value. -/
def Firing.mk' (take : List Nat) (toks : List Made) (st : OpSt) : Firing :=
  .fire { take := take, toks := toks, st := st, cnt := (0, 0, 0, 0), res := none }

/-- A data firing of an arithmetic operator on payloads (R415 to R423): the tokens and the state. -/
def OpCtx.arith (c : OpCtx) (st : OpSt) (a b d : Nat) (hasB : Bool) : List Made × OpSt :=
  if c.op = 0x38 ∨ c.op = 0x3A then
    let e := c.repack st a
    let r := c.words 300 (st.buf0 ++ e.1)
    (r.1.map Made.data, { st with buf0 := r.2, rec_ := e.2 })
  else if 0x40 ≤ c.op ∧ c.op ≤ 0x42 then ([], { st with vals := c.accum st.vals a })
  else if c.op = 0x43 then
    let l := c.scan st.vals a
    ([Made.data (c.pack (l.map c.elemOf))], { st with vals := [l.getLastD 0] })
  else ([Made.data (c.pack (c.lanes a b d hasB))], st)

/-- A clasp firing of an arithmetic operator on a level (R176, R420 to R423). -/
def OpCtx.arithClasp (c : OpCtx) (st : OpSt) (l : Nat) : List Made × OpSt :=
  if c.op = 0x38 ∨ c.op = 0x3A then
    ((if st.buf0.isEmpty then [] else [Made.data (c.pack st.buf0)]) ++ [Made.clasp l], { st with buf0 := [], rec_ := [] })
  else if 0x40 ≤ c.op ∧ c.op ≤ 0x42 then
    if l ≥ c.level then
      ([Made.data (c.elemOf (st.vals.headD c.identity)), Made.clasp l], { st with vals := [] })
    else ([], st)
  else if c.op = 0x43 then ([Made.clasp l], if l ≥ c.level then { st with vals := [] } else st)
  else ([Made.clasp l], st)

/-- What one issue of an arithmetic operator in a timed list lands (R424). -/
def OpCtx.timed (c : OpCtx) (a b d : Nat) (hasB : Bool) : Nat :=
  if 0x40 ≤ c.op ∧ c.op ≤ 0x42 then c.elemOf ((c.accum [] a).headD 0)
  else if c.op = 0x43 then c.pack ((c.scan [] a).map c.elemOf)
  else if c.op = 0x38 then c.pack ((c.vals 0 a c.ftz).map c.out)
  else c.pack (c.lanes a b d hasB)

/-! ## Dataflow operators (21 R431 to R439) -/

/-- The control value of a token among m paths (R430). -/
def selOf (w : LW) (m : Nat) : Nat := if w.kind = 6 then 0 else min (w.pay.toNat % 2 ^ 32) (m - 1)
/-- Data or null. -/
def LW.dn (w : LW) : Bool := w.kind == 0 || w.kind == 6
def LW.isClasp (w : LW) : Bool := w.kind == 1

/-- Every path of an operator. -/
def OpCtx.allPaths (c : OpCtx) : List Nat := List.range (pathsOf c.op c.xop)

/-- The value bpost and result read (R439). -/
def OpCtx.value (c : OpCtx) (p : Nat) : Word :=
  if c.f = 0 then BitVec.ofNat 64 p
  else match kindOf c.f with
    | .int n true => sext64 p n
    | .int n false => zext64 p n
    | _ => BitVec.ofNat 64 p

/-- count's addend of a data token (R437). -/
def OpCtx.counted (c : OpCtx) (p : Nat) : Nat :=
  if c.xop % 2 = 0 then 1
  else if (c.inF 0).1 = 0 then (if p = 0 then 0 else 1)
  else ((c.raws 0 p).filter (fun x => x != 0)).length

/-- The indices a buffer gives up as it fills, and the rest. -/
def indexOut (path : Nat) (buf : List Nat) : List Made × List Nat :=
  if buf.length ≥ 8 then ([(Made.data (indexWord (buf.take 8))).on [path]], buf.drop 8) else ([], buf)
/-- A flush of a buffer of indices. -/
def indexFlush (path : Nat) (buf : List Nat) : List Made :=
  if buf.isEmpty then [] else [(Made.data (indexWord buf)).on [path]]

/-- Lanes of a loupe input as binary64 encodings, which hold a binary32 value under any scale of its channel (08 R169); a null
token reads as zeros. -/
def OpCtx.laneCodes (c : OpCtx) (i : Nat) (w : LW) : List Nat :=
  (splitN 32 (if w.kind = 6 then 0 else w.pay.toNat) 8).map (fun x => r64 0 (elemVal 0x08 (c.inF i).2.1 false x))

/-- A row of lpred once its record is complete (R442). th is θ. -/
def OpCtx.predRow (c : OpCtx) (st : OpSt) (rec_ : List Nat) (take : List Nat) : Firing :=
  let z := lpredZ (r64 0 (f64Of (rec_.getD 0 0))) ((rec_.drop 2).take c.rank) st.vals
  let st' := { st with rec_ := [], n := st.n + 1 }
  if geVal (f64Of z) (f32Of c.cst) then
    let r := indexOut 0 (st.buf0 ++ [st.n])
    .fire { take := take, toks := r.1 ++ [Made.null.on [1]], st := { st' with buf0 := r.2 }, cnt := (1, 0, 0, 0), res := none }
  else
    .fire { take := take, toks := [(Made.data (z + 2 ^ 64 * (st.n % 2 ^ 32))).on [1]], st := st', cnt := (0, 1, 0, 0), res := none }

/-- A clasp below the operator's level. -/
def OpCtx.lowClasp (c : OpCtx) (w : LW) : Bool := w.isClasp && decide (w.level < c.level)

/-- lpred (R442). In phase X (mode 0) st.rec_ holds the lanes of the x token under way and st.j its factor tokens taken;
in phase ROWS (mode 1) st.rec_ holds the lanes of the row record so far. st.vals holds y. A clasp at b in phase X is a
misalignment whatever a holds. -/
def OpCtx.lpred (c : OpCtx) (st : OpSt) (a b : Option LW) : Firing :=
  if st.mode = 0 then
    if b.any LW.isClasp then .misalign else
    let y := if st.vals.isEmpty then List.replicate c.rank 0 else st.vals
    if st.j = 0 then
      match a with
      | none => .wait
      | some x =>
        if x.isClasp then
          if x.level < c.level then .misalign
          else Firing.mk' [0] [] { st with mode := 1, n := 0, rec_ := [], vals := y }
        else if x.dn = false then (if x.kind = 2 then .wait else .misalign)
        else if x.poisoned then .poison
        else match b with
        | none => .wait
        | some v =>
          if v.dn = false then .misalign
          else if v.poisoned then .poison
          else
            let y' := setNth y 0 (lpredY (y.getD 0 0) (c.laneCodes 1 v) (c.laneCodes 0 x))
            Firing.mk' [0, 1] [] { st with vals := y', rec_ := c.laneCodes 0 x, j := if c.rank = 1 then 0 else 1 }
    else
      match b with
      | none => .wait
      | some v =>
        if v.dn = false then .misalign
        else if v.poisoned then .poison
        else
          let y' := setNth y st.j (lpredY (y.getD st.j 0) (c.laneCodes 1 v) st.rec_)
          Firing.mk' [1] [] { st with vals := y', j := if st.j + 1 = c.rank then 0 else st.j + 1 }
  else
    match b with
    | none => .wait
    | some v =>
      if v.isClasp then
        if v.level < c.level ∨ st.rec_.length ≠ 0 then .misalign
        else Firing.mk' [1] (indexFlush 0 st.buf0 ++ [(Made.clasp v.level).on [0, 1]]) OpSt.zero
      else if v.dn = false then .misalign
      else if v.poisoned then .poison
      else
        let r := st.rec_ ++ c.laneCodes 1 v
        if r.length < 8 * c.recTokens then Firing.mk' [1] [] { st with rec_ := r } else c.predRow st r [1]

/-- A row of lcheck once its record is complete (R443): t is the check token. st.vals holds s, D and Y. -/
def OpCtx.checkRow (c : OpCtx) (st : OpSt) (rec_ : List Nat) (t : LW) : Firing :=
  let st' := { st with rec_ := [], n := st.n + 1 }
  if t.kind = 6 then Firing.mk' [1, 2] [] st'
  else
    let z := t.pay.toNat % 2 ^ 64
    let n := t.pay.toNat / 2 ^ 64 % 2 ^ 32
    if n ≠ st.n % 2 ^ 32 then .misalign
    else
      let s := st.vals.getD 0 0
      let d := st.vals.getD 1 0
      let m := lcheckM (r64 2 (f64Of (rec_.getD 0 0)).abs) ((rec_.drop 2).take c.rank) (st.vals.drop 2)
      let beta := f64Of (lcheckBeta z (rec_.getD 1 0) s (d + c.rank + 2) m)
      if beta.isNaN || geVal beta (f32Of c.cst) then
        let r := indexOut 0 (st.buf0 ++ [n])
        .fire { take := [1, 2], toks := r.1, st := { st' with buf0 := r.2 }, cnt := (0, 0, 1, 0), res := none }
      else
        let r := indexOut 1 (st.buf1 ++ [n])
        .fire { take := [1, 2], toks := r.1, st := { st' with buf1 := r.2 }, cnt := (0, 0, 0, 1), res := none }

/-- lcheck (R443). In phase X st.vals holds q, D and Y. A clasp at b in phase X, and one below L at b or c in either phase, is a
misalignment whatever the other inputs hold. -/
def OpCtx.lcheck (c : OpCtx) (st : OpSt) (a b d : Option LW) : Firing :=
  if b.any c.lowClasp || d.any c.lowClasp then .misalign else
  if st.mode = 0 then
    if b.any LW.isClasp then .misalign else
    let vs := if st.vals.isEmpty then 0 :: 0 :: List.replicate c.rank 0 else st.vals
    if st.j = 0 then
      match a with
      | none => .wait
      | some x =>
        if x.isClasp then
          if x.level < c.level then .misalign
          else Firing.mk' [0] [] { st with mode := 1, n := 0, rec_ := [], vals := sqrt64Up (vs.getD 0 0) :: vs.drop 1 }
        else if x.dn = false then (if x.kind = 2 then .wait else .misalign)
        else if x.poisoned then .poison
        else match b with
        | none => .wait
        | some v =>
          if v.dn = false then .misalign
          else if v.poisoned then .poison
          else
            let q := lcheckQ (vs.getD 0 0) (c.laneCodes 0 x)
            let y := lcheckY (vs.getD 2 0) (c.laneCodes 1 v) (c.laneCodes 0 x)
            Firing.mk' [0, 1] [] { st with
              vals := setNth (q :: (vs.getD 1 0 + 8) :: vs.drop 2) 2 y, rec_ := c.laneCodes 0 x, j := if c.rank = 1 then 0 else 1 }
    else
      match b with
      | none => .wait
      | some v =>
        if v.dn = false then .misalign
        else if v.poisoned then .poison
        else
          let y := lcheckY (vs.getD (st.j + 2) 0) (c.laneCodes 1 v) st.rec_
          Firing.mk' [1] [] { st with vals := setNth vs (st.j + 2) y, j := if st.j + 1 = c.rank then 0 else st.j + 1 }
  else
    match b, d with
    | some v, some t =>
      if v.isClasp ∧ t.isClasp then
        if v.level ≠ t.level ∨ v.level < c.level ∨ st.rec_.length ≠ 0 then .misalign
        else Firing.mk' [1, 2] (indexFlush 0 st.buf0 ++ indexFlush 1 st.buf1 ++ [(Made.clasp v.level).on [0, 1]]) OpSt.zero
      else if v.dn = false ∨ t.dn = false then .misalign
      else if v.poisoned ∨ t.poisoned then .poison
      else
        let r := st.rec_ ++ c.laneCodes 1 v
        if r.length < 8 * c.recTokens then Firing.mk' [1] [] { st with rec_ := r } else c.checkRow st r t
    | _, _ => .wait

/-- merge (R431) on its heads. -/
def OpCtx.merge (st : OpSt) (a b d : Option LW) : Firing :=
  match d with
  | none => .wait
  | some t =>
    if t.dn then
      if t.poisoned then .poison
      else
        let k := selOf t 2
        match (if k = 0 then a else b) with
        | none => .wait
        | some x => if x.dn ∨ x.kind = 5 then Firing.mk' [2, k] [Made.ofWord x] st else .misalign
    else match a, b with
      | some x, some y =>
        if t.kind = 1 ∧ x.kind = 1 ∧ y.kind = 1 ∧ x.level = t.level ∧ y.level = t.level then
          Firing.mk' [0, 1, 2] [Made.clasp t.level] st
        else if t.kind = 2 ∧ x.kind = 2 ∧ y.kind = 2 then .wait
        else .misalign
      | _, _ => .wait

/-- lcarry (R432) on its heads: mode 0 ENTRY, 1 LOOP. -/
def OpCtx.lcarry (st : OpSt) (a b d : Option LW) : Firing :=
  if st.mode = 0 then
    match a with
    | none => .wait
    | some x =>
      if x.dn then Firing.mk' [0] [Made.ofWord x] { st with mode := 1 }
      else if x.kind = 1 then Firing.mk' [0] [Made.clasp x.level] st
      else if x.kind = 2 then .wait
      else .misalign
  else match d with
    | none => .wait
    | some t =>
      if t.dn = false then .misalign
      else if t.poisoned then .poison
      else if selOf t 2 = 1 then
        match b with
        | none => .wait
        | some y => if y.dn then Firing.mk' [1, 2] [Made.ofWord y] st else .misalign
      else Firing.mk' [2] [] { st with mode := 0 }

/-- join (R433) on its heads; three tells whether c is used. -/
def OpCtx.join (st : OpSt) (a b d : Option LW) (three : Bool) : Firing :=
  match a, b, (if three then d else some (mkWord 0 0 6 0 0)) with
  | some x, some y, some z =>
    let take := if three then [0, 1, 2] else [0, 1]
    let syn := fun (w : LW) => w.kind == 0 || w.kind == 5 || w.kind == 6
    if syn x then
      if syn y && (!three || syn z) then Firing.mk' take [Made.ofWord x] st else .misalign
    else if x.kind = 1 ∧ y.kind = 1 ∧ x.level = y.level ∧ (three = false ∨ (z.kind = 1 ∧ z.level = x.level)) then
      Firing.mk' take [Made.clasp x.level] st
    else if x.kind = 2 ∧ y.kind = 2 ∧ (three = false ∨ z.kind = 2) then .wait
    else .misalign
  | _, _, _ => .wait

/-- The one-input operators of Table 21-1 on the head of a. -/
def OpCtx.flow1 (c : OpCtx) (st : OpSt) (x : LW) : Firing :=
  if x.kind = 2 then .wait
  else if c.op = 0x54 then
    if x.kind = 1 ∧ c.xop % 2 = 1 ∧ x.level ≥ c.level then
      Firing.mk' [0] [{ kind := 5, level := 0, pay := 0, pois := false, paths := none }] st
    else Firing.mk' [0] [] st
  else if c.op = 0x5B then Firing.mk' [0] [(Made.ofWord x).on c.allPaths] st
  else if x.kind = 5 then .misalign
  else if c.op = 0x57 then
    if x.kind = 1 then
      let m := fld c.imm (4 * (x.level - 1)) 4
      Firing.mk' [0] (if m = 0 then [] else [Made.clasp m]) st
    else Firing.mk' [0] [Made.ofWord x] st
  else if x.poisoned then .poison
  else if c.op = 0x55 then
    if x.kind = 6 then Firing.mk' [0] [Made.null] st
    else if x.kind = 1 then Firing.mk' [0] [Made.clasp x.level] st
    else Firing.mk' [0] [] { st with mode := 1, n := x.pay.toNat % 2 ^ 32, j := 0 }
  else if c.op = 0x56 then
    if x.kind = 6 then Firing.mk' [0] [] st
    else if x.kind = 0 then Firing.mk' [0] [] { st with n := st.n + c.counted x.pay.toNat }
    else if x.level ≥ c.level then
      let v := if st.n ≥ 2 ^ (c.w - 1) ∧ c.sat then 2 ^ (c.w - 1) - 1 else st.n % 2 ^ c.w
      Firing.mk' [0] [Made.data v, Made.clasp x.level] { st with n := 0 }
    else Firing.mk' [0] [] st
  else
    -- bpost and result
    if x.kind = 1 then Firing.mk' [0] [] st
    else if x.kind = 6 then Firing.mk' [0] (if c.op = 0x59 then [Made.null] else []) st
    else if c.op = 0x59 then Firing.mk' [0] [Made.data (c.value x.pay.toNat).toNat] st
    else .fire { take := [0], toks := [], st := st, cnt := (0, 0, 0, 0), res := some (c.value x.pay.toNat) }

/-- gate and steer (R431, R433) on their heads; bRes tells whether b is resident, and so takes no part in alignment. -/
def OpCtx.flow2 (c : OpCtx) (st : OpSt) (x y : LW) (aRes bRes : Bool) : Firing :=
  let aOk := aRes || x.dn
  let bOk := bRes || y.dn
  if aOk && bOk then
    if y.poisoned then .poison
    else if c.op = 0x50 then
      Firing.mk' [0, 1] [(Made.ofWord x).on [selOf y (pathsOf c.op c.xop)]] st
    else if x.kind = 6 ∨ y.kind = 6 then Firing.mk' [0, 1] [Made.null] st
    else if c.xop % 2 = 1 ∨ y.pay.toNat % 2 ^ 32 ≠ 0 then Firing.mk' [0, 1] [Made.ofWord x] st
    else Firing.mk' [0, 1] [] st
  else
    let ks := (if aRes then [] else [x]) ++ (if bRes then [] else [y])
    match ks.head? with
    | none => .wait
    | some h =>
      if ks.all (fun w => w.kind == 1 && w.level == h.level) then
        Firing.mk' [0, 1] [if c.op = 0x50 then (Made.clasp h.level).on c.allPaths else Made.clasp h.level] st
      else if ks.all (fun w => w.kind == 2) then .wait
      else .misalign

/-- An operator on the heads of its inputs: each used input's head with whether it is resident or constant (R174 to R177,
R425, R441). -/
def OpCtx.fires (c : OpCtx) (st : OpSt) (hs : List (Option (LW × Bool))) (used : List Bool) : Firing :=
  let h := fun (i : Nat) => ((hs.getD i none).map (fun e => e.1))
  let res := fun (i : Nat) => match hs.getD i none with | some e => e.2 | none => false
  if c.op = 0x60 then c.lpred st (h 0) (h 1)
  else if c.op = 0x61 then c.lcheck st (h 0) (h 1) (h 2)
  else if c.op = 0x51 then OpCtx.merge st (h 0) (h 1) (h 2)
  else if c.op = 0x52 then OpCtx.lcarry st (h 0) (h 1) (h 2)
  else
    let ix := (List.range 3).filter (fun i => used.getD i false)
    if ix.any (fun i => (h i).isNone) then .wait
    else
      let w := fun (i : Nat) => (h i).getD (mkWord 0 0 0 0 0)
      if c.op = 0x58 then OpCtx.join st (h 0) (h 1) (h 2) (used.getD 2 false)
      else if c.op = 0x50 ∨ c.op = 0x53 then c.flow2 st (w 0) (w 1) (res 0) (res 1)
      else if isFlow c.op then
        (if res 0 ∧ (w 0).kind ≠ 0 then .wait else c.flow1 st (w 0))
      else
        let ks := (ix.filter (fun i => !res i)).map w
        if ks.all LW.dn then
          if ix.any (fun i => (w i).kind == 6) then Firing.mk' ix [Made.null] st
          else
            let pois := ix.filter (fun i => (w i).poisoned)
            if c.op = 0x32 ∧ pois.contains 2 = false ∧ pois ≠ [] then
              Firing.mk' ix [{ (Made.data 0) with pois := true }] st
            else if pois ≠ [] then .poison
            else
              let r := c.arith st (w 0).pay.toNat (w 1).pay.toNat (w 2).pay.toNat (used.getD 1 false)
              Firing.mk' ix r.1 r.2
        else match ks.head? with
          | none => .wait
          | some h =>
            if ks.all (fun x => x.kind == 1 && x.level == h.level) then
              let r := c.arithClasp st h.level
              Firing.mk' ix r.1 r.2
            else if ks.all (fun x => x.kind == 2) then .wait
            else .misalign

end Sys2Proof.Machine
end

