-- ==== Sys2Proof/Machine/Fire.lean ====
section
/-! DEFINITION. Operator slots of vector tiles (08 R172 to R177, R187 to R191; 20 R411, R414, R426; 21 R429, R436): heads,
firings, output registers, and timed lists. -/

namespace Sys2Proof.Machine

/-- What every meaning answers. -/
abbrev FireResult := Host.Outcome State Fault Refusal

/-! ## Slots -/

def Tile.slot (t : Tile) (n : Nat) : OpSlot := Tab.get OpSlot.empty t.slots n
def Tile.setSlot (t : Tile) (n : Nat) (x : OpSlot) : Tile := { t with slots := Tab.set OpSlot.empty t.slots n x }

/-- The payload of a constant register. -/
def Tile.constReg (t : Tile) (n : Nat) : Nat := joinN 32 ((List.range 8).map (fun w => t.field (168 + 8 * n + w)))

/-- An input's format, with the scale register of its channel (20 R411). -/
def Tile.inCtx (t : Tile) (s i : Nat) : Nat × Nat × Bool :=
  let src := srcOf (t.inw false s i)
  match t.inFmt false s i with
  | none => (0, 127, false)
  | some (f, rec_) =>
    if (16 ≤ src ∧ src ≤ 19) ∨ src = 22 then
      (f, t.field (136 + fld (t.field (104 + vcOf (t.inw false s i))) 6 4) % 256, rec_)
    else (f, 127, rec_)

/-- The operator of a slot. -/
def Tile.ctx (t : Tile) (s : Nat) : OpCtx :=
  let w := t.opw false s
  { op := opcodeOf w, f := fmtOf w, mode := modeOf w, sat := satOf w, ftz := flushOf w, level := levelOf w, xop := xopOf w,
    imm := t.immw false s, ins := (List.range 3).map (t.inCtx s), cst := t.field (168 + 8 * fld (t.immw false s) 16 2) }

/-- The inputs of a tile that name a slot: 3·slot + input of each. -/
def Tile.namers (t : Tile) (s : Nat) : List Nat :=
  (List.range 48).filter (fun k => opcodeOf (t.opw false (k / 3)) != 0 && srcOf (t.inw false (k / 3) (k % 3)) == s)

/-- The port of a channel source. -/
def srcPort (src : Nat) : Nat := if src = 22 then 4 else src - 16

/-- A local-store entry as a read in a fabric cycle finds it (R175): what a write replaced, until that is seen. -/
def Tile.lsRead (t : Tile) (now e : Nat) : Row :=
  match Tab.get none t.lsOld e with
  | some (c, r) => if now < c then r else Tab.get Row.zero t.ls e
  | none => Tab.get Row.zero t.ls e
/-- A local-store entry is written by a result that lands in a fabric cycle: a read in that cycle still finds the old value. -/
def Tile.lsPut (t : Tile) (now e : Nat) (w : LW) : Tile :=
  if e ≥ 64 ∨ w.kind ≠ 0 then t
  else { t with lsOld := Tab.set none t.lsOld e (some (now + 1, t.lsRead now e)),
                ls := Tab.set Row.zero t.ls e { v := w.pay, kind := 0, level := 0, pois := w.poisoned } }

/-- The head of an input, with whether it is resident or constant (R173, R174). -/
def Tile.head (t : Tile) (now s i : Nat) : Option (LW × Bool) :=
  let w := t.inw false s i
  let src := srcOf w
  match Tab.get none (t.slot s).res i with
  | some r => some (r.w, true)
  | none =>
    if src < 16 then
      match (t.slot src).out with
      | o :: _ => if o.takes.contains (3 * s + i) ∧ (t.slot src).outAt ≤ now then some (o.w, false) else none
      | [] => none
    else if src = 20 then
      let r := t.lsRead now (entOf w)
      some (if r.pois then poisonWord 0 0 else mkWord r.v 0 0 0 0, true)
    else if src = 21 then some (mkWord (BitVec.ofNat 256 (t.constReg (fld w 10 2))) 0 0 0 0, true)
    else if src = 31 then none
    else (t.headOf now (srcPort src) (vcOf w)).map (fun x => (x, false))

/-- An output register is free: no result in flight or still to leave, and csrc has no emission pending. -/
def OpSlot.free (x : OpSlot) : Bool := x.out.isEmpty && x.flight.isEmpty

/-- csrc has tokens still to emit. -/
def Tile.pending (t : Tile) (s : Nat) : Bool := opcodeOf (t.opw false s) == 0x55 && (t.slot s).st.mode == 1

/-- A marker that the tile sends waits for a slot's results, and goes ahead of any new one. -/
def Tile.owes (t : Tile) (s : Nat) : Bool := t.sendq.any (fun e => e.2.2.2.testBit s)

/-- What a slot's heads call for. -/
def Tile.firing (t : Tile) (now s : Nat) : Firing :=
  let hs := (List.range 3).map (t.head now s)
  let used := t.usedIns false s
  if opcodeOf (t.opw false s) = 0 ∨ (t.slot s).stop ∨ (t.slot s).free = false ∨ t.pending s ∨ t.owes s then .wait
  else if hs.any (fun h => match h with | some (w, r) => !r && (w.kind == 3 || w.kind == 4) | none => false) then .wait
  else (t.ctx s).fires (t.slot s).st hs used

/-- A slot could fire now. -/
def Tile.fireable (t : Tile) (now s : Nat) : Bool := match t.firing now s with | .wait => false | _ => true

/-- A tile fires slots by R174: it has started, runs no timed list, and has not aligned for a drain. -/
def Tile.firesNow (t : Tile) : Bool := t.kind == 0 && t.started && !t.aligned && t.field 0 % 2 == 0

/-! ## Output registers (R175; 21 R429) -/

/-- The VC and ROUTE with which a slot's tokens leave on OUT. -/
def Tile.outVc (t : Tile) (s : Nat) : Nat := fld (t.outw false s) 6 5
def Tile.outRoute (t : Tile) (s : Nat) : Nat := fld (t.outw false s) 17 9
/-- The ports of OUT, the feed side as bit 4. -/
def Tile.outPorts (t : Tile) (s : Nat) : Nat :=
  let o := t.outw false s
  o % 16 + 16 * b2n (o.testBit 5)

/-- A word that a slot made. -/
def Made.word (m : Made) (vc route : Nat) : LW :=
  if m.pois then { poisonWord vc route with pay := BitVec.ofNat 256 m.pay }
  else mkWord (BitVec.ofNat 256 m.pay) vc m.kind m.level route

/-- A made token as it stands in the output register. -/
def Tile.outTok (t : Tile) (s : Nat) (m : Made) : OutTok :=
  let w := m.word (t.outVc s) (t.outRoute s)
  match m.paths with
  | none => { w := w, ports := t.outPorts s, takes := t.namers s, paths := [] }
  | some ps => { w := w, ports := 0, takes := [], paths := ps }

/-- A token with nothing left to send on its present path goes on to its next one. -/
def Tile.nextPath (t : Tile) (s : Nat) (o : OutTok) : OutTok :=
  if o.ports ≠ 0 then o
  else match o.paths with
  | [] => o
  | k :: r =>
    let b := fld (t.immw false s) (8 * k) 8
    let dest := fld b 5 3
    if dest = 6 then { o with paths := r }
    else if dest = 5 then { o with paths := r, takes := t.namers s }
    else { o with paths := r, ports := 2 ^ dest, w := o.w.through (b % 32) o.w.route }

/-- A token has gone everywhere. -/
def OutTok.gone (o : OutTok) : Bool := o.ports == 0 && o.takes.isEmpty && o.paths.isEmpty

/-- A slot's register after its head is looked at: one that has gone everywhere makes room for the next. -/
def Tile.tidyOut (t : Tile) (now s : Nat) : Tile :=
  let x := t.slot s
  match x.out with
  | [] => t
  | o :: r =>
    if o.gone then
      match r with
      | [] => t.setSlot s { x with out := [] }
      | n :: r' => t.setSlot s { x with out := t.nextPath s n :: r', outAt := now + 1 }
    else t

/-- What stands in a slot's output register leaves on its ports as it can. -/
def State.sendOut (s : State) (l key n : Nat) : State :=
  let t := s.tile key
  let x := t.slot n
  match x.out with
  | [] => s
  | o :: r =>
    if x.outAt > s.fab then s
    else
      let q := s.sendPorts l key o.w o.ports
      let t := q.1.tile key
      let o' := { o with ports := q.2 }
      let moved := q.2 = 0 ∧ o'.paths ≠ []
      let t := t.setSlot n { t.slot n with
        out := (if moved then t.nextPath n o' else o') :: r, outAt := if moved then s.fab + 1 else x.outAt }
      q.1.setTile key (t.tidyOut s.fab n)

/-- A result enters its output register, and a data result its local-store entry (R175; 20 R414); what stands there leaves
as it can. -/
def execResultEntersOutputRegister (key n : Nat) (s : State) : FireResult :=
  match s.liveTile key with
  | none => .next s
  | some (l, _) =>
    let t := s.tile key
    let x := t.slot n
    match x.flight with
    | f :: r =>
      if f.due > s.fab then .next s
      else
        let t := match f.toks.head? with
          | some o => t.lsPut s.fab f.ls o.w
          | none => t
        let out := match f.toks with | o :: rest => t.nextPath n o :: rest | [] => []
        let t := (t.setSlot n { x with flight := r, out := out, outAt := s.fab }).tidyOut s.fab n
        .next ((s.setTile key t).sendOut l key n)
    | [] => .next (s.sendOut l key n)

/-! ## Firing (R173 to R177) -/

/-- An input after it gives up its head: a resident counts down; a data token with a larger sticky count becomes
resident. data tells whether the firing was a data firing. A word that two inputs read of one channel is taken once: was is the
tile as the firing found it. -/
def Tile.consume (was : Tile) (now s : Nat) (data : Bool) (take : List Nat) (t : Tile) (i : Nat) : Tile :=
  let w := t.inw false s i
  let src := srcOf w
  let x := t.slot s
  let sticky := stickyOf w
  match Tab.get none x.res i with
  | some r =>
    if data = false ∨ r.left = 0xFFFF then t
    else t.setSlot s { x with res := Tab.set none x.res i (if r.left ≤ 1 then none else some { r with left := r.left - 1 }) }
  | none =>
    let tok := (was.head now s i).map (fun h => h.1)
    let again := take.any (fun j => decide (j < i) && srcOf (was.inw false s j) == src && vcOf (was.inw false s j) == vcOf w &&
      (Tab.get none (was.slot s).res j).isNone)
    let t :=
      if src < 16 then
        let y := t.slot src
        match y.out with
        | o :: r => (t.setSlot src { y with out := { o with takes := o.takes.filter (fun k => k != 3 * s + i) } :: r }).tidyOut now src
        | [] => t
      else if src = 20 ∨ src = 21 ∨ src = 31 ∨ again then t
      else t.takeHead now (srcPort src) (vcOf w)
    match tok with
    | some k =>
      if data && decide (sticky ≥ 2) && k.kind == 0 && decide (src ≥ 16) then
        let x := t.slot s
        let r : Resident := { w := k, left := if sticky = 0xFFFF then 0xFFFF else sticky - 1 }
        t.setSlot s { x with res := Tab.set none x.res i (some r) }
      else t
    | none => t

/-- The slot whose ERRINJ is armed for a unit of an element of a load (12 R257, R258). -/
def State.armedElem (s : State) (l cut e slot unit : Nat) : Option (Nat × Nat) :=
  (s.slots.find? (fun p =>
    let v := p.2.errinj
    bit v 0 && bits v 1 2 == 1 && bits v 48 16 == l && bits v 46 2 == cut && bits v 34 12 == e && bits v 30 4 == slot &&
      bits v 24 3 == unit)).map (fun p => (p.1, bits p.2.errinj 27 3))

/-- The tokens a firing made are on their way to the output register. -/
def State.launch (s : State) (key n : Nat) (f : Fired) : State :=
  let t := s.tile key
  let o := t.outw false n
  let x := t.slot n
  let fl : Flight := { due := s.fab + t.slotLatency false n, toks := f.toks.map (t.outTok n),
                       ls := if o.testBit 4 then fld o 11 6 else 64 }
  s.setTile key (t.setSlot n { x with st := f.st, flight := x.flight ++ [fl], fired := x.fired + 1 })

/-- A saturating 48-bit counter. -/
def count48 (a b : Nat) : Nat := satAdd a b (2 ^ 48 - 1)

/-- The counters of R210, and the load's result value (21 R439). -/
def State.tally (s : State) (l key : Nat) (f : Fired) : State :=
  let t := s.tile key
  let cnt := f.cnt
  let s := if cnt = (0, 0, 0, 0) then s else s.setTile key { t with
    pred := count48 t.pred cnt.1,
    check := count48 t.check cnt.2.1,
    replay := count48 t.replay cnt.2.2.1,
    skip := count48 t.skip cnt.2.2.2 }
  match f.res, s.load l with
  | some v, some x => s.setLoad l { x with result := some v }
  | _, _ => s

/-- The data firing of a firing: no clasp among what it takes. -/
def Tile.dataFiring (t : Tile) (now s : Nat) (take : List Nat) : Bool :=
  take.all (fun i => match t.head now s i with | some (w, _) => w.dn | none => true)

/-- A misaligned slot stops, and the owner thread hears of it (R177). -/
def State.misalign (s : State) (l key n : Nat) : State :=
  match s.load l with
  | none => s
  | some x => match x.elemOn key with
    | none => s
    | some (cut, e) =>
      let t := s.tile key
      (s.setTile key (t.setSlot n { t.slot n with stop := true })).tellOwner l 0x10 (cutTval cut (e, 8 + 6 * n, 10))

/-- The slots of a pipe in the order of its round-robin. -/
def Tile.pipeOrder (t : Tile) (p : Nat) : List Nat :=
  let last := Tab.get 0 t.pipes p
  (List.range 4).map (fun j => ((last + 1 + j) % 4) * 4 + p)

/-- A slot fires (R174). -/
def execFire (key n : Nat) (s : State) : FireResult :=
  match s.liveTile key with
  | none => .next s
  | some (l, x) =>
    let t := s.tile key
    let p := n % 4
    if n ≥ 16 ∨ t.firesNow = false ∨ Tab.get 0 t.pipeAt p = s.fab + 1 ∨ s.fab < t.startAt then .next s
    else if (t.pipeOrder p).find? (fun j => t.fireable s.fab j) ≠ some n then .next s
    else
      let issued := { t with pipes := Tab.set 0 t.pipes p (n / 4), pipeAt := Tab.set 0 t.pipeAt p (s.fab + 1) }
      match t.firing s.fab n with
      | .wait => .next s
      | .misalign => .next (s.misalign l key n)
      | .poison => .next (s.tileCheck key n 0 (t.ctx n).op 5 false false 0)
      | .fire f =>
        let data := t.dataFiring s.fab n f.take
        match (f.take.filterMap (fun i => t.head s.fab n i)).find? (fun h => h.1.kind == 0 && h.1.badResid) with
        | some h => .next (s.tileCheck key n h.1.badLane (t.ctx n).op 0 true false 0)
        | none =>
        match x.elemOn key with
        | none => .next s
        | some (cut, e) =>
          match (if data && f.toks.all (fun m => m.kind != 6) then s.armedElem l cut e n 0 else none) with
          | some (k, lane) =>
            let lane := if (t.ctx n).w = 64 then lane / 2 * 2 else lane
            .next ((s.fired k).tileCheck key n lane (t.ctx n).op (opSrc (t.ctx n).op) true true 0)
          | none =>
            let clasp := (f.take.filterMap (fun i => match t.head s.fab n i with
              | some (w, false) => if w.isClasp then some w.level else none
              | _ => none)).head?
            let t' := f.take.foldl (Tile.consume t s.fab n data f.take) issued
            let t' := match clasp with
              | some lv => if lv ≥ (t.ctx n).level then t'.setSlot n { t'.slot n with res := [] } else t'
              | none => t'
            .next ((((s.setTile key t').launch key n f).tally l key f).moved l)

/-- csrc emits its next token (21 R436), which stands in its output register in the next fabric cycle: the first one cycle after
the firing. -/
def execCsrcEmit (key n : Nat) (s : State) : FireResult :=
  match s.liveTile key with
  | none => .next s
  | some (l, ld) =>
    let t := s.tile key
    let x := t.slot n
    let c := t.ctx n
    if n ≥ 16 ∨ t.firesNow = false ∨ t.pending n = false ∨ x.out ≠ [] ∨ x.flight.any (fun f => !f.toks.isEmpty) ∨ t.owes n then .next s
    else
      let j := x.st.j
      let lane := fun (i : Nat) => ((sintOf c.imm 32 + ((j * c.n + i : Nat) : Int)) % (2 ^ c.w : Nat)).toNat
      let tok := if j < x.st.n then some (Made.data (c.pack ((List.range c.n).map lane)))
        else if c.xop % 8 ≠ 0 then some (Made.clasp (c.xop % 8)) else none
      let last := j + 1 ≥ x.st.n + (if c.xop % 8 ≠ 0 then 1 else 0)
      match tok with
      | none => .next (s.setTile key (t.setSlot n { x with st := OpSt.zero }))
      | some m =>
        match (if m.kind = 0 then (ld.elemOn key).bind (fun ce => s.armedElem l ce.1 ce.2 n 0) else none) with
        | some (k, lane) => .next ((s.fired k).tileCheck key n lane c.op (opSrc c.op) true true 0)
        | none =>
        let ls := if (t.outw false n).testBit 4 ∧ m.kind = 0 then fld (t.outw false n) 11 6 else 64
        let o := t.outTok n m
        let t := t.lsPut (s.fab + 1) ls o.w
        let t := (t.setSlot n { x with st := if last then OpSt.zero else { x.st with j := j + 1 },
                                       out := [t.nextPath n o], flight := [], outAt := s.fab + 1, fired := x.fired + 1 }).tidyOut s.fab n
        .next (((s.setTile key t).sendOut l key n).moved l)

/-! ## Timed lists (R187 to R190; 20 R424; 21 R447) -/

/-- The operation entries of a tile's timed list. -/
def Tile.ops (t : Tile) : List (Nat × Nat) :=
  (t.timedList false).filterMap (fun e => if e.2.2.2.1 then none else some (e.1, e.2.2.1))

/-- The channels a slot pops: its ports and VCs. -/
def Tile.popsOf (t : Tile) (s : Nat) : List (Nat × Nat) :=
  (List.range 3).filterMap (fun i =>
    let src := srcOf (t.inw false s i)
    if (16 ≤ src ∧ src ≤ 19) ∨ src = 22 then some (srcPort src, vcOf (t.inw false s i)) else none)

/-- The entries of the present tick, and the channels that they pop. -/
def Tile.dueOps (t : Tile) : List Nat := (t.ops.filter (fun e => e.1 == t.tick)).map (fun e => e.2)
def Tile.duePops (t : Tile) : List (Nat × Nat) := t.dueOps.flatMap t.popsOf
/-- Every channel that the list pops. -/
def Tile.allPops (t : Tile) : List (Nat × Nat) := (t.ops.flatMap (fun e => t.popsOf e.2)).eraseDups

/-- A token is of a kind that a timed tile takes only at a period boundary. -/
def LW.special (w : LW) : Bool := decide (1 ≤ w.kind) && decide (w.kind ≤ 4)

/-- A word as the switch matches it when it reaches the head of a channel of port p, where it is delivered here. -/
def Tile.matched (t : Tile) (p : Nat) (h : ChTok) : ChTok :=
  if h.met ∨ h.w.badPar ∨ (t.dropReason p h.w).isSome then h
  else match t.routeOf p h.w.route with
  | some v => if v.testBit 22 then { h with met := true, local_ := true, fwd := fld v 23 5 } else h
  | none => h
/-- The head of a channel is matched at once, for a second pop in one tick. -/
def Tile.matchHead (t : Tile) (p vc : Nat) : Tile :=
  match t.ch p vc with
  | [] => t
  | h :: r => t.setCh p vc (t.matched p h :: r)

/-- The tokens that the pops of a tick would take of one channel are there: each but the last leaves it at once. -/
def Tile.popReady (t : Tile) (now : Nat) (ch : Nat × Nat) : Bool :=
  let n := (t.duePops.filter (fun c => c == ch)).length
  let hs := ((t.ch ch.1 ch.2).take n).map (t.matched ch.1)
  hs.length == n && (t.headOf now ch.1 ch.2).isSome && hs.all (fun h => h.met && h.local_ && decide (h.at_ ≤ now)) &&
    (hs.take (n - 1)).all (fun h => h.fwd == 0)

/-- Results that land at the present tick. -/
def Tile.landing (t : Tile) : List (Nat × Nat × OutTok) := t.flights.filter (fun f => f.1 == t.tick)

/-- Each port that a list of tokens must leave on can take the first of them now. Of several for one port those after the first
follow it in the next cycles (log 78). -/
def State.canLand (s : State) (l key : Nat) (toks : List (LW × Nat)) : Bool :=
  match s.load l with
  | none => false
  | some x => (List.range 5).all (fun p => match toks.find? (fun o => o.2.testBit p) with
    | some o => s.canSend l x key p o.1
    | none => true)

/-- Tokens leave on their ports; what cannot leave in this fabric cycle follows. -/
def State.land (s : State) (l key : Nat) (toks : List (LW × Nat)) : State :=
  toks.foldl (fun s o =>
    let r := s.sendPorts l key o.1 o.2
    r.1.setTile key ((r.1.tile key).send (s.fab + 1) o.1 r.2 0)) s

/-- A tile is at a period boundary with tokens that it takes there: those of one kind and level at the head of every
channel it pops (R190). -/
def Tile.boundary (t : Tile) (now : Nat) : Option LW :=
  if t.tick ≠ 0 then none
  else
    let hs := t.allPops.map (fun c => t.headOf now c.1 c.2)
    match hs.head? with
    | some (some w) =>
      if w.special ∧ hs.all (fun h => match h with | some v => v.kind == w.kind && v.level == w.level | none => false) then some w else none
    | _ => none

/-- At a boundary some channels show such a token and others show another token. -/
def Tile.uneven (t : Tile) (now : Nat) : Bool :=
  t.tick == 0 && (t.boundary now).isNone &&
    (let hs := t.allPops.filterMap (fun c => t.headOf now c.1 c.2)
     hs.any LW.special && decide (hs.length = t.allPops.length))

/-- The ports and feed side, VC and ROUTE to which a boundary's clasp goes: each OUT of the list, once for each port. -/
def Tile.boundaryOut (t : Tile) (w : LW) : List (LW × Nat) :=
  (t.ops.map (fun e => e.2)).eraseDups.filterMap (fun s =>
    let p := t.outPorts s
    if p = 0 then none else some (mkWord 0 (t.outVc s) w.kind w.level (t.outRoute s), p))

/-- The same, each port of the tile named at most once. -/
def oncePerPort (l : List (LW × Nat)) : List (LW × Nat) :=
  (l.foldl (fun (r : List (LW × Nat) × Nat) o =>
    let new := o.2 &&& (31 ^^^ (r.2 &&& 31))
    if new = 0 then r else (r.1 ++ [(o.1, new)], r.2 ||| new)) ([], 0)).1

/-- A timed tile at a period boundary takes the clasps that head its channels and passes them on, before tick 0 issues (R190). -/
def State.timedClasp (s : State) (l key : Nat) : State :=
  let t := s.tile key
  match t.boundary s.fab with
  | some w =>
    let out := oncePerPort (t.boundaryOut w)
    if w.kind = 1 ∧ s.canLand l key out ∧ t.startAt ≤ s.fab then
      (s.setTile key (t.allPops.foldl (fun t c => (t.takeHead s.fab c.1 c.2).matchHead c.1 c.2) t)).land l key out
    else s
  | none => s

/-- A timed tile is blocked in this fabric cycle: a scheduled pop finds no token, or a landing push no credit (R189); it holds
clasps, swap clasps or markers that it must act on first; or it has swapped its banks in this cycle. -/
def State.timedBlocked (s : State) (l key : Nat) : Bool :=
  let t := s.tile key
  if s.fab < t.startAt then true
  else match t.boundary s.fab with
  | some _ => true
  | none =>
    !(t.uneven s.fab) && (!(t.duePops.all (t.popReady s.fab)) || !(s.canLand l key (t.landing.map (fun f => (f.2.2.w, f.2.2.ports)))))

/-- A timed tile has stopped for good (R190). -/
def Tile.halted (t : Tile) : Bool := t.misEnd && decide (t.misFld ≥ 256)

/-- The tiles of a timed group that go on: one that has aligned, or stopped, holds no other back (log 78). -/
def State.timedGroup (s : State) (x : Load) (key : Nat) : List Nat :=
  let g := fld ((s.tile key).field 0) 4 4
  match x.elemOn key with
  | none => []
  | some (cut, _) => match x.cuts[cut]? with
    | none => []
    | some c => (c.elems.map c.tileAt).filter (fun k =>
        let t := s.tile k
        t.kind == 0 && t.started && t.field 0 % 2 == 1 && fld (t.field 0) 4 4 == g && !t.halted && !t.aligned)

/-- The inputs of a slot as a timed entry reads them, in tick order of pops; and the tile after the pops. -/
def Tile.readEntry (t : Tile) (now s : Nat) : List (Option LW) × Tile :=
  (List.range 3).foldl (fun (r : List (Option LW) × Tile) i =>
    let w := t.inw false s i
    let src := srcOf w
    if src = 31 then (r.1 ++ [none], r.2)
    else if src = 20 then
      let e := Tab.get Row.zero t.ls (entOf w)
      (r.1 ++ [some (if e.pois then poisonWord 0 0 else mkWord e.v 0 0 0 0)], r.2)
    else if src = 21 then (r.1 ++ [some (mkWord (BitVec.ofNat 256 (t.constReg (fld w 10 2))) 0 0 0 0)], r.2)
    else match r.2.headOf now (srcPort src) (vcOf w) with
      | some h => if h.special ∨ h.kind = 5 then (r.1 ++ [some h], r.2) else (r.1 ++ [some h], (r.2.takeHead now (srcPort src) (vcOf w)).matchHead (srcPort src) (vcOf w))
      | none => (r.1 ++ [none], r.2)) ([], t)

/-- One operation entry issues at the present tick. -/
def State.timedIssue (s : State) (l key n : Nat) : State :=
  let t := s.tile key
  let c := t.ctx n
  let r := t.readEntry s.fab n
  let ws := r.1.filterMap id
  let o := t.outw false n
  let due := t.tick + t.slotLatency false n
  let land := fun (w : LW) =>
    { r.2 with flights := r.2.flights ++ [(due, if o.testBit 4 ∧ w.kind = 0 then fld o 11 6 else 64,
        { w := w, ports := t.outPorts n, takes := [], paths := [] })] }
  if ws.any (fun w => w.special || w.kind == 5) then
    s.setTile key { r.2 with misEnd := true, misFld := if t.misEnd then t.misFld else 8 + 6 * n }
  else if ws.any (fun w => w.kind == 6) then s.setTile key (land (mkWord 0 (t.outVc n) 6 0 (t.outRoute n)))
  else if ws.any LW.poisoned then
    if c.op == 0x32 && (match r.1.getD 2 none with | some w => !w.poisoned | none => true) then
      s.setTile key (land (poisonWord (t.outVc n) (t.outRoute n)))
    else s.tileCheck key n 0 c.op 5 false false 0
  else if ws.any LW.badResid then
    s.tileCheck key n (match ws.find? LW.badResid with | some w => w.badLane | none => 0) c.op 0 true false 0
  else
    let p := fun (i : Nat) => match r.1.getD i none with | some w => w.pay.toNat | none => 0
    match (s.tileLoad key).bind (fun e => e.2.elemOn key) with
    | none => s
    | some (cut, e) => match s.armedElem l cut e n 0 with
      | some (k, lane) =>
        (s.fired k).tileCheck key n (if c.w = 64 then lane / 2 * 2 else lane) c.op (opSrc c.op) true true 0
      | none =>
        let v := c.timed (p 0) (p 1) (p 2) ((t.usedIns false n).getD 1 false)
        s.setTile key (land (mkWord (BitVec.ofNat 256 v) (t.outVc n) 0 0 (t.outRoute n)))

/-- One tick of a tile that is not blocked: the entries of the tick issue and its results land. -/
def State.timedStep (s : State) (l key : Nat) : State :=
  let t := s.tile key
    if t.tick = 0 ∧ (t.misEnd ∨ t.uneven s.fab) then
      let fl := if t.misEnd then t.misFld else 8 + 6 * (t.ops.headD (0, 0)).2
      let s := s.setTile key { t with misEnd := true, misFld := 256 + fl }
      match (s.tileLoad key).bind (fun e => e.2.elemOn key) with
      | some (cut, e) => s.tellOwner l 0x10 (cutTval cut (e, fl, 10))
      | none => s
    else
      let lands := t.landing
      let s := t.dueOps.foldl (fun s n => if (s.tile key).started then s.timedIssue l key n else s) s
      let t := s.tile key
      let t := { t with
        ls := lands.foldl (fun m f => if f.2.1 < 64 then
          Tab.set Row.zero m f.2.1 { v := f.2.2.w.pay, kind := 0, level := 0, pois := f.2.2.w.poisoned } else m) t.ls,
        flights := t.flights.filter (fun f => !lands.contains f),
        tick := if t.tick + 1 ≥ t.field 3 then 0 else t.tick + 1 }
      (s.setTile key t).land l key (lands.map (fun f => (f.2.2.w, f.2.2.ports)))

/-- A tick of the timed group of a tile (R188, R189): every tile of the group advances, or all of them freeze. -/
def execTimedTick (key : Nat) (s : State) : FireResult :=
  match s.liveTile key with
  | none => .next s
  | some (l, x) =>
    let t := s.tile key
    if t.kind ≠ 0 ∨ t.started = false ∨ t.aligned ∨ t.field 0 % 2 = 0 ∨ t.halted ∨ t.tickAt = s.fab + 1 ∨ s.fab < t.startAt then .next s
    else
      let g := s.timedGroup x key
      let s := g.foldl (fun s k => s.timedClasp l k) s
      let blocked := g.any (fun k => s.timedBlocked l k)
      .next (g.foldl (fun s k =>
        let t := s.tile k
        if t.tickAt = s.fab + 1 then s
        else if blocked then s.setTile k { t with tickAt := s.fab + 1, frozen := satAdd t.frozen 1 (2 ^ 48 - 1) }
        else (s.setTile k { t with tickAt := s.fab + 1 }).timedStep l k) s)

end Sys2Proof.Machine
end

