-- ==== Sys2Proof/Machine/Matrix.lean ====
section
/-! DEFINITION. Matrix tiles (09 R194 to R206; 14 R306, R307): operand words, terms, column groups, accumulation and
readout. -/

namespace Sys2Proof.Machine

/-- What every meaning answers. -/
abbrev MatResult := Host.Outcome State Fault Refusal

/-! ## Section fields (Table 09-1) -/

def Tile.aFmt (t : Tile) : Nat := t.field 8 % 64
def Tile.bFmt (t : Tile) : Nat := fld (t.field 8) 6 6
def Tile.accKind (t : Tile) : Nat := fld (t.field 8) 12 2
def Tile.bpt (t : Tile) : Nat := fld (t.field 8) 14 6
def Tile.tcap (t : Tile) : Nat := fld (t.field 8) 20 3
def Tile.kch (t : Tile) : Nat := t.field 1 % 65536
def Tile.cen (t : Tile) : Bool := t.field 4 % 2 == 1
def Tile.sectId (t : Tile) : Nat := t.field 13 % 256
def Tile.oports (t : Tile) : Nat := fld (t.field 11) 24 4
/-- Port and VC of A, B0 and B1. -/
def Tile.aPort (t : Tile) : Nat × Nat := (t.field 11 % 8, fld (t.field 11) 3 5)
def Tile.bPort (t : Tile) (n : Nat) : Nat × Nat :=
  if n = 0 then (fld (t.field 11) 8 3, fld (t.field 11) 11 5) else (fld (t.field 11) 16 3, fld (t.field 11) 19 5)

/-- The tile computes: it belongs to a section, is armed, has started and has not stopped. -/
def Tile.armed (t : Tile) : Bool := t.kind == 1 && t.started && !t.aligned && t.sectId != 0 && decide (t.mat.remain > 0) && !t.mat.stop

/-! ## Operand words (R195; 08 R170, R171) -/

/-- Records of one row or column of 32 elements. -/
def recsPer (f : Nat) : Nat := 32 / blockLen f
/-- The link words of a run of rows of 32 elements. -/
def wordsFor (f rows : Nat) : Nat :=
  if isBlock f then rows * recsPer f * recordLen f / 32 else (rows * 32 + lanesOf f - 1) / lanesOf f

/-- The rows of a run that have begun, or have arrived in full, after w of its words, rows at most. -/
def rowsBegun (f rows w : Nat) : Nat :=
  min rows (if isBlock f then (32 * w + recsPer f * recordLen f - 1) / (recsPer f * recordLen f) else (w * lanesOf f + 31) / 32)
def rowsFull (f rows w : Nat) : Nat :=
  min rows (if isBlock f then 32 * w / (recsPer f * recordLen f) else w * lanesOf f / 32)

/-- The 32 elements of row r of a run of words, each with its scale code. -/
def rowElems (f : Nat) (ws : List LW) (r : Nat) : List (Val × Nat) :=
  let v := joinN 256 (ws.map (fun w => w.pay.toNat))
  let w := widthOf f
  if isBlock f then
    (List.range 32).map (fun k =>
      let rc := r * recsPer f + k / blockLen f
      let sc := fld v (8 * recordLen f * rc) 8
      (decodeVal f (fld v (8 * recordLen f * rc + 8 + w * (k % blockLen f)) w), sc))
  else
    (List.range 32).map (fun k =>
      let i := r * 32 + k
      (decodeVal f (fld v (i / lanesOf f * 256 + i % lanesOf f * w) w), 127))

/-- An element is not finite: its value is not, or its block's scale is NaN. -/
def badElem (e : Val × Nat) : Bool := e.1.isNaN || e.1.isInf || e.2 == 255

/-! ## Terms (R198, R199) -/

/-- The non-adjacent form of a number, most significant first: the positions of its terms with their signs. -/
def naf : Nat → Nat → Nat → List (Bool × Nat)
  | 0, _, _ => []
  | k + 1, m, i =>
    if m = 0 then []
    else if m % 4 = 1 then naf k ((m - 1) / 2) (i + 1) ++ [(false, i)]
    else if m % 4 = 3 then naf k ((m + 1) / 2) (i + 1) ++ [(true, i)]
    else naf k (m / 2) (i + 1)

/-- An element after the term cap (0 for none): its value and the number of its terms. -/
def recode (cap : Nat) (v : Val) : Val × Nat :=
  match v with
  | .fin neg m e =>
    let l := naf 80 m 0
    let l := if cap = 0 then l else l.take cap
    let s := l.foldl (fun (a : Int) t => if t.1 then a - (2 ^ t.2 : Nat) else a + (2 ^ t.2 : Nat)) 0
    (if s = 0 then .fin neg 0 e else .fin (Bool.xor neg (decide (s < 0))) s.natAbs e, l.length)
  | v => (v, 0)

/-- BFMT and TCAP of a block's words. -/
def Block.fmt (b : Block) : Nat := (match b.words.head? with | some w => w.route | none => 0) % 64
def Block.cap (b : Block) : Nat := (match b.words.head? with | some w => w.route | none => 0) / 64
/-- Column n of a block. -/
def Block.col (b : Block) (n : Nat) : List (Val × Nat) := rowElems b.fmt b.words n
/-- T_c of a column. -/
def Block.colTerms (b : Block) (n : Nat) : Nat :=
  (b.col n).foldl (fun a e => if badElem e then a else a + (recode b.cap e.1).2) 0

/-! ## Groups and buffers (R200, R201) -/

def Mat.group (m : Mat) (g : Nat) : Group := Tab.get Group.zero m.groups g
def Mat.setGroup (m : Mat) (g : Nat) (x : Group) : Mat := { m with groups := Tab.set Group.zero m.groups g x }

def listMin (l : List Nat) : Nat := match l with | [] => 0 | x :: r => r.foldl min x

/-- Rows every group has retired, and the chunk every group has reached. -/
def Mat.released (m : Mat) : Nat := listMin ((List.range 8).map (fun g => 32 * (m.group g).chunk + (m.group g).d))
def Mat.minChunk (m : Mat) : Nat := listMin ((List.range 8).map (fun g => (m.group g).chunk))

/-- Rows of a run of whole chunks that w words have begun, or brought in full, counted from the chunk base. -/
def rowsOf (f base w : Nat) (full : Bool) : Nat :=
  let per := wordsFor f 32
  if per = 0 then 0 else 32 * (base + w / per) + (if full then rowsFull f 32 (w % per) else rowsBegun f 32 (w % per))

/-- The A rows held, a row from its first element. -/
def Tile.rowsHeld (t : Tile) : Nat := rowsOf t.aFmt t.mat.aBase t.mat.aWords.length false - t.mat.released

/-- The words of a chunk of A. -/
def Tile.aChunk (t : Tile) (c : Nat) : List LW :=
  let per := wordsFor t.aFmt 32
  (t.mat.aWords.drop ((c - t.mat.aBase) * per)).take per

/-- avail of a group's chunk. -/
def Tile.avail (t : Tile) (c : Nat) : Nat := min 32 (rowsOf t.aFmt t.mat.aBase t.mat.aWords.length true - 32 * c)

/-- What every group has retired leaves the buffers. -/
def Tile.freeBuffers (t : Tile) : Tile :=
  let m := t.mat
  let c := m.minChunk
  let da := c - m.aBase
  let db := min (c - m.base) m.blocks.length
  { t with mat := { m with aWords := m.aWords.drop (da * wordsFor t.aFmt 32), aBase := m.aBase + da,
                           blocks := m.blocks.drop db, base := m.base + db } }

/-- The carat counters of a tile add. -/
def Mat.addStall (m : Mat) (on : Bool) (now : Nat) : Mat :=
  if m.stallAt = now + 1 then m
  else { m with stallAt := now + 1, stall := if on then satAdd m.stall 1 (2 ^ 40 - 1) else m.stall }
def Mat.addNfin (m : Mat) (on : Bool) (n : Nat) : Mat := if on then { m with nfin := satAdd m.nfin n 4095 } else m
def Mat.addSat (m : Mat) (on : Bool) (n : Nat) : Mat := if on then { m with sat := satAdd m.sat n 4095 } else m

/-! ## Ports (R195, R200, R205) -/

/-- A sequence token at a port: the tile stops, and the owner hears of it (R205). -/
def State.matStop (s : State) (l key : Nat) : State :=
  let t := s.tile key
  let s := s.setTile key { t with mat := { t.mat with stop := true } }
  match (s.tileLoad key).bind (fun x => x.2.elemOn key) with
  | some (cut, e) => s.tellOwner l 0x10 (cutTval cut (e, 11, 10))
  | none => s

/-- What a port does with the token at its channel's head: f gives the tile after it takes a word. -/
def State.portTake (s : State) (l key n : Nat) (pv : Nat × Nat) (f : Tile → LW → Tile) : State :=
  let t := s.tile key
  if Tab.get 0 t.pipeAt n = s.fab + 1 then s
  else match t.headOf s.fab pv.1 pv.2 with
  | none => s
  | some w =>
    let t' := { t.takeHead s.fab pv.1 pv.2 with pipeAt := Tab.set 0 t.pipeAt n (s.fab + 1) }
    if w.kind = 5 then s.matStop l key
    else if w.kind = 1 then s.setTile key t'
    else if w.kind = 6 then s.setTile key (f t' (mkWord 0 0 0 0 0))
    else if w.kind = 0 then
      if w.poisoned then s.tileCheck key 0 0 0xF0 5 false false 2
      else if w.badResid then s.tileCheck key 0 w.badLane 0xF0 0 true false 2
      else s.setTile key (f t' w)
    else s

/-- The A port takes a word. -/
def execAPortTake (key : Nat) (s : State) : MatResult :=
  match s.liveTile key with
  | none => .next s
  | some (l, _) =>
    let t := s.tile key
    if t.armed = false ∨ t.rowsHeld ≥ 8 then .next s
    else .next (s.portTake l key 8 t.aPort (fun t w =>
      let per := wordsFor t.aFmt 32
      let k := t.mat.aWords.length
      let t' := { t with mat := { t.mat with aWords := t.mat.aWords ++ [w] } }
      let c := t.mat.aBase + k / per
      let new := (List.range (rowsFull t.aFmt 32 (k % per + 1))).drop (rowsFull t.aFmt 32 (k % per))
      let bad := (new.flatMap (fun r => (rowElems t.aFmt (t'.aChunk c) r).filter badElem)).length
      { t' with mat := t'.mat.addNfin t.cen bad }))

/-- The stationary block being loaded: its place among those held. -/
def Mat.loading (m : Mat) : Option Nat :=
  match m.blocks.findIdx? (fun b => !b.full) with
  | some i => some i
  | none => if m.blocks.length < 2 then some m.blocks.length else none

/-- A B port takes a word of the block being loaded: even words come on B0 and odd ones on B1 when both are used. -/
def execBPortTake (key port : Nat) (s : State) : MatResult :=
  match s.liveTile key with
  | none => .next s
  | some (l, _) =>
    let t := s.tile key
    match (if t.armed then t.mat.loading else none) with
    | none => .next s
    | some i =>
      let b := t.mat.blocks.getD i { words := [], full := false, due := 0, ready := false }
      let two := (t.bPort 1).1 != 7
      let turn := if two then b.words.length % 2 else 0
      if port ≠ turn then .next s
      else .next (s.portTake l key (9 + port) (t.bPort port) (fun t w =>
        let ws := b.words ++ [{ w with route := t.bFmt + 64 * t.tcap }]
        let full := decide (ws.length ≥ wordsFor ((ws.headD w).route % 64) 64)
        let b' : Block := { words := ws, full := full, due := s.fab + 4, ready := false }
        let m := { t.mat with blocks := if i < t.mat.blocks.length then setNth t.mat.blocks i b' else t.mat.blocks ++ [b'] }
        let bad := if full then
            ((List.range 64).map (fun n => ((b'.col n).filter badElem).length)).foldl (fun a x => a + x) 0 else 0
        { t with mat := m.addNfin t.cen bad }))

/-- A block becomes ready four fabric cycles after its last word arrived (R200). -/
def execBlockReady (key : Nat) (s : State) : MatResult :=
  match s.liveTile key with
  | none => .next s
  | some _ =>
    let t := s.tile key
    match t.mat.blocks.findIdx? (fun b => b.full && !b.ready && decide (b.due ≤ s.fab)) with
    | some i => match t.mat.blocks[i]? with
      | some b => .next (s.setTile key { t with mat := { t.mat with blocks := setNth t.mat.blocks i { b with ready := true } } })
      | none => .next s
    | none => .next s

/-! ## Accumulation (R202, R203; 14 R306, R307) -/

/-- The contribution of a block step: the exact sum of products with its scales, as an integer at the binary point. -/
def stepSum (bp : Nat) (a b : List (Val × Nat)) : Int :=
  let s := (a.zip b).foldl (fun v p => Val.add false v (p.1.1.mul p.2.1)) Val.zero
  let sa := scaleVal (a.headD (Val.zero, 127)).2
  let sb := scaleVal (b.headD (Val.zero, 127)).2
  match (s.mul sa).mul sb with
  | .fin neg m e => signedInt neg (roundAt 0 neg m (e + bp) 0 false)
  | _ => 0

/-- The elements of a block step of two formats. -/
def stepLen (fa fb : Nat) : Nat :=
  min (if isBlock fa then blockLen fa else 32) (if isBlock fb then blockLen fb else 32)

/-- An accumulator of KIND 0 or 1 after a contribution: it stays at the 72-bit range once it leaves it. -/
def acc72 (c u : Int) : Int :=
  if c.natAbs ≥ 2 ^ 72 then c
  else if c + u ≥ (2 ^ 71 : Nat) then (2 ^ 72 : Nat)
  else if c + u < -(2 ^ 71 : Nat) then -(2 ^ 72 : Nat)
  else c + u

/-- An accumulator after 32 products in block steps of n elements, each of which saturates (14 R306). -/
def accSteps (bp n : Nat) : Nat → List (Val × Nat) → List (Val × Nat) → Int → Int
  | 0, _, _, c => c
  | k + 1, a, b, c => accSteps bp n k (a.drop n) (b.drop n) (acc72 c (stepSum bp (a.take n) (b.take n)))

/-- The value that a column step adds under KIND 2, as a binary64 encoding (R307). -/
def colStep (a b : List (Val × Nat)) : Nat :=
  let ps := (a.zip b).map (fun p => ((p.1.1.mul p.2.1).mul (scaleVal p.1.2)).mul (scaleVal p.2.2))
  let inf := fun (s : Bool) => ps.any (fun p => p == .inf s)
  if ps.any Val.isNaN || (inf true && inf false) then encodeVal 9 0 false 0 .nan
  else if inf false then encodeVal 9 0 false 0 (.inf false)
  else if inf true then encodeVal 9 0 false 0 (.inf true)
  else if ps.all Val.isZero then encodeVal 9 0 false 0 (.fin (ps.all Val.sign) 0 0)
  else
    let tops := ps.filterMap (fun p => match p with | .fin _ m e => if m = 0 then none else some ((Nat.log2 m : Int) + e) | _ => none)
    let top := match tops with | [] => (0 : Int) | x :: r => r.foldl max x
    let g := top - 64
    let cut := fun (p : Val) => match p with
      | .fin neg m e => signedInt neg (if g ≤ e then m * 2 ^ (e - g).toNat else m / 2 ^ (g - e).toNat)
      | _ => 0
    let lost := ps.any (fun p => match p with | .fin _ m e => !decide (g ≤ e) && m % 2 ^ (g - e).toNat != 0 | _ => false)
    let s := ps.foldl (fun (a : Int) p => a + cut p) 0
    let up := encodeVal 9 4 false 0 (.fin (decide (s < 0)) s.natAbs g)
    let near := encodeVal 9 0 false 0 (.fin (decide (s < 0)) s.natAbs g)
    if lost then up else near

/-- Row m of A meets the columns of a group: the accumulators and invalid marks after it. -/
def Tile.accRow (t : Tile) (g m : Nat) (row : List (Val × Nat)) (b : Block) : Tile :=
  let n := stepLen t.aFmt b.fmt
  let badA := row.any badElem
  (List.range 8).foldl (fun t j =>
    let col := b.col (8 * g + j)
    let i := 64 * m + 8 * g + j
    let cv := col.map (fun e => ((recode b.cap e.1).1, e.2))
    let c := Tab.get 0 t.mat.acc i
    if t.accKind = 2 then
      let x := decodeVal 9 (colStep row cv)
      let y := encodeVal 9 0 false 0 (Val.add false (decodeVal 9 ((c % (2 ^ 64 : Nat)).toNat)) x)
      { t with mat := { t.mat with acc := Tab.set 0 t.mat.acc i (y : Nat) } }
    else if badA || col.any badElem then { t with mat := { t.mat with inval := Tab.set false t.mat.inval i true } }
    else
      { t with mat := { t.mat with acc := Tab.set 0 t.mat.acc i (accSteps (if t.accKind = 0 then t.bpt else 0) n (32 / n) row cv c) } }) t

/-! ## Advancing (R201) -/

/-- The move of R204 is due, and the staging still holds words: the tile is held. -/
def Tile.held (t : Tile) (now : Nat) : Bool := t.mat.due != 0 && decide (t.mat.due ≤ now + 1) && !t.mat.stage.isEmpty

/-- The smallest ret of the groups as the fabric cycle began. -/
def Mat.lag (m : Mat) (now : Nat) : Nat :=
  listMin ((List.range 8).map (fun g => let x := m.group g; if x.last = now + 1 then x.prev else x.ret))

/-- Group g has advanced from x to nd rows and p terms. -/
def Tile.advanced (t : Tile) (now g : Nat) (x : Group) (nd p sum : Nat) : Tile :=
  let n := if t.cen then 1 else 0
  let m := t.mat
  { t with mat := { m with
      groups := Tab.set Group.zero m.groups g
        { chunk := if nd = 32 then x.chunk + 1 else x.chunk, d := if nd = 32 then 0 else nd, p := if nd = 32 then 0 else p,
          ret := x.ret + (nd - x.d), prev := x.ret, last := now + 1 },
      gcyc := Tab.set 0 m.gcyc g (count48 (Tab.get 0 m.gcyc g) n),
      arows := Tab.set 0 m.arows g (count48 (Tab.get 0 m.arows g) (n * (nd - x.d))),
      terms := Tab.set 0 m.terms g (count48 (Tab.get 0 m.terms g) (n * (sum * (nd - x.d)))) } }

/-- Once every group has retired its output block, the move of R204 is due in the next fabric cycle. -/
def Tile.due (t : Tile) (now : Nat) : Tile :=
  if t.mat.due = 0 ∧ t.mat.minChunk ≥ t.mat.outBase + t.kch then { t with mat := { t.mat with due := now + 2 } } else t

/-- A column group advances in this fabric cycle, or the tile counts the cycle as stalled (R201, R206). -/
def execGroupAdvance (key g : Nat) (s : State) : MatResult :=
  match s.liveTile key with
  | none => .next s
  | some (l, ld) =>
    let t := s.tile key
    let m := t.mat
    let x := m.group g
    let stall := s.setTile key { t with mat := m.addStall t.cen s.fab }
    if g ≥ 8 ∨ t.armed = false ∨ x.last = s.fab + 1 then .next s
    else if t.held s.fab then .next stall
    else if x.chunk ≥ m.outBase + t.kch then .next s
    else
      let b := if x.chunk < m.base then none else m.blocks[x.chunk - m.base]?
      let avail := t.avail x.chunk
      match b with
      | none => .next stall
      | some b =>
        if b.ready = false ∨ avail ≤ x.d then .next stall
        else if x.ret ≥ m.lag s.fab + 4 then .next s
        else match ld.elemOn key with
        | none => .next s
        | some (cut, e) =>
          let ts := (List.range 8).map (fun j => b.colTerms (8 * g + j))
          let T := ts.foldl max 0
          let sum := ts.foldl (fun a x => a + x) 0
          let p := if T = 0 then x.p else min (x.p + 32) (T * min avail (x.d + 2))
          let nd := if T = 0 then x.d + 1 else min (x.d + 1) (p / T)
          match (if T = 0 then none else s.armedElem l cut e g 1) with
          | some (k, lane) => .next ((s.fired k).tileCheck key g lane 0xF0 1 true true 2)
          | none =>
          match (if nd > x.d then s.armedElem l cut e g 2 else none) with
          | some (k, lane) => .next ((s.fired k).tileCheck key g lane 0xF1 1 true true 2)
          | none =>
            .next (s.setTile key (((if nd > x.d then t.accRow g x.d (rowElems t.aFmt (t.aChunk x.chunk) x.d) b else t).advanced
              s.fab g x nd p sum).due s.fab).freeBuffers)

/-! ## Readout (R202 to R205) -/

/-- 2^63. -/
def lim63 : Int := 0x8000000000000000

/-- The output element of an accumulator, and whether it saturated. -/
def Tile.readAcc (t : Tile) (i : Nat) : Nat × Bool :=
  let of := t.field 10 % 64
  let mode := fld (t.field 10) 6 3
  let sat := (t.field 10).testBit 9
  let sc := scaleVal (t.field (136 + fld (t.field 10) 10 4))
  let c := Tab.get 0 t.mat.acc i
  if t.accKind = 2 then (encodeVal of mode sat 0 ((decodeVal 9 ((c % (2 * lim63)).toNat)).mul sc), false)
  else if Tab.get false t.mat.inval i then
    ((match kindOf of with
      | .flt _ _ _ sp => if sp = 0 then encodeVal of 0 true 0 (.inf true) else encodeVal of 0 true 0 .nan
      | _ => encodeVal of 0 true 0 (.inf true)), false)
  else
    let out := decide (c ≥ lim63) || decide (c < -lim63)
    let c := if c ≥ lim63 then lim63 - 1 else if c < -lim63 then -lim63 else c
    let bp : Int := if t.accKind = 0 then t.bpt else 0
    let v := (Val.scaled c (-bp)).mul sc
    let past := of == 0x3F && (match v with
      | .fin neg m e =>
        let n := signedInt neg (roundAt mode neg m (e + bp) 0 false)
        decide (n ≥ lim63) || decide (n < -lim63)
      | _ => false)
    (encodeVal of mode sat bp v, out || past)

/-- The words of output row m. -/
def Tile.outRow (t : Tile) (m : Nat) : List LW × Nat :=
  let of := t.field 10 % 64
  let n := lanesOf of
  let es := (List.range 64).map (fun c => t.readAcc (64 * m + c))
  let k := if n = 0 then 0 else (64 + n - 1) / n
  ((List.range k).map (fun j =>
      mkWord (BitVec.ofNat 256 (joinN (widthOf of) (((es.map (fun e => e.1)).drop (j * n)).take n)))
        (fld (t.field 12) 9 5) 0 0 (t.field 12 % 512)),
   (es.filter (fun e => e.2)).length)

/-- The move of a finished output block into the staging (R204). -/
def execOutputMove (key : Nat) (s : State) : MatResult :=
  match s.liveTile key with
  | none => .next s
  | some _ =>
    let t := s.tile key
    let m := t.mat
    if t.kind ≠ 1 ∨ m.due = 0 ∨ m.due > s.fab + 1 ∨ m.stop then .next s
    else if m.stage.isEmpty = false then .next (s.setTile key { t with mat := m.addStall t.cen s.fab })
    else
      let rows := (List.range 32).map t.outRow
      let words := rows.flatMap (fun r => r.1)
      let sats := rows.foldl (fun a r => a + r.2) 0
      let rem := m.remain - 1
      let clasp := if rem = 0 then
          [mkWord 0 (fld (t.field 12) 9 5) 1 (fld (t.field 1) 17 3) (t.field 12 % 512)] else []
      let keep := (t.field 1).testBit 16
      let m := { m.addSat t.cen sats with
        stage := words ++ clasp, left := t.oports, remain := rem, outBase := m.outBase + t.kch, due := 0,
        acc := if keep then m.acc else [], inval := if keep then m.inval else [] }
      .next (s.setTile key { t with mat := m })

/-- The staging sends its next word (R204), but for a tile that has aligned: it is saved with the record (R205). -/
def execStagingSend (key : Nat) (s : State) : MatResult :=
  match s.liveTile key with
  | none => .next s
  | some (l, _) =>
    let t := s.tile key
    match t.mat.stage with
    | [] => .next s
    | w :: r =>
      if t.kind ≠ 1 ∨ t.aligned ∨ t.saved ∨ Tab.get 0 t.pipeAt 20 = s.fab + 1 then .next s
      else
        let q := s.sendPorts l key w t.mat.left
        let t := q.1.tile key
        if q.2 = 0 then
          .next (q.1.setTile key { t with mat := { t.mat with stage := r, left := t.oports },
                                          pipeAt := Tab.set 0 t.pipeAt 20 (s.fab + 1) })
        else .next (q.1.setTile key { t with mat := { t.mat with left := q.2 } })

end Sys2Proof.Machine
end

