-- ==== Sys2Proof/Machine/MemTile.lean ====
section
/-! DEFINITION. Memory tiles (10 R211 to R227): storage and banks, the tile store with its address generators, and the
streaming, countdown and lookup modes. -/

namespace Sys2Proof.Machine

/-- What every meaning answers. -/
abbrev MtResult := Host.Outcome State Fault Refusal

/-! ## Fields (Tables 10-1, 10-2, 10-5) -/

def Tile.rbase (t : Tile) : Nat := t.field 40 % 4096
def Tile.rsize (t : Tile) : Nat := fld (t.field 40) 12 13
/-- Port and VC of the write input and of the control input. -/
def Tile.wIn (t : Tile) : Nat × Nat := (t.field 41 % 8, fld (t.field 41) 3 5)
def Tile.cIn (t : Tile) : Nat × Nat := (t.field 42 % 8, fld (t.field 42) 3 5)
/-- NBUF and the rows of a buffer. -/
def Tile.nbuf (t : Tile) : Nat := t.field 4 % 16
def Tile.bsize (t : Tile) : Nat := t.rsize / t.nbuf
/-- Word n of address generator g. -/
def Tile.genw (t : Tile) (g n : Nat) : Nat := t.field (8 + 8 * g + n)
def Tile.genOn (t : Tile) (g : Nat) : Bool := (t.genw g 0).testBit 31
def Tile.genWr (t : Tile) (g : Nat) : Bool := (t.genw g 0).testBit 30
/-- A generator is enabled to read; one is enabled to write. -/
def Tile.reads (t : Tile) (g : Nat) : Bool := t.genOn g && !t.genWr g
def Tile.hasWriter (t : Tile) : Bool := (List.range 4).any (fun g => t.genOn g && t.genWr g)

/-! ## Rows and banks (R211, R212) -/

def MemT.row (m : MemT) (r : Nat) : Row := Tab.get Row.zero m.rows r

/-- The row that keeps a token, with its tag. -/
def Row.ofWord (w : LW) : Row := { v := w.pay, kind := w.kind, level := w.level, pois := w.poisoned }
/-- The row that keeps a data word; a null token is a word of zeros. -/
def Row.ofData (w : LW) : Row := { v := if w.kind = 6 then 0 else w.pay, kind := 0, level := 0, pois := w.poisoned }
/-- A row as the data word that it becomes, and as the token it kept. -/
def Row.word (r : Row) (vc route : Nat) : LW := if r.pois then poisonWord vc route else mkWord r.v vc 0 0 route
def Row.token (r : Row) (vc route : Nat) : LW := if r.pois then poisonWord vc route else mkWord r.v vc r.kind r.level route

/-- The bank of a row has served no access in this fabric cycle. -/
def Tile.bankFree (t : Tile) (row now : Nat) : Bool := Tab.get 0 t.pipeAt (30 + row % 4) != now + 1
/-- An access takes the bank of its row. -/
def Tile.claim (t : Tile) (row now : Nat) : Tile := { t with pipeAt := Tab.set 0 t.pipeAt (30 + row % 4) (now + 1) }
/-- An access of agent who is not served in this fabric cycle, which counts once. -/
def Tile.retry (t : Tile) (who now : Nat) : Tile :=
  if Tab.get 0 t.pipeAt (50 + who) = now + 1 then t
  else { t with pipeAt := Tab.set 0 t.pipeAt (50 + who) (now + 1), mem := { t.mem with bankw := satAdd t.mem.bankw 1 (2 ^ 48 - 1) } }

/-- A row is written. -/
def Tile.putRow (t : Tile) (row now : Nat) (r : Row) : Tile :=
  let t := t.claim row now
  { t with mem := { t.mem with rows := Tab.set Row.zero t.mem.rows row r } }

/-! ## Inputs and outputs -/

/-- The token that the mode may take from an input now: markers and swap clasps are not the mode's. which tells write
input (0) from control input (1). -/
def Tile.inHead (t : Tile) (now which : Nat) : Option LW :=
  let pv := if which = 0 then t.wIn else t.cIn
  if Tab.get 0 t.pipeAt (60 + which) = now + 1 then none
  else match t.headOf now pv.1 pv.2 with
  | some w => if w.kind = 2 ∨ w.kind = 3 ∨ w.kind = 4 then none else some w
  | none => none

/-- An input's token is taken. -/
def Tile.inTake (t : Tile) (now which : Nat) : Tile :=
  let pv := if which = 0 then t.wIn else t.cIn
  let t := t.takeHead now pv.1 pv.2
  { t with pipeAt := Tab.set 0 t.pipeAt (60 + which) (now + 1), mem := { t.mem with inw := satAdd t.mem.inw 1 (2 ^ 48 - 1) } }

/-- The words that the mode output has emitted and that have not left. -/
def Tile.unsent (t : Tile) : Nat := (t.sendq.filter (fun e => e.2.2.2 == 0)).length
/-- The mode output can take another word: none that should have left stands in its way (R227). -/
def Tile.outRoom (t : Tile) (now : Nat) : Bool := t.sendq.all (fun e => e.2.2.2 != 0 || decide (now < e.1))

/-- The mode output emits a word, which may leave from a cycle on. -/
def Tile.emit (t : Tile) (at_ : Nat) (w : LW) : Tile :=
  let f := t.field 43
  let t := t.send at_ (w.through (fld f 5 5) (fld f 10 9)) (f % 32) 0
  { t with mem := { t.mem with emitw := satAdd t.mem.emitw 1 (2 ^ 48 - 1) } }

/-- A clasp of a level. -/
def claspWord (l : Nat) : LW := mkWord 0 0 1 l 0

/-- The mode stops: FIELD 1 for a misalignment, 40 for an overflow (R225). -/
def State.memStop (s : State) (l key field_ : Nat) : State :=
  let t := s.tile key
  let s := s.setTile key { t with mem := { t.mem with stop := true } }
  match (s.tileLoad key).bind (fun x => x.2.elemOn key) with
  | some (cut, e) => s.tellOwner l 0x10 (cutTval cut (e, field_, 10))
  | none => s

/-- A memory tile whose mode runs now: it has started, is not aligned, has not stopped, and is in a mode. -/
def State.memTile (s : State) (key mode : Nat) : Option (Nat × Tile) :=
  match s.liveTile key with
  | none => none
  | some (l, _) =>
    let t := s.tile key
    if t.kind = 2 ∧ t.started ∧ t.aligned = false ∧ t.mem.stop = false ∧ t.field 1 = mode ∧ t.startAt ≤ s.fab then some (l, t)
    else none

/-- What a tile holds to send goes out as it can. -/
def State.flushed (s : State) (key : Nat) : State :=
  match s.liveTile key with
  | some (l, _) => s.sendHeld l key
  | none => s

/-- A step of a mode between two looks at what is held to send. A word whose residues do not fit is not taken (12 R250). -/
def State.memRun (s : State) (key mode : Nat) (f : State → Nat → Tile → State) : State :=
  let s := s.flushed key
  match s.memTile key mode with
  | none => s
  | some (l, t) =>
    match ([t.inHead s.fab 0, t.inHead s.fab 1].filterMap id).find? (fun w => w.kind == 0 && w.badResid) with
    | some w => s.tileCheck key 0 w.badLane (0xF8 + mode) 0 true false 3
    | none => (f s l t).flushed key

/-! ## Tile store (R216 to R218) -/

def MemT.buf (m : MemT) (b : Nat) : Nat := Tab.get 0 m.bufs b
def MemT.setBuf (m : MemT) (b v : Nat) : MemT := { m with bufs := Tab.set 0 m.bufs b v }

/-- The writer's buffer is full, and the writer moves on. -/
def Tile.filled (t : Tile) : Tile :=
  let m := t.mem.setBuf t.mem.wbuf 2
  { t with mem := { m with wbuf := (t.mem.wbuf + 1) % t.nbuf, woff := 0, passed := Tab.set 0 m.passed t.mem.wbuf 0 } }

/-- The writer takes a word and writes it to a row of its buffer. -/
def Tile.storeWord (t : Tile) (now row : Nat) (w : LW) : Tile :=
  let t := (t.inTake now 0).putRow row now (Row.ofData w)
  { t with mem := (t.mem.setBuf t.mem.wbuf 1) }

/-- The writer of a tile store without a writing generator takes a word. -/
def execTstoreWrite (key : Nat) (s : State) : MtResult :=
  .next (s.memRun key 1 (fun s l t =>
    if t.hasWriter ∨ t.mem.buf t.mem.wbuf = 2 then s
    else match t.inHead s.fab 0 with
    | none => s
    | some w =>
      if w.kind = 1 then s.setTile key (t.inTake s.fab 0)
      else if w.kind = 5 then s.memStop l key 1
      else
        let row := t.rbase + t.mem.wbuf * t.bsize + t.mem.woff
        if t.bankFree row s.fab = false then s.setTile key (t.retry 0 s.fab)
        else
          let t := t.storeWord s.fab row w
          let t := { t with mem := { t.mem with woff := t.mem.woff + 1 } }
          s.setTile key (if t.mem.woff ≥ t.bsize then t.filled else t)))

def MemT.gen (m : MemT) (g : Nat) : Gen := Tab.get Gen.zero m.gens g
def MemT.setGen (m : MemT) (g : Nat) (x : Gen) : MemT := { m with gens := Tab.set Gen.zero m.gens g x }

/-- COUNT and STRIDE of level k of a generator. -/
def Tile.gcount (t : Tile) (g k : Nat) : Nat := t.genw g (k + 1) / 65536
def Tile.gstride (t : Tile) (g k : Nat) : Int := sintOf (t.genw g (k + 1)) 16

/-- A generator has run all its passes. -/
def Tile.genDone (t : Tile) (g : Nat) : Bool :=
  let p := fld (t.genw g 0) 16 14
  p != 0 && decide ((t.mem.gen g).pass ≥ p)

/-- The buffer a generator is at: a reader's own, the writer's for a writing one. -/
def Tile.genBuf (t : Tile) (g : Nat) : Nat := if t.genWr g then t.mem.wbuf else (t.mem.gen g).b

/-- The row a generator is at. -/
def Tile.genRow (t : Tile) (g : Nat) : Nat :=
  let x := t.mem.gen g
  let o : Int := (fld (t.genw g 0) 0 12 : Nat) + x.i0 * t.gstride g 0 + x.i1 * t.gstride g 1 + x.i2 * t.gstride g 2 +
    x.i3 * t.gstride g 3
  t.rbase + t.genBuf g * t.bsize + (o % (t.bsize : Nat)).toNat

/-- The generator can move: its passes are not all run, its buffer is full (a reader) or the writer's and not full (a
writer), a writer has a word to take, and what it emitted before has left. -/
def Tile.genReady (t : Tile) (now g : Nat) : Bool :=
  t.genOn g && !t.genDone g && Tab.get 0 t.pipeAt (40 + g) != now + 1 &&
    (if t.genWr g then
      t.mem.buf t.mem.wbuf != 2 && (match t.inHead now 0 with | some w => w.kind != 1 && w.kind != 5 | none => false)
    else t.mem.buf (t.mem.gen g).b == 2 && !t.sendq.any (fun e => e.2.2.2.testBit (20 + g)))

/-- The generators before g in the round-robin. -/
def Tile.gensBefore (t : Tile) (g : Nat) : List Nat :=
  ((List.range 4).map (fun i => (t.mem.lastG + 1 + i) % 4)).takeWhile (fun i => i != g)

/-- The next iteration, and the levels that the present one ends: bit k for level k. -/
def Tile.genNext (t : Tile) (g : Nat) : Gen × Nat :=
  let x := t.mem.gen g
  if x.i0 + 1 < t.gcount g 0 then ({ x with i0 := x.i0 + 1 }, 0)
  else if x.i1 + 1 < t.gcount g 1 then ({ x with i0 := 0, i1 := x.i1 + 1 }, 1)
  else if x.i2 + 1 < t.gcount g 2 then ({ x with i0 := 0, i1 := 0, i2 := x.i2 + 1 }, 3)
  else if x.i3 + 1 < t.gcount g 3 then ({ x with i0 := 0, i1 := 0, i2 := 0, i3 := x.i3 + 1 }, 7)
  else ({ x with i0 := 0, i1 := 0, i2 := 0, i3 := 0, pass := x.pass + 1, b := (x.b + 1) % t.nbuf }, 15)

/-- A pass of generator g over buffer b is done: the buffer becomes full, or empty once every reader has passed over it. -/
def Tile.passDone (t : Tile) (g b : Nat) : Tile :=
  if t.genWr g then t.filled
  else
    let m := Tab.get 0 t.mem.passed b ||| 2 ^ g
    if (List.range 4).all (fun i => !t.reads i || m.testBit i) then
      { t with mem := { t.mem.setBuf b 0 with passed := Tab.set 0 t.mem.passed b 0 } }
    else { t with mem := { t.mem with passed := Tab.set 0 t.mem.passed b m } }

/-- One move of a generator: it writes or emits a row, and the clasp of R218. -/
def Tile.genMove (t : Tile) (now g : Nat) : Tile :=
  let row := t.genRow g
  let b := t.genBuf g
  let n := t.genNext g
  let f := t.genw g 6
  let ended := n.2 &&& (t.genw g 5 % 16)
  let t := { t with pipeAt := Tab.set 0 t.pipeAt (40 + g) (now + 1), mem := { t.mem with lastG := g } }
  let out := fun (t : Tile) (w : LW) =>
    let t := t.send (now + 1) w (f % 32) (2 ^ (20 + g))
    { t with mem := { t.mem with emitw := satAdd t.mem.emitw 1 (2 ^ 48 - 1) } }
  let t := if t.genWr g then (match t.inHead now 0 with | some w => t.storeWord now row w | none => t)
    else
      let t := out (t.claim row now) ((t.mem.row row).word (fld f 5 5) (fld f 10 9))
      if ended = 0 then t else out t (mkWord 0 (fld f 5 5) 1 (Nat.log2 ended + 1) (fld f 10 9))
  let t := { t with mem := t.mem.setGen g n.1 }
  if n.2 = 15 then t.passDone g b else t

/-- The bank that a write from the write input wants in this fabric cycle: it is served before any read of a generator
(R212). -/
def Tile.writeBank (t : Tile) (now : Nat) : Option Nat :=
  if t.mem.buf t.mem.wbuf = 2 then none
  else match t.inHead now 0 with
  | none => none
  | some w =>
    if w.kind = 1 ∨ w.kind = 5 then none
    else if t.hasWriter then
      ((List.range 4).find? (fun g => t.genWr g && t.genReady now g)).map (fun g => t.genRow g % 4)
    else some ((t.rbase + t.mem.wbuf * t.bsize + t.mem.woff) % 4)

/-- An address generator moves one row (R217). -/
def execGeneratorStep (key g : Nat) (s : State) : MtResult :=
  .next (s.memRun key 1 (fun s l t =>
    if g ≥ 4 ∨ t.genOn g = false then s
    else match (if t.genWr g && !t.genDone g && t.mem.buf t.mem.wbuf != 2 then t.inHead s.fab 0 else none) with
    | some w =>
      if w.kind = 1 then s.setTile key (t.inTake s.fab 0)
      else if w.kind = 5 then s.memStop l key 1
      else if t.genReady s.fab g = false then s
      else if t.bankFree (t.genRow g) s.fab = false then s.setTile key (t.retry 0 s.fab)
      else s.setTile key (t.genMove s.fab g)
    | none =>
      if t.genReady s.fab g = false then s
      else if (t.gensBefore g).any (fun i => t.reads i && t.genReady s.fab i && t.genRow i % 4 == t.genRow g % 4) then s
      else if t.bankFree (t.genRow g) s.fab = false ∨ t.writeBank s.fab = some (t.genRow g % 4) then
        s.setTile key (t.retry (2 + g) s.fab)
      else s.setTile key (t.genMove s.fab g)))

/-! ## fifo (R219) -/

/-- A fifo stores a token with its tag; of those it holds, none that has not left its output makes room. -/
def execFifoTake (key : Nat) (s : State) : MtResult :=
  .next (s.memRun key 2 (fun s _ t =>
    match t.inHead s.fab 0 with
    | none => s
    | some w =>
      if t.mem.count + t.unsent ≥ t.rsize then s
      else
        let row := t.rbase + (t.mem.head + t.mem.count) % t.rsize
        if t.bankFree row s.fab = false then s.setTile key (t.retry 0 s.fab)
        else
          let t := (t.inTake s.fab 0).putRow row s.fab (Row.ofWord w)
          s.setTile key { t with mem := { t.mem with count := t.mem.count + 1, ages := t.mem.ages ++ [s.fab] } }))

/-- A fifo emits its oldest token, no earlier than two cycles after it was taken. -/
def execFifoEmit (key : Nat) (s : State) : MtResult :=
  .next (s.memRun key 2 (fun s _ t =>
    if t.mem.count = 0 ∨ t.outRoom s.fab = false ∨ Tab.get 0 t.pipeAt 62 = s.fab + 1 ∨ t.mem.ages.headD 0 + 1 > s.fab then s
    else
      let row := t.rbase + t.mem.head
      if t.bankFree row s.fab = false then s.setTile key (t.retry 1 s.fab)
      else
        let t := (t.claim row s.fab).emit (max (s.fab + 1) (t.mem.ages.headD 0 + 2)) ((t.mem.row row).token 0 0)
        s.setTile key { t with
          pipeAt := Tab.set 0 t.pipeAt 62 (s.fab + 1),
          mem := { t.mem with head := (t.mem.head + 1) % t.rsize, count := t.mem.count - 1, ages := t.mem.ages.drop 1 } }))

/-! ## lbuf (R220) -/

def Tile.llen (t : Tile) : Nat := t.field 4 % 8192
def Tile.wh (t : Tile) : Nat := fld (t.field 4) 13 3
def Tile.ww (t : Tile) : Nat := fld (t.field 4) 16 3
/-- The row of position (y, x). -/
def Tile.pixRow (t : Tile) (y x : Nat) : Nat := t.rbase + y % t.wh * t.llen + x

/-- The position after (y, x). -/
def Tile.nextPix (t : Tile) : Tile :=
  let m := t.mem
  { t with mem := { m with x := if m.x + 1 = t.llen then 0 else m.x + 1, y := if m.x + 1 = t.llen then m.y + 1 else m.y } }

/-- lbuf takes a pixel, or emits the next word of a window: rpos is one more than its place in the window. -/
def execLbufTake (key : Nat) (s : State) : MtResult :=
  .next (s.memRun key 3 (fun s l t =>
    let m := t.mem
    if m.rpos ≠ 0 then
      if t.outRoom s.fab = false ∨ Tab.get 0 t.pipeAt 62 = s.fab + 1 then s
      else
        let i := m.rpos - 1
        let row := t.pixRow (m.y + 1 - t.wh + i / t.ww) (m.x + 1 - t.ww + i % t.ww)
        if t.bankFree row s.fab = false then s.setTile key (t.retry 1 s.fab)
        else
          let t := (t.claim row s.fab).emit (s.fab + 1) ((m.row row).word 0 0)
          let t := { t with pipeAt := Tab.set 0 t.pipeAt 62 (s.fab + 1), mem := { t.mem with rpos := m.rpos + 1 } }
          s.setTile key (if i + 1 = t.wh * t.ww then { t with mem := { t.mem with rpos := 0 } }.nextPix else t)
    else if t.unsent ≠ 0 then s
    else match t.inHead s.fab 0 with
    | none => s
    | some w =>
      if w.kind = 5 ∨ (w.kind = 1 ∧ m.x ≠ 0) then s.memStop l key 1
      else if w.kind = 1 then
        if t.outRoom s.fab = false then s
        else
          let t := (t.inTake s.fab 0).emit (s.fab + 1) (claspWord w.level)
          s.setTile key { t with mem := { t.mem with y := 0 } }
      else
        let row := t.pixRow m.y m.x
        if t.bankFree row s.fab = false then s.setTile key (t.retry 0 s.fab)
        else
          let t := (t.inTake s.fab 0).putRow row s.fab (Row.ofData w)
          s.setTile key (if m.y + 1 ≥ t.wh ∧ m.x + 1 ≥ t.ww then { t with mem := { t.mem with rpos := 1 } } else t.nextPix)))

/-! ## rpt (R221) -/

/-- The capture's next pass begins, or the next capture: rst is 0 between captures, 1 while one is taken, 2 in a later
pass. -/
def Tile.nextPass (t : Tile) : Tile :=
  let m := t.mem
  { t with mem := if m.rpass < m.rn then { m with rst := 2, rpass := m.rpass + 1, rpos := 0 } else { m with rst := 0 } }

/-- rpt takes a count, takes a token of a capture, or emits a token of a later pass. -/
def execRptCapture (key : Nat) (s : State) : MtResult :=
  .next (s.memRun key 4 (fun s l t =>
    let m := t.mem
    if m.rst = 0 ∧ t.unsent ≠ 0 then s
    else if m.rst = 0 then
      match t.inHead s.fab 1 with
      | none => s
      | some w =>
        if w.kind = 5 then s.memStop l key 1
        else
          let t := t.inTake s.fab 1
          if w.kind = 1 then s.setTile key t
          else s.setTile key { t with mem := { t.mem with
            rst := 1, rn := if w.kind = 6 then 0 else w.pay.toNat % 2 ^ 32, rpass := 1, rpos := 0, count := 0 } }
    else if m.rst = 1 then
      match t.inHead s.fab 0 with
      | none => s
      | some w =>
        let row := t.rbase + m.count
        let pass := fun (t : Tile) (w : LW) => if m.rn = 0 then t else t.emit (s.fab + 1) w
        if m.rn ≠ 0 ∧ t.outRoom s.fab = false then s
        else if w.kind = 5 then s.memStop l key 1
        else if w.kind = 1 ∧ w.level ≥ t.field 4 then
          let t := pass (t.inTake s.fab 0) (claspWord w.level)
          s.setTile key { t with mem := { t.mem with y := w.level } }.nextPass
        else if m.count ≥ t.rsize then s.memStop l key 40
        else if t.bankFree row s.fab = false then s.setTile key (t.retry 0 s.fab)
        else
          let t := pass ((t.inTake s.fab 0).putRow row s.fab (Row.ofWord w)) w
          s.setTile key { t with mem := { t.mem with count := m.count + 1 } }
    else if t.outRoom s.fab = false ∨ Tab.get 0 t.pipeAt 62 = s.fab + 1 then s
    else if m.rpos ≥ m.count then s.setTile key (t.emit (s.fab + 1) (claspWord m.y)).nextPass
    else
      let row := t.rbase + m.rpos
      if t.bankFree row s.fab = false then s.setTile key (t.retry 1 s.fab)
      else
        let t := (t.claim row s.fab).emit (s.fab + 1) ((m.row row).token 0 0)
        s.setTile key { t with pipeAt := Tab.set 0 t.pipeAt 62 (s.fab + 1), mem := { t.mem with rpos := m.rpos + 1 } }))

/-! ## cdown (R222) -/

/-- The row and value of counter i. -/
def Tile.cdRow (t : Tile) (i : Nat) : Nat := t.rbase + i / 16
def Tile.cdGet (t : Tile) (i : Nat) : Nat := fld (t.mem.row (t.cdRow i)).v.toNat (16 * (i % 16)) 16

/-- Counter i counts down. -/
def Tile.cdDown (t : Tile) (i now : Nat) : Tile :=
  let r := t.mem.row (t.cdRow i)
  t.putRow (t.cdRow i) now { r with v := r.v - BitVec.ofNat 256 (2 ^ (16 * (i % 16))) }

/-- The token of an index. -/
def idxWord (i : Nat) : LW := mkWord (BitVec.ofNat 256 i) 0 0 0 0

/-- The scan visits its next counter, no earlier than its cycle. -/
def execCdownScan (key : Nat) (s : State) : MtResult :=
  .next (s.memRun key 5 (fun s _ t =>
    let m := t.mem
    if m.scan ≥ t.field 4 ∨ s.fab < m.scanAt + m.scan + 1 ∨ Tab.get 0 t.pipeAt 62 = s.fab + 1 ∨ t.outRoom s.fab = false then s
    else if t.bankFree (t.cdRow m.scan) s.fab = false then s.setTile key (t.retry 1 s.fab)
    else
      let z := t.cdGet m.scan == 0
      let t := t.claim (t.cdRow m.scan) s.fab
      let t := { t with pipeAt := Tab.set 0 t.pipeAt 62 (s.fab + 1), mem := { t.mem with scan := m.scan + 1 } }
      s.setTile key (if z then t.emit s.fab (idxWord m.scan) else t)))

/-- A decrement token is taken. -/
def execCdownDecrement (key : Nat) (s : State) : MtResult :=
  .next (s.memRun key 5 (fun s l t =>
    if t.mem.scan < t.field 4 then s
    else match t.inHead s.fab 1 with
    | none => s
    | some w =>
      if t.outRoom s.fab = false then s
      else if w.kind = 5 then s.memStop l key 1
      else if w.kind = 1 then s.setTile key ((t.inTake s.fab 1).emit (s.fab + 2) (claspWord w.level))
      else if w.kind = 6 then s.setTile key (t.inTake s.fab 1)
      else
        let i := w.pay.toNat % 65536
        if i < t.field 4 ∧ t.bankFree (t.cdRow i) s.fab = false then s.setTile key (t.retry 1 s.fab)
        else
          let v := if i < t.field 4 then t.cdGet i else 0
          let t := t.inTake s.fab 1
          if v = 0 then s.setTile key { t with mem := { t.mem with disc := satAdd t.mem.disc 1 (2 ^ 48 - 1) } }
          else s.setTile key (if v = 1 then (t.cdDown i s.fab).emit (s.fab + 2) (idxWord i) else t.cdDown i s.fab)))

/-! ## ltab (R223) -/

/-- Entry e of the lookup table, and its row. -/
def Tile.entRow (t : Tile) (e : Nat) : Nat := t.rbase + e / 8
def Tile.entGet (t : Tile) (e : Nat) : Nat := fld (t.mem.row (t.entRow e)).v.toNat (32 * (e % 8)) 32

/-- The distinct rows that a token's indices read; the largest number of them in one bank, with a minimum of 1; and the
accesses that wait for their bank, a cycle each. -/
def Tile.ltRows (t : Tile) (ix : List Nat) : List Nat :=
  ((ix.filter (fun i => decide (i < t.field 4))).map t.entRow).eraseDups
def bankLoad (rows : List Nat) : Nat :=
  (List.range 4).foldl (fun a b => max a ((rows.filter (fun r => r % 4 == b)).length)) 1
def bankWaits (rows : List Nat) : Nat :=
  (List.range 4).foldl (fun a b => let n := (rows.filter (fun r => r % 4 == b)).length; a + n * (n - 1) / 2) 0

/-- A token of indices is taken and answered, once no other access has the bank of a row it reads. -/
def execLtabLookup (key : Nat) (s : State) : MtResult :=
  .next (s.memRun key 6 (fun s l t =>
    if s.fab < t.mem.takeAt ∨ t.outRoom s.fab = false then s
    else match t.inHead s.fab 1 with
    | none => s
    | some w =>
      if w.kind = 5 then s.memStop l key 1
      else if w.kind = 1 then s.setTile key ((t.inTake s.fab 1).emit (s.fab + 2) (claspWord w.level))
      else if w.kind = 6 then s.setTile key ((t.inTake s.fab 1).emit (s.fab + 2) (mkWord 0 0 6 0 0))
      else
        let ix := splitN 32 w.pay.toNat 8
        let rows := t.ltRows ix
        let c := bankLoad rows
        if rows.any (fun r => !t.bankFree r s.fab) then s.setTile key (t.retry 1 s.fab)
        else if w.poisoned ∨ rows.any (fun r => (t.mem.row r).pois) then s.tileCheck key 0 0 0xFE 5 false false 3
        else
          let t := t.inTake s.fab 1
          let off := (ix.filter (fun i => decide (i ≥ t.field 4) && i != 0xFFFFFFFF)).length
          let v := joinN 32 (ix.map (fun i => if i < t.field 4 then t.entGet i else 0))
          let t := { t with mem := { t.mem with
            takeAt := s.fab + c, disc := satAdd t.mem.disc off (2 ^ 48 - 1),
            bankw := satAdd t.mem.bankw (bankWaits rows) (2 ^ 48 - 1) } }
          s.setTile key (t.emit (s.fab + c + 1) (mkWord (BitVec.ofNat 256 v) 0 0 0 0))))

/-! ## Starting, and rest (R216, R222, R224) -/

/-- The mode as it stands at the start token: PFULL buffers full, the writer at the next, the scan to begin. -/
def Tile.memStart (t : Tile) (now : Nat) : Tile :=
  if t.kind ≠ 2 then t
  else
    let pf := if t.field 1 = 1 then fld (t.field 4) 8 4 else 0
    { t with mem := { t.mem with
        bufs := (List.range pf).map (fun b => (b, 2)), wbuf := if t.nbuf = 0 then 0 else pf % t.nbuf, scan := 0, scanAt := now } }

/-- The mode after a bank swap: a tile store keeps its buffers, all full or all empty, and every walk begins anew. -/
def Tile.memSwap (t : Tile) (now : Nat) : Tile :=
  if t.kind ≠ 2 then t
  else
    let full := t.mem.buf 0 = 2
    { t with mem := { MemT.zero with
        rows := t.mem.rows, bufs := if full then (List.range 8).map (fun b => (b, 2)) else [], scanAt := now,
        inw := t.mem.inw, emitw := t.mem.emitw, bankw := t.mem.bankw, disc := t.mem.disc } }

/-- The mode is at rest, so that the tile may swap banks. -/
def Tile.memRest (t : Tile) (now : Nat) : Bool :=
  let m := t.mem
  t.sendq.isEmpty &&
    (match t.field 1 with
     | 1 => (List.range t.nbuf).all (fun b => m.buf b == 0) || (List.range t.nbuf).all (fun b => m.buf b == 2)
     | 2 => m.count == 0
     | 3 => m.y == 0 && m.x == 0 && m.rpos == 0
     | 4 => m.rst == 0
     | 5 => decide (m.scan ≥ t.field 4)
     | 6 => decide (m.takeAt ≤ now)
     | _ => true)

end Sys2Proof.Machine
end

