-- ==== Sys2Proof/Machine/Swap.lean ====
section
/-! DEFINITION. Bank swaps (08 R184 to R186; 21 R444) and the alignment of elements on markers (12 R266; 13 R275, R276). -/

namespace Sys2Proof.Machine

/-- What every meaning answers. -/
abbrev SwapResult := Host.Outcome State Fault Refusal

/-! ## Channels that a tile's inputs name -/

/-- The slot inputs of a vector tile that read a channel: slot, input, port, VC. -/
def Tile.chanIns (t : Tile) : List (Nat × Nat × Nat × Nat) :=
  (List.range 48).filterMap (fun k =>
    let w := t.inw false (k / 3) (k % 3)
    let src := srcOf w
    if opcodeOf (t.opw false (k / 3)) ≠ 0 ∧ ((16 ≤ src ∧ src ≤ 19) ∨ src = 22) then
      some (k / 3, k % 3, srcPort src, vcOf w) else none)

/-- lcarry's back edge and control input, which come round the loop it opens. -/
def Tile.loopIn (t : Tile) (s i : Nat) : Bool := opcodeOf (t.opw false s) == 0x52 && i != 0

/-- The channels that feed a used input. -/
def Tile.usedChans (t : Tile) : List (Nat × Nat) :=
  if t.kind = 0 then
    (if t.field 0 % 2 = 1 then t.allPops else (t.chanIns.map (fun e => (e.2.2.1, e.2.2.2))).eraseDups)
  else if t.kind = 1 then
    (if t.sectId = 0 then [] else [t.aPort, t.bPort 0, t.bPort 1].filter (fun c => c.1 != 7))
  else if t.field 1 = 0 then [] else [t.wIn, t.cIn].filter (fun c => c.1 != 7)

/-- The same, those that only feed lcarry's loop inputs apart. -/
def Tile.awaited (t : Tile) : List (Nat × Nat) :=
  if t.kind = 0 ∧ t.field 0 % 2 = 0 then
    ((t.chanIns.filter (fun e => !t.loopIn e.1 e.2.1)).map (fun e => (e.2.2.1, e.2.2.2))).eraseDups
  else t.usedChans

/-- The kind of the token that a channel offers now. -/
def Tile.headKind (t : Tile) (now : Nat) (c : Nat × Nat) : Option Nat := (t.headOf now c.1 c.2).map (fun w => w.kind)

/-! ## Bank swaps (R185) -/

/-- No firing is in progress and every output register is free; operator state that a swap may not meet is at rest. -/
def Tile.quiet (t : Tile) (now : Nat) : Bool :=
  t.sendq.isEmpty &&
    (if t.kind = 0 then
      t.flights.isEmpty && (t.field 0 % 2 == 0 || t.tick == 0) &&
        (List.range 16).all (fun n => (t.slot n).free && !t.pending n &&
          (match opcodeOf (t.opw false n) with
           | 0x52 => (t.slot n).st.mode == 0 &&
               t.chanIns.all (fun e => !(e.1 == n && t.loopIn e.1 e.2.1) || (t.ch e.2.2.1 e.2.2.2).isEmpty)
           | 0x60 => (t.slot n).st == OpSt.zero
           | 0x61 => (t.slot n).st == OpSt.zero
           | _ => true))
    else if t.kind = 1 then
      t.mat.stage.isEmpty && t.mat.due == 0 &&
        (List.range 8).all (fun g => let x := t.mat.group g; x.chunk == t.mat.outBase && x.d == 0 && x.p == 0)
    else t.memRest now)

/-- A tile whose banks are exchanged. -/
def Tile.swapped (t : Tile) (now : Nat) : Tile :=
  let t := { t with bank := !t.bank, slots := [], tick := 0, misEnd := false, misFld := 0, startAt := now + 1,
                    mat := { t.mat with stop := false } }
  t.memSwap now

/-- A timed tile, and the channels that its list pops; it takes swap clasps from those only at a period boundary at which all
of them show one of one level (R190). -/
def Tile.isTimed (t : Tile) : Bool := t.kind == 0 && t.field 0 % 2 == 1
def Tile.pops (t : Tile) (c : Nat × Nat) : Bool := t.isTimed && t.allPops.contains c
def Tile.swapsNow (t : Tile) (now : Nat) : Bool := match t.boundary now with | some w => w.kind == 2 | none => false

/-- A tile swaps its banks (R185), or with SWIN = 7 consumes the swap clasps that head its channels (R184). -/
def execBankSwap (key : Nat) (s : State) : SwapResult :=
  match s.liveTile key with
  | none => .next s
  | some (l, _) =>
    let s := s.sendHeld l key
    let t := s.tile key
    let c := t.field 0
    let swin := (fld c 8 3, fld c 11 5)
    if t.started = false ∨ t.aligned ∨ s.fab < t.startAt then .next s
    else if swin.1 = 7 then
      let cs := (t.chans.map (fun e => (e.1 / 32, e.1 % 32))).filter (fun c =>
        t.headKind s.fab c == some 2 && (!t.pops c || t.swapsNow s.fab))
      if cs.isEmpty then .next s else .next (s.setTile key (cs.foldl (fun t c => t.takeHead s.fab c.1 c.2) t))
    else match t.headOf s.fab swin.1 swin.2 with
    | none => .next s
    | some w =>
      if w.kind ≠ 2 ∨ t.quiet s.fab = false ∨ t.awaited.any (fun c => t.headKind s.fab c != some 2) ∨
          (t.isTimed ∧ t.allPops ≠ [] ∧ t.swapsNow s.fab = false) then .next s
      else
        let t' := (swin :: t.awaited).eraseDups.foldl (fun t c => t.takeHead s.fab c.1 c.2) t
        let clasp := mkWord 0 (fld c 21 5) 2 w.level (t.field 6 % 512)
        .next ((s.setTile key ((t'.swapped s.fab).send (s.fab + 1) clasp (fld c 16 5) 0)).moved l)

/-! ## Alignment (R275) -/

/-- A marker. -/
def isMarker (k : Option Nat) : Bool := k == some 3 || k == some 4

/-- The slots of a vector tile that a marker holds: one stands at the head of a channel that a non-resident input awaits,
or an input's source slot is held and has no result. -/
def Tile.heldSlots (t : Tile) (now : Nat) : Nat → List Nat
  | 0 => ((t.chanIns.filter (fun e => !t.loopIn e.1 e.2.1 && (Tab.get none (t.slot e.1).res e.2.1).isNone &&
      isMarker (t.headKind now (e.2.2.1, e.2.2.2)))).map (fun e => e.1)).eraseDups
  | n + 1 =>
    let h := Tile.heldSlots t now n
    (List.range 16).filter (fun j => h.contains j || (List.range 3).any (fun i =>
      let src := srcOf (t.inw false j i)
      opcodeOf (t.opw false j) != 0 && decide (src < 16) && h.contains src && (t.slot src).free && !t.pending src))

/-- A channel waits for nothing more before alignment: a marker heads it, or the tokens it holds can be consumed by no
slot. -/
def Tile.chanAligned (t : Tile) (now : Nat) (c : Nat × Nat) : Bool :=
  isMarker (t.headKind now c) ||
    ((t.headKind now c).isSome &&
      (if t.kind = 0 then
        let h := t.heldSlots now 16
        (t.chanIns.filter (fun e => (e.2.2.1, e.2.2.2) == c)).all (fun e => h.contains e.1)
      else if t.kind = 2 then
        -- rpt takes from one input at a time: the other one's tokens wait for it
        t.field 1 == 4 && (if t.mem.rst = 0 then c == t.wIn && isMarker (t.headKind now t.cIn)
                           else t.mem.rst == 1 && c == t.cIn && isMarker (t.headKind now t.wIn))
      else false))

/-- The channels that alignment awaits now: those of resident inputs apart. -/
def Tile.alignChans (t : Tile) : List (Nat × Nat) :=
  if t.kind = 0 ∧ t.field 0 % 2 = 0 then
    ((t.chanIns.filter (fun e => !t.loopIn e.1 e.2.1 && (Tab.get none (t.slot e.1).res e.2.1).isNone)).map
      (fun e => (e.2.2.1, e.2.2.2))).eraseDups
  else t.usedChans

/-- A matrix tile stands between chunks, a timed tile at a period boundary (Table 13-3). -/
def Tile.atBoundary (t : Tile) : Bool :=
  if t.kind = 0 ∧ t.field 0 % 2 = 1 then t.tick == 0 && t.flights.isEmpty
  else if t.kind = 1 then (List.range 8).all (fun g => let x := t.mat.group g
    x.d == 0 && x.p == 0 && x.chunk == (t.mat.group 0).chunk)
  else true

/-- Every live feed thread of a load has executed its n-th MARK. -/
def State.markedAll (s : State) (l n : Nat) : Bool := (s.feeds l).all (fun e => decide (n ≤ e.2.marks))

/-- The marker for which a tile aligns now, by its kind: none while it does not. -/
def State.alignKind (s : State) (l : Nat) (x : Load) (t : Tile) : Option Nat :=
  if t.atBoundary = false then none
  else if t.usedChans.isEmpty then
    (if t.wave ≥ x.top then none
     else if x.st = .draining ∧ t.wave + 1 = x.top then some 4
     else if x.prot ∧ s.markedAll l (t.wave + 1) then some 3
     else none)
  else
    let cs := t.alignChans
    if cs.all (t.chanAligned s.fab) then
      (t.usedChans.filterMap (fun c => (t.headKind s.fab c).bind (fun k => if k = 3 ∨ k = 4 then some k else none))).head?
    else none

/-- Outputs in use: port, VC, ROUTE, and the mask of slots that send there. -/
def Tile.outputs (t : Tile) : List (Nat × Nat × Nat × Nat) :=
  let ports := fun (m vc route src : Nat) =>
    (List.range 5).filterMap (fun p => if m.testBit p then some (p, vc, route, src) else none)
  if t.kind = 0 then
    let ss := if t.field 0 % 2 = 1 then (t.ops.map (fun e => e.2)).eraseDups
              else (List.range 16).filter (fun n => opcodeOf (t.opw false n) != 0)
    ss.flatMap (fun n =>
      let k := pathsOf (opcodeOf (t.opw false n)) (xopOf (t.opw false n))
      if k = 0 then ports (t.outPorts n) (t.outVc n) (t.outRoute n) (2 ^ n)
      else (List.range k).flatMap (fun j =>
        let b := fld (t.immw false n) (8 * j) 8
        if fld b 5 3 < 5 then [(fld b 5 3, b % 32, t.outRoute n, 2 ^ n)] else []))
  else if t.kind = 1 then
    if t.sectId = 0 then [] else ports t.oports (fld (t.field 12) 9 5) (t.field 12 % 512) 0
  else
    (List.range 4).flatMap (fun g => if t.reads g then
        ports (t.genw g 6 % 32) (fld (t.genw g 6) 5 5) (fld (t.genw g 6) 10 9) 0 else []) ++
      ports (t.field 43 % 32) (fld (t.field 43) 5 5) (fld (t.field 43) 10 9) 0

/-- Each output once, with every slot that sends there. -/
def mergeOutputs (l : List (Nat × Nat × Nat × Nat)) : List (Nat × Nat × Nat × Nat) :=
  l.foldl (fun r o =>
    if r.any (fun q => q.1 == o.1 && q.2.1 == o.2.1 && q.2.2.1 == o.2.2.1) then
      r.map (fun q => if q.1 = o.1 ∧ q.2.1 = o.2.1 ∧ q.2.2.1 = o.2.2.1 then (q.1, q.2.1, q.2.2.1, q.2.2.2 ||| o.2.2.2) else q)
    else r ++ [o]) []

/-- A tile aligns: it fires no more, and sends one marker on every output in use (R275). -/
def Tile.align (t : Tile) (now kind n : Nat) : Tile :=
  (mergeOutputs t.outputs).foldl (fun t o =>
    t.send now (mkWord (BitVec.ofNat 256 n) o.2.1 kind 0 o.2.2.1) (2 ^ o.1) o.2.2.2)
    { t with aligned := true, akind := kind, marked := [], kept := [] }

/-- A marker of a wave that the tile has passed already goes. -/
def Tile.dropStale (t : Tile) (now : Nat) : Tile :=
  t.usedChans.foldl (fun t c => match t.headOf now c.1 c.2 with
    | some w => if w.kind = 3 ∧ w.pay.toNat ≤ t.wave then t.takeHead now c.1 c.2 else t
    | none => t) t

/-- An aligned tile takes each channel's marker once it stands at the head, and keeps what comes ahead of it (R276). -/
def Tile.keepOne (t : Tile) (now : Nat) (c : Nat × Nat) : Tile :=
  if t.marked.contains (chan c.1 c.2) then t
  else match t.headOf now c.1 c.2 with
  | none => t
  | some w =>
    let u := t.takeHead now c.1 c.2
    if w.kind = 3 ∨ w.kind = 4 then { u with marked := u.marked ++ [chan c.1 c.2] }
    else
      let k : ChTok := { w := w, at_ := 0, fwd := 0, local_ := true, met := true }
      { u with kept := Tab.set [] u.kept (chan c.1 c.2) (Tab.get [] u.kept (chan c.1 c.2) ++ [k]) }
def Tile.keep (t : Tile) (now : Nat) : Tile := (t.usedChans ++ t.usedChans).foldl (fun t c => t.keepOne now c) t

/-- An aligned tile's image is complete: each channel's marker has come, and what it has to send has left. -/
def Tile.complete (t : Tile) : Bool :=
  t.usedChans.all (fun c => t.marked.contains (chan c.1 c.2)) && t.sendq.isEmpty && t.passed 65535

/-- The element record of an aligned tile. -/
def Tile.image (t : Tile) : Tile :=
  { t with chans := t.kept, kept := [], marked := [], aligned := false, akind := 0, wave := t.wave + 1, sendq := [],
           pipeAt := [], sentAt := [], tickAt := 0 }

/-- A checkpointed tile goes on with what it kept. -/
def Tile.goOn (t : Tile) : Tile :=
  { t with chans := t.kept.foldl (fun m e => Tab.set [] m e.1 (e.2 ++ Tab.get [] m e.1)) t.chans, kept := [], marked := [],
           aligned := false, akind := 0, wave := t.wave + 1 }

/-- An element aligns on markers, and once its image is complete its record is written (R266, R275, R276). -/
def execElementAlign (key : Nat) (s : State) : SwapResult :=
  match s.liveTile key with
  | none => .next s
  | some (l, x) =>
    let s := s.sendHeld l key
    let t := s.tileOr key
    if t.started = false ∨ t.saved ∨ s.fab < t.startAt then .next s
    else
      let t := if t.aligned then t
        else
          let u := t.dropStale s.fab
          match s.alignKind l x u with
          | some k => u.align s.fab k (u.wave + 1)
          | none => u
      let t := if t.aligned then t.keep s.fab else t
      if t.aligned = false ∨ t.complete = false then .next (s.setTile key t)
      else match x.elemOn key with
      | none => .next s
      | some (cut, e) =>
        let s := s.snapUp l (t.wave + 1) (fun y => { y with
          tiles := Tab.set Tile.empty y.tiles (elemKey cut e) t.image,
          result := match s.load l with | some z => z.result | none => none })
        .next ((s.setTile key (if t.akind = 4 then { t.goOn with chans := [], saved := true, mat := { t.mat with stage := [], due := 0 } } else t.goOn)).moved l)

end Sys2Proof.Machine
end

