-- ==== Sys2Proof/Machine/Drain.lean ====
section
/-! DEFINITION. Markers, segments and the save pool: what MARK and a pre-emption put into a load (12 R266, 26 R464; 13
R274), when a segment commits (12 R268), the occupancy of a load (13 R281), and saving it (13 R272 to R277). -/

namespace Sys2Proof.Machine

/-- What every meaning answers. -/
abbrev DrainResult := Host.Outcome State Fault Refusal

/-! ## The engines of a feed group -/

/-- The streams, copies and waiting commands of a load's feed group: core, number, engine. -/
def State.streamsOf (s : State) (l : Nat) : List (Nat × Nat × Stream) :=
  s.cores.flatMap (fun (e : Nat × Core) => e.2.streams.filterMap (fun (t : Nat × Option Stream) => match t.2 with
    | some x => if x.cmd.load = l then some (e.1, t.1, x) else none
    | none => none))
def State.copiesOf (s : State) (l : Nat) : List (Nat × Nat × CopyEng) :=
  s.cores.flatMap (fun (e : Nat × Core) => e.2.copies.filterMap (fun (t : Nat × Option CopyEng) => match t.2 with
    | some x => if x.cmd.load = l then some (e.1, t.1, x) else none
    | none => none))
def State.waitingOf (s : State) (l : Nat) : List Cmd :=
  s.cores.flatMap (fun (e : Nat × Core) => e.2.engq.filter (fun m => m.load == l))

/-- An engine of a core waits for nothing from afar. -/
def State.engIdle (s : State) (c eid : Nat) : Bool :=
  Tab.get 0 (s.core c).pendW eid == 0 && (s.core c).asked.all (fun e => e.1 != eid)

/-! ## The circuits into a load -/

/-- A word of a ROUTE and VC that arrives at one of a list of tiles and ports reaches a used input; n bounds the search. -/
def State.reaches (s : State) (x : Load) (vc route : Nat) (seen : List (Nat × Nat)) : List (Nat × Nat) → Nat → Bool
  | _, 0 => false
  | [], _ + 1 => false
  | (key, p) :: r, n + 1 =>
    if seen.contains (key, p) then State.reaches s x vc route seen r n
    else
      let t := s.tileOr key
      match t.routeOf p route with
      | none => State.reaches s x vc route ((key, p) :: seen) r n
      | some v =>
        if v.testBit 22 && t.usedChans.contains (p, vc) then true
        else
          let next := (List.range 4).filterMap (fun q =>
            if v.testBit (23 + q) then
              match neighbour key q with
              | some k => if x.sameCut key k then some (k, (q + 2) % 4) else none
              | none => none
            else none)
          State.reaches s x vc route ((key, p) :: seen) (r ++ next) n

/-- The ROUTE of the markers of a circuit into a load: its last producer's, or with none the lowest by which its words reach
a used input. -/
def State.circuitRoute (s : State) (l : Nat) (x : Load) (cut fac port vc : Nat) : Option Nat :=
  let q := s.queue (circuitKey l cut fac port vc true)
  if q.bound then some q.route
  else match x.cuts[cut]? with
  | none => none
  | some c =>
    let m := c.tileAt (fac * 64 + portTile port)
    let key := if vc < 16 then m else m + 1
    let t := s.tileOr key
    let f := routeFields t.kind
    let rs := ((List.range f.2).map (fun i => t.field (f.1 + i))).filterMap (fun v =>
      if v.testBit 31 && fld v 28 3 == 4 then some (v % 512) else none)
    ((List.range 512).filter (fun r => rs.contains r)).find? (fun r => s.reaches x vc r [] [(key, 4)] 40000)

/-- The VCs that some used input of a cut names. -/
def State.vcsOf (s : State) (c : Cut) : List Nat :=
  (c.elems.flatMap (fun e => (s.tileOr (c.tileAt e)).usedChans.map (fun p => p.2))).eraseDups

/-- A marker enters each circuit into a load that no active reading stream of its feed group feeds, behind the last token
(R274, R464), and likewise each border circuit into it. -/
def State.markCircuits (s : State) (l n kind : Nat) : State :=
  match s.load l with
  | none => s
  | some x =>
    let fed := (s.streamsOf l).filterMap (fun e =>
      if e.2.2.drain = false ∧ (e.2.2.st = 1 ∨ e.2.2.st = 2) then some e.2.2.key else none)
    let s := x.cuts.zipIdx.foldl (fun s (c : Cut × Nat) =>
      let vcs := s.vcsOf c.1
      (List.range (c.1.w * c.1.h)).foldl (fun s fac => (List.range 8).foldl (fun s port =>
        if x.portUsed c.2 fac port then
          vcs.foldl (fun s vc =>
            let key := circuitKey l c.2 fac port vc true
            if fed.contains key then s
            else match s.circuitRoute l x c.2 fac port vc with
            | some r => s.qAppend key (mkWord (BitVec.ofNat 256 n) vc kind 0 r)
            | none => s) s
        else s) s) s) s
    x.bord.foldl (fun s w =>
      let k := borderKey (bits w 26 12) true
      if bit w 25 then
        match Tab.get none s.borders k with
        | some b => { s with borders := Tab.set none s.borders k (some { b with
            words := b.words ++ [mkWord (BitVec.ofNat 256 n) (bits w 20 5) kind 0 (bits w 11 9)] }) }
        | none => s
      else s) s

/-! ## Markers of streams -/

/-- A stream is told of a wave that begins now: a reading stream of its load's circuit injects the marker behind the
elements delivered, unless its interval has given that wave; a draining one takes it from its circuit; any other has it at once. -/
def State.markStream (s : State) (c n wave : Nat) (x : Stream) : State :=
  if x.marked ≥ wave ∨ x.markPos.any (fun m => m.2.1 == wave && m.2.2 == 3) then s
  else if x.own ∧ x.drain then s
  else if x.own then
    s.setStream c n (some { x with markPos := (x.pos, wave, kMark) :: x.markPos })
  else
    let y := { x with marked := wave, markHist := x.markHist ++ [(wave, x.pos)] }
    (s.setStream c n (some y)).noteMark c n y

/-- A stream stops for a drain: the waves that have been opened and not marked in it, and then the drain marker, follow what
it has delivered; an interval's next marker is for the wave after. -/
def State.drainStream (s : State) (c n top : Nat) (x : Stream) : State :=
  if x.st ≠ 1 ∧ x.st ≠ 2 then s
  else if x.own ∧ x.drain then s
  else if x.own then
    let now := ((List.range top).filter (fun w => decide (x.marked < w))).map (fun w => (x.pos, w, kMark))
    let later := (x.markPos.filter (fun m => m.2.2 == 19)).map (fun m => (m.1, top + 1, 19))
    s.setStream c n (some { x with markPos := now ++ [(x.pos, top, kDrain)] ++ later })
  else s.setStream c n (some { x with drained := true, emptyAt := 0, idxAt := 0 })

/-! ## The occupancy of a load (R281) -/

/-- The items that a tile holds. -/
def Tile.items (t : Tile) : Nat :=
  t.chans.foldl (fun n e => n + e.2.length) 0 + t.kept.foldl (fun n e => n + e.2.length) 0 +
    t.slots.foldl (fun n e => n + e.2.out.length + e.2.flight.length) 0 + t.flights.length + t.sendq.length +
    t.mat.stage.length + (if t.mat.due = 0 then 0 else 1)

/-- The items of a load: in its tiles, on their way over its bridges, borders and the circuits into it, and the line
requests of its feed group, those of commands that were killed among them, and the killed send steps that still await an
acknowledgement (R285). -/
def State.items (s : State) (l : Nat) (x : Load) : Nat :=
  (x.elems.foldl (fun n e => n + (s.tile e.2.2).items) 0) + x.bridges.length +
    s.borders.foldl (fun n e => match e.2 with | some b => if b.load = l then n + b.words.length else n | none => n) 0 +
    (if x.st = .draining then 0 else
      (s.queues.filter (fun e => keyIsCircuit e.1 && circuitLoad e.1 == l && e.1 % 2 == 1)).foldl
        (fun n e => n + e.2.toks.length) 0) +
    ((s.streamsOf l).filter (fun e => !s.engIdle e.1 (eidStream e.2.1))).length +
    ((s.copiesOf l).filter (fun e => !s.engIdle e.1 (eidCopy e.2.1))).length +
    (s.remotes.filter (fun e => match e.2 with | some r => r.who == 7 && r.a == l | none => false)).length +
    (s.hostRq.filter (fun e => match e.2 with | some r => r.kind == 7 && r.a == l | none => false)).length +
    (x.steps.filter (fun e => decide (s.cycle + 1 < e.2.2))).length

/-- A word that carries a marker of a wave. -/
def LW.marks (n : Nat) (w : LW) : Bool := (w.kind == kMark || w.kind == kDrain) && w.pay.toNat == n

/-- A marker of a wave is still on its way in a load. -/
def State.markerLeft (s : State) (l n : Nat) (x : Load) : Bool :=
  x.elems.any (fun e =>
    let t := s.tile e.2.2
    t.chans.any (fun c => c.2.any (fun h => h.w.marks n)) || t.kept.any (fun c => c.2.any (fun h => h.w.marks n)) ||
      t.sendq.any (fun h => h.2.1.marks n)) ||
  x.bridges.any (fun b => b.w.marks n) ||
  s.borders.any (fun e => match e.2 with | some b => b.load == l && b.words.any (fun w => w.marks n) | none => false) ||
  s.queues.any (fun e => keyIsCircuit e.1 && circuitLoad e.1 == l && e.2.toks.any (fun t => t.w.marks n) &&
    (e.1 % 2 == 1 || (s.streamsOf l).any (fun y => y.2.2.key == e.1 && y.2.2.drain && y.2.2.st == 1)))

/-! ## Commit (12 R268) -/

/-- A feed thread has done what a commit or a drain waits for. -/
def State.feedStill (s : State) (k : Nat) : Bool :=
  let x := s.slot k
  (x.st == .stopped || x.st == .trapped) && x.settled && x.sync.isNone && s.drained k

/-- Segment n of a load may commit. -/
def State.commitReady (s : State) (l n : Nat) (x : Load) : Bool :=
  decide (n ≤ x.top) && decide (n ≤ x.cmark) &&
    (if x.st = .draining then (s.feeds l).all (fun e => s.feedStill e.1) else s.markedAll l n) &&
    s.cores.all (fun e => e.2.wcb.all (fun w => w.load != l || decide (n < w.wave))) &&
    (s.streamsOf l).all (fun e => decide (3 ≤ e.2.2.st) || decide (n ≤ e.2.2.marked) ||
      (x.st == .draining && n == x.top && (e.2.2.drained || (e.2.2.drain && e.2.2.st == 2)))) &&
    (x.st == .draining || (s.waitingOf l).all (fun m => m.kind == 3 || decide (n < m.wave))) &&
    x.elems.all (fun e => decide (n ≤ (s.tile e.2.2).wave)) && !s.markerLeft l n x

/-- The lines that a commit writes: those of a load's segments up to n. -/
def State.commitLines (s : State) (l n : Nat) : List Prov := s.prov.filter (fun p => p.load == l && decide (p.wave ≤ n))

/-- The bytes of a table that follow one another, each run with the offset of its first. -/
def byteRuns : Tab (Option Byte) → List (Nat × List Nat)
  | [] => []
  | (o, b) :: r =>
    let v := match b with | some x => x.toNat | none => 0
    match byteRuns r with
    | (p, l) :: q => if p = o + 1 then (o, v :: l) :: q else (o, [v]) :: (p, l) :: q
    | [] => [(o, [v])]

/-- A core's L1 copy of a line, if there is one, becomes what the line holds: its thread's stores have performed (06 R121). -/
def State.l1Fresh (s : State) (c line : Nat) : State :=
  match Tab.get none (s.core c).l1d line with
  | some x => s.setCore c { s.core c with l1d := Tab.set none (s.core c).l1d line (some { x with data := s.homeLine line }) }
  | none => s

/-- A provisional line becomes committed: its bytes perform at its home, of another package by a write each run of them (log
69), and poison that was written with them poisons the line. -/
def State.commitLine (s : State) (l : Nat) (p : Prov) : State :=
  if 2 ^ 58 ≤ p.line * 64 then
    (byteRuns p.bytes).foldl (fun s r =>
      (s.sendRemote 8 l 0 2 (p.line * 64 - 2 ^ 58 + r.1)
        ((r.2.length + (if p.pois then 256 else 0)) :: dwords (joinN 8 r.2) r.2.length)).1) s
  else
    let s := s.storeTab none p.line p.bytes
    p.cores.foldl (fun s c => s.l1Fresh c p.line) (if p.pois then s.setPoison p.line true else s)

/-- Provisional lines become committed at one instant. -/
def State.commitProv (s : State) (l n : Nat) : State :=
  let ps := s.commitLines l n
  let s := { s with prov := s.prov.filter (fun p => p.load != l || decide (n < p.wave)) }
  ps.foldl (fun s p => s.commitLine l p) s

/-- What a commit of segment n changes of its load: earlier snapshots go; a draining load's snapshot takes the contexts of
the threads that stopped before their MARK. -/
def State.committed (s : State) (l n : Nat) : State :=
  match s.load l with
  | none => s
  | some x =>
    let s := if x.st = .draining then s.snapUp l n (fun y => { y with slots := y.slots ++
        ((s.feeds l).filter (fun e => y.slots.all (fun z => z.1 != e.1))).map (fun e => (e.1, { e.2 with marks := n })) })
      else s
    match s.load l with
    | none => s
    | some y => s.setLoad l { y with wave := n, rbacks := 0, snaps := y.snaps.filter (fun z => decide (n ≤ z.wave)) }

/-- The last segment may commit: no feed thread is left, every wave has committed, and nothing of the load moves. -/
def State.lastReady (s : State) (l : Nat) (x : Load) : Bool :=
  x.st == .running && (s.feeds l).isEmpty && (s.streamsOf l).isEmpty && (s.copiesOf l).isEmpty &&
    (s.waitingOf l).isEmpty && x.wave == x.top && x.quiet && x.count == 0 &&
    s.cores.all (fun e => e.2.wcb.all (fun w => w.load != l)) && s.prov.any (fun p => p.load == l)

/-- The snapshot of a load as it stands, for its last segment. -/
def State.snapNow (s : State) (x : Load) (n : Nat) : Snap :=
  { Snap.empty n with
    tiles := x.elems.foldl (fun t e => Tab.set Tile.empty t (elemKey e.1 e.2.1) { s.tile e.2.2 with wave := n }) [],
    result := x.result }

/-- A segment of a protected load commits (12 R268; 13 R277). -/
def execSegmentCommit (l : Nat) (s : State) : DrainResult :=
  match s.load l with
  | none => .next s
  | some x =>
    if x.prot = false ∨ (x.st ≠ .running ∧ x.st ≠ .draining) ∨ s.testing l then .next s
    else
      let n := x.wave + 1
      let held := s.snoopList ((s.commitLines l (if s.lastReady l x then s.clock + n else n)).map (fun p => p.line)) true
      if s.commitReady l n x then
        if held.isEmpty then .next ((s.commitProv l n).committed l n) else .next (s.askAll held)
      else if s.lastReady l x then
        if held.isEmpty then
          let top := (s.prov.filter (fun p => p.load == l)).foldl (fun m p => max m p.wave) n
          let s := s.commitProv l top
          .next (s.setLoad l { x with wave := n, top := n, cmark := n, rbacks := 0, snaps := [s.snapNow x n] })
        else .next (s.askAll held)
      else .next s

/-! ## The save pool (13 R272) -/

/-- What an image of a load takes: for each cut its die, its facet slots and its spill units. -/
def Load.image (x : Load) : List (Nat × Nat × Nat) :=
  x.cuts.map (fun c => (c.die, c.w * c.h * (if x.prot then 3 else 1), c.qstore))

/-- The facet slots and spill units an image takes on a die. -/
def imageOn (img : List (Nat × Nat × Nat)) (d : Nat) : Nat × Nat :=
  (img.filter (fun e => e.1 == d)).foldl (fun r e => (r.1 + e.2.1, r.2 + e.2.2)) (0, 0)

/-- The pools can hold an image of a load. -/
def State.poolFits (s : State) (x : Load) : Bool :=
  (List.range 4).all (fun d =>
    let n := imageOn x.image d
    decide ((s.die d).poolFac + n.1 ≤ 576) && decide ((s.die d).poolSp + n.2 ≤ 4096) &&
      decide ((s.die d).poolBlk + (if d = x.die0 then 1 else 0) ≤ 192))

/-- The pools with an image reserved, its load block in a die. -/
def State.reserve (s : State) (img : List (Nat × Nat × Nat)) (die0 : Nat) : State :=
  (List.range 4).foldl (fun s d =>
    let n := imageOn img d
    let y := s.die d
    s.setDie d { y with poolFac := y.poolFac + n.1, poolSp := y.poolSp + n.2,
                        poolBlk := y.poolBlk + (if d = die0 then 1 else 0) }) s

/-- The load block, plus one, that an image whose cut 0 stands on a die takes: the first free one of its pool (log 83). -/
def State.freeBlk (s : State) (d : Nat) : Nat :=
  let used := s.loads.filterMap (fun e => e.2.bind (fun (y : Load) =>
    match y.img with | (d0, _) :: _ => if d0 = d then some y.blk else none | [] => none))
  ((List.range 192).find? (fun i => !used.contains (i + 1))).getD 0 + 1

/-- A load with its image reserved. -/
def State.withImage (s : State) (x : Load) : Load := { x with img := x.image, blk := s.freeBlk x.die0 }

/-- An image of a load is given back. -/
def State.unreserve (s : State) (l : Nat) : State :=
  match s.load l with
  | none => s
  | some x => match x.img with
    | [] => s
    | (d0, _) :: _ =>
      let s := (List.range 4).foldl (fun s d =>
        let n := imageOn x.img d
        let y := s.die d
        s.setDie d { y with poolFac := y.poolFac - n.1, poolSp := y.poolSp - n.2,
                            poolBlk := y.poolBlk - (if d = d0 then 1 else 0) }) s
      s.setLoad l { x with img := [], blk := 0 }

/-- What the header of a load block holds (13 R273). -/
def Load.header (l : Nat) (x : Load) : List Nat :=
  [l, x.asid.toNat, x.cuts.length] ++
    x.cuts.flatMap (fun c => [c.w, c.h] ++ c.need.flatMap (fun n => [n.1.toNat, n.2.toNat])) ++ [x.top]

/-- What a thread context, a stream's and a copy's record hold. -/
def Slot.context (x : Slot) : List Nat :=
  (List.range 32).map (fun i => (x.reg i).toNat) ++
    [x.pc.toNat, x.tstat.toNat, x.tcause.toNat, x.tepc.toNat, x.tval.toNat, x.tscratch.toNat, x.asid.toNat, x.ptbase.toNat,
     x.timecmp.toNat, x.qctl.toNat, x.decthr.toNat, x.blkthr.toNat, x.pltimeout.toNat, x.errinj.toNat, x.pend.length,
     b2n x.wasParked] ++
    x.binds.flatMap (fun e => match e.2 with | some b => [e.1, b.key] | none => [])
def Stream.record (x : Stream) : List Nat :=
  [x.cmd.blk.toNat, x.pos, x.consumed, x.fetched, x.dropped, x.st] ++ x.held.map (fun e => e.val)
def CopyEng.record (x : CopyEng) : List Nat := [x.cmd.blk.toNat, x.step, x.off, x.st]

/-- The parts of a load block: where each stands in it, its lines of 64 bytes, and what it holds (13 R273). -/
def State.blockParts (s : State) (l : Nat) (x : Load) : List (Nat × Nat × List Nat) :=
  let threads := (s.feeds l).map (fun e => e.2.context)
  let recs := (s.streamsOf l).map (fun e => e.2.2.record) ++ (s.copiesOf l).map (fun e => e.2.2.record)
  (0, 64, x.header l) :: (threads.zipIdx.map (fun e => (4096 + 512 * e.2, 8, e.1)) ++ recs.zipIdx.map (fun e => (0x81000 + 128 * e.2, 2, e.1)))

/-- Where the load block of a load stands, as a line of its package's memory: none where no pool has been reserved. -/
def State.blockLine (s : State) (x : Load) : Option Nat :=
  let b := offOf (s.die x.die0).savepool.toNat
  if b = 0 ∨ x.blk = 0 then none else some (lineOf (b + 3888 * 2 ^ 20 + (x.blk - 1) * 2 ^ 20))

/-- The lines of a part of a load block, with their bytes. -/
def partLines (p : Nat × Nat × List Nat) : List (Nat × Tab (Option Byte)) :=
  (List.range p.2.1).map (fun i => (p.1 / 64 + i,
    (List.range 64).map (fun o => (o, some (BitVec.ofNat 8 (Config.saved p.2.2 (64 * i + o)))))))

/-- A load's block as a save writes it. -/
def State.blockLines (s : State) (l : Nat) (x : Load) : List (Nat × Tab (Option Byte)) :=
  match s.blockLine x with
  | some b => ((s.blockParts l x).flatMap partLines).map (fun e => (b + e.1, e.2))
  | none => []

/-! ## Draining (13 R274) -/

/-- A feed thread stops at an instruction boundary, remembering that it was parked (06 Table 06-2). -/
def State.stopSlot (s : State) (k : Nat) : State :=
  let x := s.slot k
  match x.st with
  | .parked => s.setSlot k { x with st := .stopped, wasParked := true }
  | .ready | .blockedQueue | .blockedWait =>
    if s.interruptible k = false then s
    else
      let d := dieOfSlot k
      let s := s.setDie d { s.die d with walks := (s.die d).walks.filter (fun w => w.slot != k) }
      let s := s.setSlot k { x with st := .stopped, wait := .none, probed := false, fetched := none }
      match x.wait with
      | .queue b => match x.bind b with | some y => s.qSync y.key | none => s
      | _ => s
  | _ => s
def State.stopFeeds (s : State) (l : Nat) : State := (s.feeds l).foldl (fun s e => s.stopSlot e.1) s

/-- A load begins to drain: its threads stop, the waves that are open are carried through, and the drain markers enter. -/
def State.startDrain (s : State) (l why : Nat) (die : Option Nat) : State :=
  match s.load l with
  | none => s
  | some x =>
    let s := s.stopFeeds l
    let top := x.top + 1
    let s := (s.streamsOf l).foldl (fun s e => s.drainStream e.1 e.2.1 top e.2.2) s
    let s := if x.prot then
        ((List.range top).filter (fun w => decide (x.cmark < w))).foldl (fun s w => s.markCircuits l w kMark) s
      else s
    let s := s.markCircuits l top kDrain
    let s := if x.img.isEmpty then s.reserve x.image x.die0 else s
    match s.load l with
    | none => s
    | some y => s.setLoad l { y with st := .draining, top := top, cmark := top, why := why, redrain := false,
                                     cmdDie := match die with | some d => some d | none => x.cmdDie,
                                     img := if y.img.isEmpty then x.image else y.img,
                                     blk := if y.img.isEmpty then s.freeBlk x.die0 else y.blk, zero := false, quiet := false, count := 0 }

/-- Every part of a draining load stands still: its elements saved, its threads stopped, its streams and copies at rest, its
markers taken, and for a protected load the drain's wave committed. -/
def State.drained' (s : State) (l : Nat) (x : Load) : Bool :=
  (s.feeds l).all (fun e => s.feedStill e.1) &&
    x.elems.all (fun e => (s.tile e.2.2).saved || s.tile e.2.2 == Tile.empty) &&
    (s.streamsOf l).all (fun e => decide (e.2.2.st < 3) && s.engIdle e.1 (eidStream e.2.1) &&
      (e.2.2.drained && e.2.2.outw.isEmpty && e.2.2.held.isEmpty || (e.2.2.drain && e.2.2.st == 2))) &&
    (s.copiesOf l).all (fun e => decide (e.2.2.st < 3) && s.engIdle e.1 (eidCopy e.2.1)) &&
    !s.markerLeft l x.top x && (!x.prot || x.wave == x.top)

/-- The circuits of a load as its image keeps them: without markers. -/
def State.queuesOf (s : State) (l : Nat) : Tab Queue :=
  (s.queues.filter (fun e => keyIsCircuit e.1 && circuitLoad e.1 == l)).map (fun e =>
    (e.1, { e.2 with toks := e.2.toks.filter (fun t => t.w.kind != kMark && t.w.kind != kDrain) }))

/-- The image of a load that stands still joins the element records of its drain (13 R273). -/
def State.saveFeed (s : State) (l : Nat) (x : Load) : State :=
  let cs := s.cmdsOf l (fun _ => true)
  s.snapUp l x.top (fun y => { y with
    slots := (s.feeds l).map (fun e => (e.1, { e.2 with marks := x.top })),
    streams := (s.streamsOf l).map (fun e => (e.1 * 32 + e.2.1, { e.2.2 with drained := false, marked := if x.prot then x.top else e.2.2.marked })),
    copies := cs.1, cmds := cs.2, queues := s.queuesOf l, bridges := [], result := x.result })

/-- The command that a die was last given has ended, if it named this load: RESULT 3, and the load's state (13 R271). -/
def State.cmdEnds (s : State) (l : Nat) (st : Nat) : State :=
  match s.load l with
  | none => s
  | some x => match x.cmdDie with
    | none => s
    | some d =>
      let y := s.die d
      let s := if bits y.loadstat 48 16 = l ∧ bits y.loadstat 2 2 = 0 then
          s.setDie d { y with loadstat := field 48 16 l ||| field 2 2 3 ||| field 0 2 st } else s
      s.setLoad l { x with cmdDie := none }

/-- Parts whose lasting verdict waited for their facet leave the health map once it is free (12 R260; 05 R91). kind 0 a tile,
1 an entry of a vector tile. -/
def State.applyRetire (s : State) (d : Nat) : State :=
  let x := s.die d
  let held := fun (f : Nat) => s.loads.any (fun e => match e.2 with
    | some l => l.st.holds && l.cuts.any (fun c => c.holds d f)
    | none => false)
  let now := x.retire.filter (fun r => !held r.1)
  if now.isEmpty then s
  else s.setDie d { x with
    retire := x.retire.filter (fun r => held r.1),
    sick := now.foldl (fun t r => if r.2.1 = 0 then Tab.set 0 t r.1 (setBits (Tab.get 0 t r.1) r.2.2 1 1) else t) x.sick,
    lost := now.foldl (fun t r =>
      let e := (r.1, r.2.2 / 64, r.2.2 % 64)
      if r.2.1 = 1 ∧ !t.contains e then t ++ [e] else t) x.lost }
def State.retireAll (s : State) : State := (List.range 4).foldl (fun s d => s.applyRetire d) s

/-- The loads that threads of an image own are known by the threads' names in it (05 R100). -/
def State.ownersAway (s : State) (l : Nat) (ks : List Nat) : State :=
  { s with loads := s.loads.map (fun e => (e.1, e.2.map (fun (y : Load) =>
      { y with owner := y.owner.map (fun k => if ks.contains k then awayKey l k else k) }))) }

/-- The owners whose threads leave a load's image for slots again. -/
def State.ownersBack (s : State) (l : Nat) (dest : Nat → Nat) : State :=
  { s with loads := s.loads.map (fun e => (e.1, e.2.map (fun (y : Load) =>
      { y with owner := y.owner.map (fun k => if k / 4096 = 1 + l then dest (k % 4096) else k) }))) }

/-- A load that has been saved leaves the fabric: threads, engines and tiles are freed, its tokens stay in the image. -/
def State.leaveFabric (s : State) (l : Nat) (x : Load) : State :=
  let gone := (s.feeds l).map (fun e => e.1)
  let s := s.ownersAway l gone
  let s := gone.foldl (fun s k => s.freeSlot k) s
  let s := s.dropCmds l
  let s := { s with tiles := s.tiles.filter (fun e => !x.hasTile e.1),
                    queues := s.queues.map (fun (e : Nat × Queue) =>
                      if keyIsCircuit e.1 && circuitLoad e.1 == l then (e.1, { e.2 with toks := [] }) else e) }
  match s.load l with
  | none => s
  | some y => (s.setLoad l { y with
      st := if x.why = 3 then .restoring else .saved,
      pendAt := s.cycle, told := false, zero := false, quiet := false, count := 0 }).retireAll

/-- A draining load goes on: threads that could not stop yet do, a drain that a rollback broke off begins again, and once
all stands still and the load is quiescent its image is complete (13 R274, R277; 12 R256). -/
def execDrainSave (l : Nat) (s : State) : DrainResult :=
  match s.load l with
  | none => .next s
  | some x =>
    if s.tested' l then .next s
    else if x.st = .running ∧ x.redrain then
      if x.img.isEmpty ∧ s.poolFits x = false then .next s else .next (s.startDrain l x.why x.cmdDie)
    else if x.st ≠ .draining then .next s
    else
      let s := s.stopFeeds l
      match s.load l with
      | none => .next s
      | some x =>
        if s.drained' l x = false ∨ x.quiet = false ∨ x.count ≠ 0 then .next s
        else
          let ls := s.blockLines l x
          match ls.find? (fun e => s.mustSnoop e.1 true) with
          | some e => .next (s.askHost e.1)
          | none =>
            let s := ls.foldl (fun s e => (s.storeTab none e.1 e.2).tellHolders e.1) s
            let s := (s.saveFeed l x).leaveFabric l x
            .next (s.cmdEnds l 2)

end Sys2Proof.Machine
end

