-- ==== Sys2Proof/Machine/Sched.lean ====
section
/-! DEFINITION. Task queues (04 R67 to R69, R75, R79 to R81; 03 R56), thread starts (04 R76; 05 R98, R106), and the
scheduler's and allocator's reads (04 R73, R84). -/

namespace Sys2Proof.Machine

/-! ## Task queues -/

/-- What becomes of an append. -/
inductive Append where
  | taken
  | refused
  | full
  | wait
  deriving DecidableEq, Repr

/-- A queue takes no descriptor of the kind (R79; 03 R56): the device is not READY, the queue is disabled, or DEPCNT is not 0. -/
def State.refuses (s : State) (q : Nat) (ws : List Word) : Bool :=
  s.pkg.devState != 6 || !(s.tq q).en || bits (ws.headD 0) 32 8 != 0

/-- A descriptor comes to a queue (R67, R79; 03 R56): to queue storage, or to its spill area; a spill area outside local DRAM
counts as full (log 82, DESIGN CHOICE: R67 does not speak of such a base). -/
def State.enqueue (s : State) (q : Nat) (ws : List Word) : State × Append :=
  let x := s.tq q
  if s.refuses q ws then (s, .refused)
  else
    let took := fun (s : State) (x : TaskQ) => ((s.setTq q { x with accept := (x.accept + 1) % 65536 }).qElig q, Append.taken)
    if x.spCount = 0 ∧ x.stored.length < 256 ∧ s.taskPart (q / 1024) < 65536 then took s { x with stored := x.stored ++ [ws] }
    else if x.spCount ≥ x.spCap ∨ s.localDram x.spBase = false then (s, .full)
    else
      let a := x.spAt x.spCount
      if s.mustSnoop (lineOf (offOf a)) true then (s.askHost (lineOf (offOf a)), .wait)
      else took (s.storeDs none a ws) { x with spCount := x.spCount + 1 }

/-- A dropped append is counted (03 Table 03-4). -/
def State.countDrop (s : State) (q : Nat) : State := s.setTq q { s.tq q with drops := satAdd (s.tq q).drops 1 0xFFFF }

/-- An append of the host or of tqpush: none while it must wait for the host to give up a line. -/
def State.append (s : State) (q : Nat) (ws : List Word) : State × Bool :=
  match s.enqueue q ws with
  | (t, .taken) => (t, true)
  | (t, .wait) => (t, false)
  | (t, _) => (t.countDrop q, true)

/-- QERR and the fault-queue entry of descriptor kind (R84, R85; 07 Table 07-11). -/
def State.descRecord (s : State) (q code : Nat) (addr : Word) : State :=
  let x := s.tq q
  let s := s.setTq q { x with qerr := field 60 4 code ||| field 0 56 addr.toNat }
  s.faultEntry (q / 1024) 3 (bits x.qcfg 16 16) 0 0 0 [0, addr, 0, field 12 4 code ||| field 0 12 q, 0, 0, 0]

/-- A descriptor fault at the head of a queue stops the queue (R85). -/
def State.descFault (s : State) (q code : Nat) (addr : Word) : State :=
  let s := s.setTq q { s.tq q with stopped := true }
  (s.descRecord q code addr).qElig q

/-! ## Thread slots (05 R98, R106; 04 R76) -/

/-- A core's free slots as a thread of an address space counts them. -/
def State.freeSlots (s : State) (c asid : Nat) : Nat :=
  let mine := (List.range 16).map (fun t => s.slot (slotKey c t))
  if (s.core c).retired then 0
  else if (s.die (dieOfCore c)).sepcore ∧ mine.any (fun x => x.st != .free && x.asidN / 4096 != asid / 4096) then 0
  else (mine.filter (fun x => x.st == .free)).length

/-- The free thread slots of a die. -/
def State.freeThreads (s : State) (d asid : Nat) : Nat :=
  (List.range 64).foldl (fun n i => n + s.freeSlots (64 * d + i) asid) 0

/-- The core of a die with the most free slots, of equal ones the lowest. -/
def State.pickCore (s : State) (d asid : Nat) : Nat :=
  ((List.range 64).foldl (fun (r : Nat × Nat) i =>
    let n := s.freeSlots (64 * d + i) asid
    if n > r.2 then (64 * d + i, n) else r) (64 * d, 0)).1

/-- The lowest free slot of a core. -/
def State.lowSlot (s : State) (c : Nat) : Option Nat :=
  ((List.range 16).find? (fun t => (s.slot (slotKey c t)).st == .free)).map (fun t => slotKey c t)

/-- The slot that the next thread started on a die takes. -/
def State.pickSlot (s : State) (d asid : Nat) : Option Nat :=
  let c := s.pickCore d asid
  if s.freeSlots c asid = 0 then none else s.lowSlot c

/-- A thread starts in a slot: its control registers hold their reset values but for those its starting agent sets. acq
tells whether the start is an acquire that later loads see. -/
def State.startThread (s : State) (k mode : Nat) (asid ptb pc : Word) (regs : List (Nat × Word)) (acq : Bool)
    (task load cut thr : Nat) (feed : Bool) : State :=
  let x := s.slot k
  let y : Slot := { Slot.reset with
    st := .ready, tstat := field 0 2 mode, asid := asid, ptbase := ptb, pc := pc &&& ~~~3, seq := x.seq,
    acq := if acq then s.clock else x.acq, iacq := x.iacq, task := task, load := load, cut := cut, thr := thr,
    isFeed := feed }
  s.setSlot k (regs.foldl (fun y r => y.setReg r.1 r.2) y)

/-- The threads of a task or cut start, n more from thread i of count (R76): g1 is the argument, g2 the thread's index, g3
their count. -/
def State.startThreads (s : State) (d : Nat) (asid ptb pc arg : Word) (task load cut count : Nat) (feed : Bool) (i : Nat) :
    Nat → State
  | 0 => s
  | n + 1 =>
    match s.pickSlot d (bits asid 0 16) with
    | none => s
    | some k =>
      State.startThreads
        (s.startThread k 0 asid ptb pc [(1, arg), (2, BitVec.ofNat 64 i), (3, BitVec.ofNat 64 count)] true task load cut i feed)
        d asid ptb pc arg task load cut count feed (i + 1) n

/-! ## Reads of the scheduler and the allocator (04 R73, R84) -/

/-- Who reads: on which die, in which address space and mode, and under which key a line from afar comes. -/
structure Reader where
  die  : Nat
  asid : Nat
  ptb  : Word
  mode : Nat
  core : Nat
  eid  : Nat

/-- What a read gives: a value, a descriptor-fault code with its address, or nothing yet. -/
inductive Rd (α : Type) where
  | ok (a : α)
  | bad (code : Nat) (addr : Word)
  | wait

/-- What follows a read. -/
def Rd.andThen {α β : Type} (q : State × Rd α) (f : State → α → State × Rd β) : State × Rd β :=
  match q.2 with
  | .ok a => f q.1 a
  | .bad c a => (q.1, .bad c a)
  | .wait => (q.1, .wait)

/-- The translation of a reader's access: as R139 and R140 give it, without the bypass of R147. -/
def State.rdXlate (s : State) (r : Reader) (va : Word) (acc : Nat) : State × Rd (Nat × Nat) :=
  let q := if outside va then (s, XRes.fault 1 0)
    else match s.tlbGives (s.die r.die).tlb2 r.asid va.toNat acc r.mode with
      | some t => (s, XRes.ok t.1 t.2)
      | none => s.walkAs r.die (schedParty r.die) r.asid r.ptb va acc r.mode
  match q.2 with
  | .ok pa mt => (q.1, .ok (pa, mt))
  | .fault _ _ => (q.1, .bad 3 va)
  | .perm => (q.1, .bad 4 va)
  | _ => (q.1, .wait)

/-- The line that holds an address, as a number; cached says that it is read through the die's descriptor cache, which holds no
line of host memory (03 R52). -/
def State.rdLine (s : State) (r : Reader) (cached : Bool) (va : Word) : State × Rd Nat :=
  Rd.andThen (s.rdXlate r va 0) (fun s p =>
    match s.routeOf p.1 p.2 with
    | none => (s, .bad 4 va)
    | some (.ctl _) => (s, .bad 4 va)
    | some route =>
      let line := lineOf route.key
      let cached := cached && (match route with | .host _ => false | _ => true)
      let keep := fun (s : State) (v : Nat) =>
        if cached then s.setDie r.die { s.die r.die with
          dcache := Tab.set none (s.die r.die).dcache line (some (BitVec.ofNat 512 v)) } else s
      match (if cached then Tab.get none (s.die r.die).dcache line else none) with
      | some v => (s, .ok v.toNat)
      | none =>
        match route with
        | .dram off =>
          if s.stackRefused r.asid p.1 then (s, .bad 4 va)
          else if s.poisoned p.1 then (s, .bad 5 va)
          else if s.mustSnoop (lineOf off) false then (s.askHost (lineOf off), .wait)
          else (keep s (s.homeLine (lineOf off)).toNat, .ok (s.homeLine (lineOf off)).toNat)
        | _ =>
          match s.gotLine r.core r.eid line with
          | some e =>
            if e.bad then (s, .bad 4 va) else if e.pois then (s, .bad 5 va) else (keep s e.data, .ok e.data)
          | none => (s.askLine r.core r.eid route, .wait))

/-- n lines from an address on. -/
def State.rdLines (s : State) (r : Reader) (cached : Bool) (va : Word) : Nat → State × Rd (List Nat)
  | 0 => (s, .ok [])
  | n + 1 => Rd.andThen (s.rdLine r cached va) (fun s v =>
      Rd.andThen (State.rdLines s r cached (va + 64) n) (fun s l => (s, .ok (v :: l))))

/-- n doublewords from an address on. -/
def State.rdDs (s : State) (r : Reader) (cached : Bool) (va : Word) (n : Nat) : State × Rd (List Word) :=
  let o := va.toNat % 64 / 8
  Rd.andThen (s.rdLines r cached (va - BitVec.ofNat 64 (va.toNat % 64)) ((o + n + 7) / 8)) (fun s l =>
    (s, .ok (((l.flatMap (fun v => splitN 64 v 8)).drop o).take n |>.map (BitVec.ofNat 64))))

/-- What has come from afar for a reader is used up, unless it must still wait. -/
def Rd.settle {α : Type} (r : Reader) (q : State × Rd α) : State × Rd α :=
  match q.2 with
  | .wait => q
  | v => (q.1.forget r.core r.eid, v)

/-- The scheduler of a die, for a task of a queue. -/
def State.schedReader (s : State) (q : Nat) : Reader :=
  { die := q / 1024, asid := bits (s.tq q).qcfg 16 16, ptb := (s.tq q).qptb, mode := 0, core := 64 * (q / 1024), eid := 1024 }

end Sys2Proof.Machine
end

