-- ==== Sys2Proof/Machine/Place.lean ====
section
/-! DEFINITION. Cut-group headers, placement, grants, restores and compaction (05 R92 to R105; 08 R179, R180; 13 R279,
R280). -/

namespace Sys2Proof.Machine

/-! ## Headers (05 R92 to R95; 02 R40) -/

/-- What a cut-group header holds, with the words of each cut's configuration stream. -/
structure Header where
  hdr  : Word
  cuts : List Cut
  brg  : List Word
  bord : List Word
  cfg  : List (List Nat)

/-- A field of n bits at lo is the only part of a doubleword that may be set. -/
def onlyBits (w : Word) (l : List (Nat × Nat)) : Bool := (w &&& ~~~(l.foldl (fun m e => m ||| field e.1 e.2 (2 ^ e.2 - 1)) 0)) == 0

/-- The group block is well formed. -/
def groupOk (g : List Word) : Bool :=
  let d := fun i => g.getD i 0
  onlyBits (d 0) [(0, 4), (8, 8)] && onlyBits (d 1) [(4, 52)] && onlyBits (d 2) [(4, 52)] && onlyBits (d 3) [(0, 8)] &&
    d 4 == 0 && d 5 == 0 && d 6 == 0 && d 7 == 0 && decide (bits (d 0) 8 8 ≤ 64) && decide (bits (d 3) 0 8 ≤ 64) &&
    (bits (d 3) 0 8 == 0 || bit (d 0) 3)

/-- A cut entry is well formed. -/
def cutOk (c : List Word) : Bool :=
  let d := fun i => c.getD i 0
  onlyBits (d 0) [(32, 12), (12, 2), (4, 8)] && onlyBits (d 1) [(2, 54)] && onlyBits (d 2) [(6, 50)] &&
    onlyBits (d 3) [(32, 13), (0, 24)] && onlyBits (d 4) [(4, 52)] && d 5 == 0 && d 6 == 0 && d 7 == 0 &&
    decide (bits (d 0) 4 4 ≤ 11) && decide ((bits (d 0) 4 4 + 1) * (bits (d 0) 8 4 + 1) ≤ 64) &&
    bits (d 3) 0 24 != 0 && decide (bits (d 3) 32 13 ≤ 3072)

/-- The entries of a facet-need table. -/
def needOf : List Word → List (Word × Word)
  | u :: l :: r => (u, l) :: needOf r
  | _ => []

/-- A cut's record from its entry and its need table. -/
def cutOf (c : List Word) (need : List (Word × Word)) : Cut :=
  let d := fun i => c.getD i 0
  { w := bits (d 0) 4 4 + 1, h := bits (d 0) 8 4 + 1, nthr := bits (d 0) 32 12, entry := d 1,
    qstore := bits (d 3) 32 13, dieReq := bits (d 0) 12 2, need := need, die := 0, x0 := 0, y0 := 0 }

/-- Every LSNEED byte of a need entry is at most 64. -/
def needOk (e : Word × Word) : Bool := (List.range 8).all (fun i => decide (bits e.2 (8 * i) 8 ≤ 64))

/-- A cut, facet index and feed port name a used feed-port tile. -/
def portOk (cs : List Cut) (cut fac port : Nat) : Bool :=
  match cs[cut]? with
  | none => false
  | some c => decide (fac < c.w * c.h) && bit (c.useMask fac) (portTile port)

/-- A bridge entry is well formed (R94, R95). -/
def bridgeOk (cs : List Cut) (e : Word × Word) : Bool :=
  e.2 == 0 && bits e.1 36 28 == 0 && bits e.1 0 2 != bits e.1 11 2 && portOk cs (bits e.1 0 2) (bits e.1 5 6) (bits e.1 2 3) &&
    portOk cs (bits e.1 11 2) (bits e.1 16 6) (bits e.1 13 3)

/-- A border entry is well formed (02 R40; R95). -/
def borderOk (cs : List Cut) (self : Nat) (e : Word × Word) : Bool :=
  let inward := bit e.1 25
  e.2 == 0 && bits e.1 60 4 == 0 && portOk cs (bits e.1 0 2) (bits e.1 2 6) (bits e.1 8 3) &&
    (match cs[bits e.1 0 2]? with | some c => bits e.1 26 12 / 1024 == c.dieReq | none => false) &&
    (if inward then bits e.1 38 22 == 0 else bits e.1 20 5 == 0 && bits e.1 50 10 != self)

/-- Two border entries of one direction name one circuit. -/
def sameCirc (a b : Word) : Bool := bit a 25 == bit b 25 && bits a 26 12 == bits b 26 12

/-- No live load holds the circuits of a border table. -/
def State.circsFree (s : State) (ws : List Word) : Bool :=
  ws.all (fun w => (Tab.get none s.borders (borderKey (bits w 26 12) (bit w 25))).isNone)

/-- Pairs of a list, each earlier member first. -/
def pairs {α : Type} : List α → List (α × α)
  | [] => []
  | x :: r => r.map (fun y => (x, y)) ++ pairs r

/-- The bodies of a header: code 7 where R95 rejects it. -/
def headerOk (s : State) (mustdie : Bool) (cs : List Cut) (brg bord : List (Word × Word)) : Bool :=
  cs.all (fun c => c.need.all needOk) &&
    (!mustdie || (pairs cs).all (fun p => p.1.dieReq != p.2.dieReq)) && brg.all (bridgeOk cs) &&
    bord.all (borderOk cs s.pkg.pkgNo) && (pairs (bord.map (fun e => e.1))).all (fun p => !sameCirc p.1 p.2) &&
    s.circsFree (bord.map (fun e => e.1))

/-- The cut entries of a header from the one at an address on, with their need tables and configuration streams. -/
def State.rdCuts (s : State) (r : Reader) (hva va : Word) : Nat → State × Rd (List (Cut × List Nat))
  | 0 => (s, .ok [])
  | n + 1 => Rd.andThen (s.rdDs r true va 8) (fun s c =>
      if cutOk c = false then (s, .bad 7 hva)
      else
        let size := (bits (c.getD 0 0) 4 4 + 1) * (bits (c.getD 0 0) 8 4 + 1)
        let len := bits (c.getD 3 0) 0 24
        Rd.andThen (s.rdDs r true (c.getD 4 0) (2 * size)) (fun s need =>
          Rd.andThen (s.rdLines r false (c.getD 2 0) ((len + 15) / 16)) (fun s cfg =>
            Rd.andThen (State.rdCuts s r hva (va + 64) n) (fun s l =>
              (s, .ok ((cutOf c (needOf need), (cfg.flatMap (fun v => splitN 32 v 16)).take len) :: l))))))

/-- A table of 16-byte entries, n of them. -/
def State.rdTable (s : State) (r : Reader) (va : Word) (n : Nat) : State × Rd (List (Word × Word)) :=
  if n = 0 then (s, .ok []) else Rd.andThen (s.rdDs r true va (2 * n)) (fun s l => (s, .ok (needOf l)))

/-- A header, read and checked by R95. -/
def State.rdHeader (s : State) (r : Reader) (hva : Word) : State × Rd Header :=
  if hva.toNat % 64 ≠ 0 then (s, .bad 7 hva)
  else Rd.andThen (s.rdDs r true hva 8) (fun s g =>
    if groupOk g = false then (s, .bad 7 hva)
    else
      let d0 := g.getD 0 0
      Rd.andThen (s.rdCuts r hva (hva + 64) (bits d0 0 2 + 1)) (fun s cs =>
        Rd.andThen (s.rdTable r (g.getD 1 0) (bits d0 8 8)) (fun s brg =>
          Rd.andThen (s.rdTable r (g.getD 2 0) (bits (g.getD 3 0) 0 8)) (fun s bord =>
            let cuts := cs.map (fun e => e.1)
            if headerOk s (bit d0 3) cuts brg bord = false then (s, .bad 7 hva)
            else (s, .ok { hdr := d0, cuts := cuts, brg := brg.map (fun e => e.1), bord := bord.map (fun e => e.1),
                           cfg := cs.map (fun e => e.2) })))))

/-! ## Configuration of a cut (08 R178 to R180) -/

/-- The tiles that a cut uses, before any command. -/
def Cut.bare (c : Cut) : Tab Tile := c.elems.map (fun e => (e, { Tile.empty with kind := tileKind (e % 64) }))

/-- A cut's configuration stream applied to its tiles. -/
def Cut.configure (c : Cut) (ws : List Nat) : CfgBad ⊕ Tab Tile := runCfg 0 c.uses c.lsNeed false c.bare ws

/-- The first cut whose stream fails the check, from cut n on: its TVAL of cause 0x10. -/
def badConfig (n : Nat) : List (Cut × List Nat) → Option Word
  | [] => none
  | (c, ws) :: r => match c.configure ws with
    | .inl b => some (cutTval n b)
    | .inr _ => badConfig (n + 1) r

/-- The tiles of a cut take their place. -/
def State.putCut (s : State) (c : Cut) (ts : Tab Tile) : State := ts.foldl (fun s e => s.setTile (c.tileAt e.1) e.2) s

/-! ## Where a cut fits (05 R96 to R98) -/

/-- A rectangle of facets: die, column, row, width, height. -/
structure Rect where
  d : Nat
  x : Nat
  y : Nat
  w : Nat
  h : Nat

def Cut.rect (c : Cut) : Rect := { d := c.die, x := c.x0, y := c.y0, w := c.w, h := c.h }
def Rect.has (r : Rect) (d x y : Nat) : Bool :=
  r.d == d && decide (r.x ≤ x) && decide (x < r.x + r.w) && decide (r.y ≤ y) && decide (y < r.y + r.h)

/-- The rectangles that loads hold, but for the cuts listed by load and number. -/
def State.rects (s : State) (skip : List (Nat × Nat)) : List Rect :=
  s.loads.flatMap (fun e => match e.2 with
    | some l => if l.st.holds then
        (l.cuts.zipIdx.filter (fun c => !skip.contains (e.1, c.2))).map (fun c => c.1.rect)
      else []
    | none => [])

/-- A facet is free, with a list of rectangles held. -/
def facetFree (occ : List Rect) (d x y : Nat) : Bool := !occ.any (fun r => r.has d x y)

/-- HEALTHY of a facet, and LSCAP of its vector tile i (Table 05-1). -/
def State.health (s : State) (d f : Nat) : Word := ~~~(Tab.get 0 (s.die d).sick f)
def State.lsCap (s : State) (d f i : Nat) : Nat := 64 - min 64 ((s.die d).lost.filter (fun e => e.1 == f && e.2.1 == i)).length

/-- A facet covers a need entry (R96). -/
def State.covers (s : State) (occ : List Rect) (d x y : Nat) (need : Word × Word) : Bool :=
  facetFree occ d x y && (need.1 &&& ~~~(s.health d (12 * y + x))) == 0 &&
    (List.range 8).all (fun i => decide (bits need.2 (8 * i) 8 ≤ s.lsCap d (12 * y + x) i))

/-- fits of R97. -/
def State.fits (s : State) (occ : List Rect) (c : Cut) (d x0 y0 : Nat) : Bool :=
  decide (x0 + c.w ≤ 12) && decide (y0 + c.h ≤ 16) &&
    (List.range (c.w * c.h)).all (fun i => s.covers occ d (x0 + i % c.w) (y0 + i / c.w) (c.need.getD i (0, 0)))

/-- score of R97. -/
def score (occ : List Rect) (d x0 y0 w h : Nat) : Nat :=
  let side := fun (n : Nat) (at_ : Nat → Option (Nat × Nat)) =>
    ((List.range n).filter (fun i => match at_ i with | some p => facetFree occ d p.1 p.2 | none => false)).length
  side w (fun i => if y0 = 0 then none else some (x0 + i, y0 - 1)) +
    side w (fun i => if y0 + h ≥ 16 then none else some (x0 + i, y0 + h)) +
    side h (fun i => if x0 = 0 then none else some (x0 - 1, y0 + i)) +
    side h (fun i => if x0 + w ≥ 12 then none else some (x0 + w, y0 + i))

/-- bestfit of R97: the score, column and row. -/
def State.bestfit (s : State) (occ : List Rect) (c : Cut) (d : Nat) : Option (Nat × Nat × Nat) :=
  (List.range 192).foldl (fun (b : Option (Nat × Nat × Nat)) i =>
    let x0 := i % 12
    let y0 := i / 12
    if s.fits occ c d x0 y0 then
      let v := score occ d x0 y0 c.w c.h
      match b with
      | some p => if v < p.1 then some (v, x0, y0) else b
      | none => some (v, x0, y0)
    else b) none

/-- The injective maps from n cuts to the dies not yet used, in lexicographic order. -/
def dieMaps (used : List Nat) : Nat → List (List Nat)
  | 0 => [[]]
  | n + 1 => ((List.range 4).filter (fun d => !used.contains d)).flatMap (fun d => (dieMaps (used ++ [d]) n).map (fun l => d :: l))

/-- The places of the cuts of a list on the dies of a map with their total score; thrs gives the slots each needs. -/
def State.placeAll (s : State) (occ : List Rect) (asid : Nat) (mustdie : Bool) :
    List (Cut × Nat) → List Nat → Option (Nat × List (Nat × Nat × Nat))
  | (c, n) :: r, d :: ds =>
    if mustdie ∧ c.dieReq ≠ d then none
    else if s.freeThreads d asid < n ∨ s.freeCircuit d / 4096 < c.qstore then none
    else match s.bestfit occ c d with
    | none => none
    | some p => match State.placeAll s occ asid mustdie r ds with
      | none => none
      | some q => some (p.1 + q.1, (d, p.2.1, p.2.2) :: q.2)
  | _, _ => some (0, [])

/-- gang of R98. -/
def State.gang (s : State) (occ : List Rect) (asid : Nat) (mustdie : Bool) (cs : List (Cut × Nat)) :
    Option (List (Nat × Nat × Nat)) :=
  ((dieMaps [] cs.length).foldl (fun (b : Option (Nat × List (Nat × Nat × Nat))) m =>
    match s.placeAll occ asid mustdie cs m, b with
    | some q, some p => if q.1 < p.1 then some q else b
    | some q, none => some q
    | none, b => b) none).map (fun q => q.2)

/-- The cuts of a load in their places. -/
def Load.at_ (x : Load) (pos : List (Nat × Nat × Nat)) : Load :=
  { x with cuts := (x.cuts.zip pos).map (fun e => { e.1 with die := e.2.1, x0 := e.2.2.1, y0 := e.2.2.2 }) }

/-- The reason mask of R104: facets, thread slots, queue storage, each for which no map of dies suffices. -/
def State.blockMask (s : State) (asid : Nat) (mustdie : Bool) (cs : List (Cut × Nat)) : Nat :=
  let occ := s.rects []
  let maps := (dieMaps [] cs.length).filter (fun m => !mustdie || (cs.zip m).all (fun e => e.1.1.dieReq == e.2))
  let none_ := fun (f : Cut × Nat → Nat → Bool) => !maps.any (fun m => (cs.zip m).all (fun e => f e.1 e.2))
  b2n (none_ (fun c d => (s.bestfit occ c.1 d).isSome)) + 2 * b2n (none_ (fun c d => decide (c.2 ≤ s.freeThreads d asid))) +
    4 * b2n (none_ (fun c d => decide (c.1.qstore ≤ s.freeCircuit d / 4096)))

/-! ## Grants (05 R100; 02 R40; 08 R180) -/

/-- The lowest load identifier that no live load has (R100: any that is unique). -/
def State.newId (s : State) : Nat :=
  ((List.range 65535).find? (fun i => (s.load (i + 1)).isNone)).getD 0 + 1

/-- The border circuits of a load are claimed; packets that came before are held for it (02 R40). -/
def State.claim (s : State) (l : Nat) (ws : List Word) : State :=
  ws.foldl (fun s w =>
    let circ := bits w 26 12
    let inward := bit w 25
    let early := if inward then s.early.filter (fun e => e.1 == circ) else []
    { s with borders := Tab.set none s.borders (borderKey circ inward)
               (some { load := l, entry := w, seq := 0, open_ := [], held := early.map (fun e => e.2), words := [] }),
             early := if inward then s.early.filter (fun e => e.1 != circ) else s.early }) s

/-- A placed load is configured and its feed threads start: entry, argument and thread count as R71 and R387 give them. A
rollback to wave 0 restarts them so (12 R269). -/
def State.grant (s : State) (l : Nat) (x : Load) (cfg : List (List Nat)) : State :=
  let s := s.setLoad l { x with st := .configured, granted := s.net + 1, gcycle := s.cycle, cfg := [], told := false }
  let s := (x.cuts.zip cfg).foldl (fun s (e : Cut × List Nat) => match e.1.configure e.2 with
    | .inr ts => s.putCut e.1 ts
    | .inl _ => s) s
  let s := s.claim l x.bord
  let k0 := match x.cuts.head? with | some c => s.pickSlot c.die (bits x.asid 0 16) | none => none
  let s := x.cuts.zipIdx.foldl (fun s (c : Cut × Nat) =>
    s.startThreads c.1.die x.asid x.ptb c.1.entry x.arg x.task l c.2 c.1.nthr true 0 c.1.nthr) s
  let s := if x.prot then s.snapUp l 0 (fun y => { y with slots := s.feeds l }) else s
  if x.byPlace then s
  else match s.load l with
  | some y => s.setLoad l { y with owner := k0 }
  | none => s

/-- A load from its header. -/
def Header.load (h : Header) (asid ptb cgptr entry arg : Word) (nthr : Nat) (byPlace : Bool) (owner : Option Nat)
    (task q prio now : Nat) : Load :=
  let cuts := h.cuts.map (fun c => { c with
    nthr := if byPlace then c.nthr else if c.nthr = 0 then nthr else c.nthr,
    entry := if byPlace then c.entry else if c.entry = 0 then entry else c.entry })
  { st := .pending, asid := asid, ptb := ptb, prot := bit h.hdr 2, mustdie := bit h.hdr 3, hdr := h.hdr, cuts := cuts,
    brg := h.brg, bord := h.bord, byPlace := byPlace, owner := owner, task := task, q := q, prio := prio, entry := entry,
    arg := arg, cgptr := cgptr, granted := 0, gcycle := 0, pendAt := now, told := false, pltime := 0, arms := [],
    bridges := [], result := none, wave := 0, top := 0, cmark := 0, rbacks := 0, snaps := [], reports := [], seen := [],
    zero := false, count := 0, cmdDie := none, why := 0, redrain := false, retire := false,
    quiet := false, cfg := h.cfg, img := [] }

/-- Each cut of a load with the thread slots it needs: those of a saved load's live threads, else its feed threads. -/
def Load.wants (x : Load) : List (Cut × Nat) :=
  x.cuts.zipIdx.map (fun c =>
    (c.1, match x.snaps.find? (fun z => z.wave == x.top) with
      | some z => if x.st = .restoring ∨ x.st = .saved then (z.slots.filter (fun e => e.2.cut == c.2)).length else c.1.nthr
      | none => c.1.nthr))

/-! ## Restore (13 R279, R280) -/

/-- The slots that the threads of an image take, as R98 chooses them, and the state with them held. -/
def State.seatAll (s : State) (x : Load) : List (Nat × Slot) → State × List (Nat × Nat)
  | [] => (s, [])
  | e :: r =>
    let d := match x.cuts[e.2.cut]? with | some c => c.die | none => dieOfSlot e.1
    let k := (s.pickSlot d e.2.asidN).getD e.1
    let q := State.seatAll (s.setSlot k { s.slot k with st := .stopped, asid := e.2.asid }) x r
    (q.1, (e.1, k) :: q.2)

/-- A load whose cuts have their places again gets its records, queues, threads and engines back, and waits for its resume
token. -/
def State.putBack (s : State) (l : Nat) (x : Load) : State :=
  match x.snaps.find? (fun z => z.wave == x.top) with
  | none => s
  | some sn =>
    let s := s.setLoad l { x with st := .placed, zero := false, quiet := false, count := 0, told := false }
    let s := s.putTiles x sn
    let order := (List.range 4).flatMap (fun c => sn.slots.filter (fun e => e.2.cut == c))
    let q := s.seatAll x order
    let dest := fun (k : Nat) => match q.2.find? (fun e => e.1 == k) with | some e => e.2 | none => k
    let who := fun (w : Nat) => if w < 2 ^ 20 then bindKey (dest (w / 16)) (w % 16) else w
    let s := sn.queues.foldl (fun s e => s.setQueue e.1 { s.queue e.1 with
      toks := e.2.toks.map (fun t => { t with set := t.set.map who }) }) q.1
    let s := s.putFeed sn dest (fun m c => if m.by_ < 4096 ∧ q.2.any (fun e => e.1 == m.by_) then dest m.by_ / 16 else c)
      (fun y => { y with st := if y.st = .trapped then .trapped else .stopped, wait := .none, fetched := none, binds := [] })
    let s := s.ownersBack l dest
    match s.load l with
    | none => s
    | some y => s.setLoad l { y with
        result := sn.result, snaps := if y.prot then y.snaps else [] }

/-! ## Compaction (05 R102, R103) -/

/-- The cuts that a compaction may move, in its order: load, cut number, cut. -/
def State.movable (s : State) (p : Nat) : List (Nat × Nat × Cut) :=
  let loads := s.loads.filterMap (fun e => match e.2 with
    | some x => if x.st = .running ∧ x.prio < p ∧ s.testing e.1 = false ∧ s.poolFits x then some (e.1, x) else none
    | none => none)
  let all := loads.flatMap (fun e => e.2.cuts.zipIdx.map (fun c => (e.2.prio, e.2.granted, e.1, c.2, c.1)))
  let before := fun (a b : Nat × Nat × Nat × Nat × Cut) =>
    if a.1 ≠ b.1 then decide (a.1 < b.1)
    else if a.2.1 ≠ b.2.1 then decide (b.2.1 < a.2.1)
    else if a.2.2.2.2.die ≠ b.2.2.2.2.die then decide (a.2.2.2.2.die < b.2.2.2.2.die)
    else if a.2.2.2.1 ≠ b.2.2.2.1 then decide (a.2.2.2.1 < b.2.2.2.1)
    else decide (a.2.2.1 < b.2.2.1)
  (all.foldl (fun l a => l.takeWhile (fun b => before b a) ++ a :: l.dropWhile (fun b => before b a)) []).map
    (fun a => (a.2.2.1, a.2.2.2.1, a.2.2.2.2))

/-- The cuts of a list placed again one after another by bestfit, each on its own die. -/
def State.rePlace (s : State) (occ : List Rect) : List (Nat × Nat × Cut) → Option (List (Nat × Nat × Nat × Nat))
  | [] => some []
  | (l, n, c) :: r => match s.bestfit occ c c.die with
    | none => none
    | some p => (State.rePlace s (occ ++ [{ d := c.die, x := p.2.1, y := p.2.2, w := c.w, h := c.h }]) r).map
        (fun m => (l, n, p.2.1, p.2.2) :: m)

/-- The search of R102: the place of the pending load and of the cuts that move for it. -/
def State.findCompaction (s : State) (asid : Nat) (mustdie : Bool) (cs : List (Cut × Nat)) (got : List (Nat × Nat × Cut)) :
    List (Nat × Nat × Cut) → Option (List (Nat × Nat × Nat) × List (Nat × Nat × Nat × Nat))
  | [] => none
  | v :: r =>
    if got.length = 4 then none
    else
      let got := got ++ [v]
      let occ := s.rects (got.map (fun e => (e.1, e.2.1)))
      match s.gang occ asid mustdie cs with
      | none => State.findCompaction s asid mustdie cs got r
      | some pos =>
        let mine := (cs.zip pos).map (fun e => ({ d := e.2.1, x := e.2.2.1, y := e.2.2.2, w := e.1.1.w, h := e.1.1.h } : Rect))
        match s.rePlace (occ ++ mine) got with
        | none => State.findCompaction s asid mustdie cs got r
        | some moves => some (pos, moves)

/-- A compaction begins for the pending load of a queue, or for a pending load: the loads that must make room drain. -/
def State.compactFor (s : State) (d q l asid p : Nat) (mustdie : Bool) (cs : List (Cut × Nat)) : State :=
  if (s.die d).compen = false ∨ s.compact.isSome then s
  else match s.findCompaction asid mustdie cs [] (s.movable p) with
  | none => s
  | some (pos, moves) =>
    let ls := (moves.map (fun m => m.1)).eraseDups
    let fit := ls.foldl (fun (r : State × Bool) i => match r.1.load i with
      | some x => (r.1.reserve x.image x.die0, r.2 && r.1.poolFits x)
      | none => r) (s, true)
    if fit.2 = false then s
    else
      let s := { s with compact := some { q := q, load := l, pos := pos, moves := moves } }
      ls.foldl (fun s i => s.startDrain i 2 none) s

/-- Every load that a compaction pre-empts has left the fabric, or is no longer draining. -/
def State.compacted (s : State) (c : Compact) : Bool :=
  c.moves.all (fun m => match s.load m.1 with | some x => x.st != .draining && !x.redrain | none => true)

/-- The loads that a compaction pre-empted come back: in the places it chose while they still fit, else they wait. -/
def State.endCompaction (s : State) (c : Compact) : State :=
  let s := { s with compact := none }
  ((c.moves.map (fun m => m.1)).eraseDups).foldl (fun s l => match s.load l with
    | none => s
    | some x =>
      if x.st ≠ .saved ∨ x.why ≠ 2 then s
      else
        let cuts := x.cuts.zipIdx.map (fun e => match c.moves.find? (fun m => m.1 == l && m.2.1 == e.2) with
          | some m => { e.1 with x0 := m.2.2.1, y0 := m.2.2.2 }
          | none => e.1)
        let y := { x with st := .restoring, cuts := cuts, pendAt := s.cycle, told := false }
        let occ := s.rects []
        if cuts.all (fun c => s.fits occ c c.die c.x0 c.y0) && y.wants.all (fun c =>
            decide (c.2 ≤ s.freeThreads c.1.die (bits x.asid 0 16)) && decide (c.1.qstore ≤ s.freeCircuit c.1.die / 4096))
        then s.putBack l y else s.setLoad l y) s

/-! ## Placing a load that is pending or to be restored (05 R99, R104, R105) -/

/-- Whether a load was placed now, must wait, or must wait for a line to come. -/
inductive Placed where
  | yes
  | no
  deriving DecidableEq, Repr

/-- The places for a load: those a compaction made for it, once all have moved, or those that gang finds; none while another
compaction runs. -/
def State.placesFor (s : State) (q l asid : Nat) (mustdie : Bool) (cs : List (Cut × Nat)) : Option (List (Nat × Nat × Nat)) :=
  match s.compact with
  | none => s.gang (s.rects []) asid mustdie cs
  | some c =>
    if c.q = q ∧ c.load = l ∧ s.compacted c then
      let occ := s.rects []
      if (cs.zip c.pos).all (fun e => s.fits occ e.1.1 e.2.1 e.2.2.1 e.2.2.2 && decide (e.1.2 ≤ s.freeThreads e.2.1 asid) &&
          decide (e.1.1.qstore ≤ s.freeCircuit e.2.1 / 4096)) then some c.pos else none
    else none

/-- After the load of a compaction is placed, or has gone, what it moved comes back. -/
def State.afterCompaction (s : State) (q l : Nat) : State :=
  match s.compact with
  | some c => if c.q = q ∧ c.load = l ∧ s.compacted c then s.endCompaction c else s
  | none => s

/-- A load that holds an identifier and waits for facets is tried: one placed by place, or one to be restored. -/
def State.tryLoad (s : State) (d l : Nat) (x : Load) : State × Placed :=
  let asid := bits x.asid 0 16
  if x.st = .pending ∧ s.circsFree x.bord = false then (s, .no)
  else match s.placesFor 4096 l asid x.mustdie x.wants with
  | some pos =>
    let y := x.at_ pos
    let s := if x.st = .pending then s.grant l { y with arg := BitVec.ofNat 64 l } x.cfg else s.putBack l y
    (s.afterCompaction 4096 l, .yes)
  | none => ((s.compactFor d 4096 l asid x.prio x.mustdie x.wants).afterCompaction 4096 l, .no)

end Sys2Proof.Machine
end

