-- ==== Sys2Proof/Machine/Tasks.lean ====
section
/-! DEFINITION. The task scheduler (04): appends, the pick, completion, releases, and queues that go on. -/

namespace Sys2Proof.Machine

/-- What every meaning answers. -/
abbrev TaskResult := Host.Outcome State Fault Refusal

/-! ## Appends (03 R56; 04 R79; 18 R393) -/

/-- The host appends a descriptor (03 R56): a write of exactly 64 bytes to the append slot. -/
def execHostAppend (q : Nat) (desc : List Nat) (s : State) : TaskResult :=
  if q ≥ 4096 ∨ desc.length ≠ 8 ∨ s.pkg.powered = false then .next s
  else .next (s.append q (desc.map (BitVec.ofNat 64))).1

/-- tqpush (18 R393): a release of system scope, and then an append as the host makes one. -/
def execTqpush (a b : Nat) (s : State) : TaskResult :=
  let q := bits (s.rg b) 0 12
  .next (s.run [a, b] [(5, 0), (4, 1), (6, 1)]
    (if bits (s.rg b) 12 52 ≠ 0 then s.raise 0x11 (descTval 0x04 0)
     else if s.me.asidN ≠ bits (s.tq q).qcfg 16 16 then s.raise 0x07 (s.rg a)
     else if s.allPerformed s.cur true = false then s.forceAll s.cur
     else s.readBlock (s.rg a) (fun s ws =>
       let r := s.append q ws
       if r.2 then r.1.advance else r.1)))

/-! ## The check of a head (R84) -/

/-- A list ordered by a number, lowest first; of equals the earlier one first. -/
def sortBy {α : Type} (f : α → Nat) (l : List α) : List α :=
  l.foldl (fun r a => r.takeWhile (fun b => decide (f b ≤ f a)) ++ a :: r.dropWhile (fun b => decide (f b ≤ f a))) []

/-- KIND, NTHR and SUCCN of a descriptor (Table 04-7). -/
def taskKind (ws : List Word) : Nat := bits (ws.getD 0 0) 0 2
def nthrOf (ws : List Word) : Nat := bits (ws.getD 0 0) 20 12
def succN (ws : List Word) : Nat := bits (ws.getD 6 0) 0 6
def cgptrOf (ws : List Word) : Word := ws.getD 1 0
def entryOf (ws : List Word) : Word := ws.getD 2 0
def sigAddr (ws : List Word) : Word := ws.getD 4 0
def succPtr (ws : List Word) : Word := field 6 50 (bits (ws.getD 6 0) 6 50)
def resAddr (ws : List Word) : Word := ws.getD 7 0
def sigEn (ws : List Word) : Bool := bit (ws.getD 0 0) 3

/-- Code 0x1 (Table 04-8). -/
def descOk (ws : List Word) : Bool :=
  let d := fun i => ws.getD i 0
  let k := taskKind ws
  onlyBits (d 0) [(48, 16), (32, 8), (20, 12), (8, 11), (0, 5)] && bits (d 1) 56 8 == 0 && onlyBits (d 2) [(2, 54)] &&
    onlyBits (d 4) [(3, 53)] && bits (d 6) 56 8 == 0 && onlyBits (d 7) [(3, 53)] &&
    (if k ≥ 2 then nthrOf ws == 0 && d 1 == 0 && d 2 == 0
     else nthrOf ws != 0 && decide (nthrOf ws ≤ 1024) && (k == 1 || d 1 == 0))

/-- A successor entry is well formed (R72; code 0x6): that reserved bits of its address doubleword are judged so too is a choice
(log 82, DESIGN CHOICE). -/
def succOk (e : Word × Word) : Bool := bits e.1 56 8 == 0 && bits e.1 0 6 == 0 && bits e.2 12 52 == 0

/-- An address that a task uses translates for an access. -/
def State.tested (s : State) (r : Reader) (l : List (Bool × Word × Nat)) : State × Rd Unit :=
  match l with
  | [] => (s, .ok ())
  | (used, va, acc) :: t => if used then Rd.andThen (s.rdXlate r va acc) (fun s _ => State.tested s r t) else State.tested s r t

/-- The entries of a successor list are well formed; its first bad one faults with its address. -/
def firstBadSucc (va : Word) : List (Word × Word) → Option Word
  | [] => none
  | e :: r => if succOk e then firstBadSucc (va + 16) r else some va

/-- A task's successor list, as it is read now. -/
def State.rdSuccs (s : State) (r : Reader) (ws : List Word) : State × Rd (List (Word × Word)) :=
  Rd.andThen (s.rdTable r (succPtr ws) (succN ws)) (fun s l =>
    match firstBadSucc (succPtr ws) l with
    | some va => (s, .bad 6 va)
    | none => (s, .ok l))

/-- check(t) of R84: what the task needs of it, its load's header and the value a branch node read. -/
def State.checkTask (s : State) (q : Nat) (r : Reader) (ws : List Word) : State × Rd (Option Header × Nat) :=
  let k := taskKind ws
  if descOk ws = false then (s, .bad 1 0)
  else if bits (ws.getD 0 0) 48 16 ≠ bits (s.tq q).qcfg 16 16 then (s, .bad 2 0)
  else Rd.andThen (s.tested r [(k == 1, cgptrOf ws, 0), (k == 2, resAddr ws, 0), (k == 1 && resAddr ws != 0, resAddr ws, 1),
      (sigEn ws, sigAddr ws, 1), (succN ws != 0, succPtr ws, 0), (k == 0, entryOf ws, 3)]) (fun s _ =>
    Rd.andThen (if k = 1 then Rd.andThen (s.rdHeader r (cgptrOf ws)) (fun s h => (s, .ok (some h))) else (s, .ok none)) (fun s h =>
      let own := match h with | some h => h.cuts.any (fun c => c.entry == 0) | none => false
      Rd.andThen (s.tested r [(own, entryOf ws, 3)]) (fun s _ =>
        Rd.andThen (s.rdSuccs r ws) (fun s _ =>
          if k = 2 then Rd.andThen (s.rdDs r false (resAddr ws) 1) (fun s l => (s, .ok (h, (l.headD 0).toNat)))
          else (s, .ok (h, 0))))))

/-! ## The pick (R81, R82) -/

/-- One more than the highest effective priority of a pending load, 0 with none. -/
def State.blockPrio (s : State) : Nat :=
  let qs := s.tqs.filterMap (fun e => if e.2.pend then some (s.effPrio e.1 + 1) else none)
  let ls := s.loads.filterMap (fun e => match e.2 with
    | some x => if x.st = .pending ∨ x.st = .restoring then some (x.prio + 1) else none
    | none => none)
  (qs ++ ls).foldl max 0

/-- The head of a queue starts (R76): it leaves the queue, and its wait begins anew. The address space and page table that the
queue has now are those of its completion actions too (log 85, DESIGN CHOICE: R71 does not say of which moment they are). -/
def State.startTask (s : State) (q : Nat) (ws : List Word) (load next : Nat) : State :=
  let x := s.tq q
  let t : Task := { q := q, desc := ws, asid := x.asid, ptb := x.qptb, load := load, start := s.cycle,
                    phase := if taskKind ws ≥ 2 then 1 else 0, next := next, fault := false }
  let s := { s with nTask := s.nTask + 1 }.setTask s.nTask (some t)
  (s.setTq q { x.popHead with started := (x.started + 1) % 65536, pend := false, eligAt := 0, told := false }).qElig q

/-- The head of a queue is a pending load. -/
def State.setPend (s : State) (q : Nat) : State :=
  let x := s.tq q
  if x.pend then s else s.setTq q { x with pend := true, pendAt := s.cycle, told := false }

/-- A queue's head is tried: whether it started. -/
def State.tryHead (s : State) (q e : Nat) (ws : List Word) : State × Bool :=
  let d := q / 1024
  let r := s.schedReader q
  let n := s.nTask
  match Rd.settle r (s.checkTask q r ws) with
  | (s, .wait) => (s, false)
  | (s, .bad c a) => (s.descFault q c a, false)
  | (s, .ok (some h, _)) =>
    let l := s.newId
    let x := h.load (s.tq q).asid (s.tq q).qptb (cgptrOf ws) (entryOf ws) (ws.getD 3 0) (nthrOf ws) false none n q e s.cycle
    match s.placesFor q 0 r.asid x.mustdie x.wants with
    | some pos =>
      (match badConfig 0 (x.cuts.zip x.cfg) with
       | some _ => ((s.descFault q 7 (cgptrOf ws)).afterCompaction q 0, false)
       | none => ((((s.startTask q ws l 0).grant l (x.at_ pos) x.cfg).afterCompaction q 0), true))
    | none => ((((s.setPend q).compactFor d q 0 r.asid e x.mustdie x.wants).afterCompaction q 0), false)
  | (s, .ok (none, v)) =>
    if taskKind ws = 0 then
      if s.freeThreads d r.asid < nthrOf ws then (s, false)
      else
        let x := s.tq q
        ((s.startTask q ws 0 0).startThreads d x.asid x.qptb (entryOf ws) (ws.getD 3 0) n 0 0 (nthrOf ws) false 0 (nthrOf ws), true)
    else (s.startTask q ws 0 (if taskKind ws = 2 then min v (succN ws - 1) else 0), true)

/-- The candidates of a pick, in order. -/
def State.candidates (s : State) (d : Nat) : List Nat :=
  let qs := (s.tqs.map (fun e => e.1)).filter (fun q => q / 1024 == d && s.eligible q)
  sortBy (fun q =>
    let e := s.effPrio q
    (7 - e) * 1024 + (q % 1024 + 1024 - Tab.get 0 (s.die d).rrptr e) % 1024) qs

/-- The heads that stand in lines the host holds modified are asked for. -/
def State.askHeads (s : State) (d : Nat) : State :=
  (s.tqs.map (fun e => e.1)).foldl (fun s q => if q / 1024 = d then
    (match s.headHeld q with | some line => s.askHost line | none => s) else s) s

/-- The candidates are tried until one starts. -/
def State.pickFrom (s : State) (d : Nat) : List Nat → State
  | [] => s
  | q :: r =>
    match s.headOf q with
    | none => State.pickFrom s d r
    | some ws =>
      let e := s.effPrio q
      if taskKind ws = 1 ∧ e + 1 < s.blockPrio then State.pickFrom s d r
      else
        let t := s.tryHead q e ws
        if t.2 then t.1.setDie d { t.1.die d with rrptr := Tab.set 0 (t.1.die d).rrptr e ((q % 1024 + 1) % 1024) }
        else State.pickFrom t.1 d r

/-- The die whose scheduler share places a load that holds an identifier. -/
def Load.home (x : Load) : Nat :=
  if x.byPlace then (match x.owner with | some k => dieOfSlot (k % 4096) | none => 0) else x.q / 1024

/-- The loads that wait for facets on a die: the highest priority first, then in the order of their identifiers. -/
def State.waiting (s : State) (d : Nat) : List (Nat × Load) :=
  sortBy (fun e => 7 - min 7 e.2.prio) (s.loads.filterMap (fun e => match e.2 with
    | some x => if (x.st = .pending ∨ x.st = .restoring) ∧ x.home = d then some (e.1, x) else none
    | none => none))

/-- The waiting loads of a die are tried until one is placed. -/
def State.placeFrom (s : State) (d : Nat) : List (Nat × Load) → State × Bool
  | [] => (s, false)
  | (l, x) :: r =>
    if x.prio + 1 < s.blockPrio then State.placeFrom s d r
    else
      let t := s.tryLoad d l x
      if t.2 = .yes then (t.1, true) else State.placeFrom t.1 d r

/-- A compaction whose pending load is no longer pending ends. -/
def State.dropCompaction (s : State) : State :=
  match s.compact with
  | none => s
  | some c =>
    let live := if c.q < 4096 then (s.tq c.q).pend
      else match s.load c.load with | some x => x.st == .pending || x.st == .restoring | none => false
    if live = false ∧ s.compacted c then s.endCompaction c else s

/-! ## Completion (R76 to R79) -/

/-- A task has ended: it counts in DONE (R75, R84, R86). -/
def State.taskEnds (s : State) (t : Nat) (x : Task) : State :=
  let s := s.setTask t none
  (s.setTq x.q { s.tq x.q with done := ((s.tq x.q).done + 1) % 65536 }).qElig x.q

/-- Completion stops at a failing action (R84): the fault is recorded, and the task counts as aborted. -/
def State.taskFails (s : State) (t : Nat) (x : Task) (code : Nat) (addr : Word) : State :=
  (s.descRecord x.q code addr).taskEnds t x

/-- Nothing of a task is unfinished: its threads have exited, its load has gone, its streams and copies have ended, and what
they wrote has performed. -/
def State.taskQuiet (s : State) (t : Nat) (x : Task) : Bool :=
  s.slots.all (fun e => e.2.task != t || e.2.st == .free) && (x.load == 0 || (s.load x.load).isNone) &&
    s.cores.all (fun e => e.2.engq.all (fun m => m.task != t) &&
      e.2.streams.all (fun y => match y.2 with | some z => z.cmd.task != t | none => true) &&
      e.2.copies.all (fun y => match y.2 with | some z => z.cmd.task != t | none => true))

/-- The scheduler writes a doubleword in a task's address space: by a class-7 store, or to another package or the host, to the
host as a byte-enabled write (log 85, DESIGN CHOICE: 03 Table 03-2 has no row for it). -/
def State.taskWrite (s : State) (r : Reader) (va v : Word) : State × Rd Unit :=
  Rd.andThen (s.rdXlate r va 1) (fun s p =>
    match s.routeOf p.1 p.2 with
    | none => (s, .bad 4 va)
    | some (.ctl off) => (s.plainWrite 0 off 8 v.toNat, .ok ())
    | some (.dram off) =>
      if s.stackRefused r.asid p.1 then (s, .bad 4 va)
      else if s.mustSnoop (lineOf off) true then (s.askHost (lineOf off), .wait)
      else (s.sysStoreD p.1 v, .ok ())
    | some (.remote a) =>
      if s.reachable (a / 2 ^ 46 % 1024) then
        (((s.pending r.core r.eid).sendRemote 6 r.core r.eid 2 a [8, v.toNat]).1, .ok ())
      else (s, .bad 4 va)
    | some (.host h) => (((s.pending r.core r.eid).sendHost 6 r.core r.eid h (fun id => .hostWrite id h 255 [v.toNat] false)).1, .ok ()))

/-- The atomic decrement of DEPCNT at the home of a task's successor (R77): what it found, at once or, from another package, when
the answer comes. -/
def State.decrement (s : State) (r : Reader) (t : Nat) (x : Task) (va : Word) : State × Rd Word :=
  if x.dec = 2 then (s, .ok x.old)
  else if x.dec = 3 then (s, .bad 4 va)
  else if x.dec = 1 then (s, .wait)
  else Rd.andThen (s.rdXlate r va 2) (fun s p =>
    match s.routeOf p.1 p.2 with
    | some (.dram off) =>
      if s.stackRefused r.asid p.1 then (s, .bad 4 va)
      else if s.poisoned p.1 then (s, .bad 5 va)
      else if s.mustSnoop (lineOf off) true then (s.askHost (lineOf off), .wait)
      else
        let old := s.homeD p.1
        let s := match atomNew 12 64 old.toNat 0 0 with
          | some v => s.sysStoreD p.1 (BitVec.ofNat 64 v)
          | none => s
        (s.setTask t (some { x with dec := 2, old := old }), .ok old)
    | some (.remote a) =>
      if s.reachable (a / 2 ^ 46 % 1024) then
        ((s.sendRemote 9 t 0 3 a [12 + 16 * 8, 0, 0]).1.setTask t (some { x with dec := 1 }), .wait)
      else (s, .bad 4 va)
    | _ => (s, .bad 4 va))

/-- A released descriptor comes to its queue, or waits in the die's release buffer, always behind an earlier one for the queue
(R79). -/
def State.releaseTo (s : State) (d q : Nat) (ws : List Word) : State × Append :=
  let buffer := fun (t : State) => t.setDie d { t.die d with relBuf := (t.die d).relBuf ++ [(q, ws)] }
  if s.refuses q ws then (s.countDrop q, .taken)
  else if (s.die d).relBuf.any (fun e => e.1 == q) then (buffer s, .taken)
  else match s.enqueue q ws with
  | (t, .full) => (buffer t, .taken)
  | (t, a) => (t, a)

/-- One successor entry is released (R77): whether it is done with. -/
def State.releaseOne (s : State) (r : Reader) (t : Nat) (x : Task) (e : Word × Word) : State × Rd Bool :=
  Rd.andThen (s.decrement r t x e.1) (fun s old =>
    if bits old 32 8 > 1 then (s, .ok true)
    else Rd.andThen (s.rdDs r false e.1 8) (fun s ws =>
      let u := s.releaseTo r.die (bits e.2 0 12) ws
      (u.1, if u.2 = .wait then .wait else .ok true)))

/-- The entries that a task's completion releases: of a branch node the one it chose (R78). -/
def Task.entries (x : Task) : Nat × Nat :=
  if succN x.desc = 0 then (0, 0) else if taskKind x.desc = 2 then (x.next, 1) else (0, succN x.desc)

/-- Step 2 of R77 at entry next of a task's list. The list is read once, as one snapshot (R73), and each entry is judged when it
is released (R84). -/
def State.releaseNext (s : State) (t : Nat) (x : Task) (r : Reader) : State :=
  if (s.die r.die).relBuf.length ≥ 64 then s
  else match x.succ with
  | none =>
    (match Rd.settle r (s.rdTable r (succPtr x.desc + 16 * BitVec.ofNat 64 x.entries.1) x.entries.2) with
     | (s, .wait) => s
     | (s, .bad c a) => s.taskFails t x c a
     | (s, .ok l) => s.setTask t (some { x with succ := some l, first := x.entries.1, next := x.entries.1 }))
  | some l =>
    match l[x.next - x.first]? with
    | none => s.setTask t (some { x with phase := 3 })
    | some e =>
      if succOk e = false then s.taskFails t x 6 (succPtr x.desc + 16 * BitVec.ofNat 64 x.next)
      else match Rd.settle r (s.releaseOne r t x e) with
      | (s, .wait) => s
      | (s, .bad c a) => s.taskFails t x c a
      | (s, .ok _) => s.setTask t (some { x with next := x.next + 1, dec := 0, old := 0 })

/-- A task that has finished goes on with its completion (R77): the signal, the releases, the message. -/
def execTaskComplete (task : Nat) (s : State) : TaskResult :=
  match s.task task with
  | none => .next s
  | some x =>
    let r := s.schedReader x.q
    let r := { r with asid := bits x.asid 0 16, ptb := x.ptb, eid := 2048 + task }
    if s.running = false then .next s
    else if x.phase = 0 then
      if s.taskQuiet task x = false then .next s
      else if x.fault then .next (s.taskEnds task x)
      else .next (s.setTask task (some { x with phase := 1 }))
    else if Tab.get 0 (s.core r.core).pendW r.eid ≠ 0 then .next s
    else if x.phase = 1 then
      if sigEn x.desc = false then .next (s.setTask task (some { x with phase := 2 }))
      else match Rd.settle r (s.taskWrite r (sigAddr x.desc) (x.desc.getD 5 0)) with
        | (s, .wait) => .next s
        | (s, .bad c a) => .next (s.taskFails task x c a)
        | (s, .ok _) => .next (s.setTask task (some { x with phase := 2 }))
    else if x.phase = 2 then .next (s.releaseNext task x r)
    else
      let v := bits (x.desc.getD 0 0) 8 11
      let s := if bit (x.desc.getD 0 0) 4 ∧ v ≥ 16 then s.sendMsix v else s
      .next ((s.sample (x.q / 1024) 7 x.q (s.cycle - x.start)).taskEnds task x)

/-- The oldest released descriptor of a die's release buffer comes to its queue, once that accepts it (R79). The buffer is one
line for all queues, whose head holds back what stands behind it (log 85, DESIGN CHOICE: R79 does not say). -/
def execReleaseBufferAppend (die : Nat) (s : State) : TaskResult :=
  match (s.die die).relBuf with
  | [] => .next s
  | (q, ws) :: r =>
    match s.enqueue q ws with
    | (t, .taken) => .next (t.setDie die { t.die die with relBuf := r })
    | (t, .refused) => .next ((t.countDrop q).setDie die { (t.countDrop q).die die with relBuf := r })
    | (t, .wait) => .next t
    | (_, .full) => .next s

/-- The oldest spilled descriptor of a queue moves back into queue storage (R67). -/
def execSpillRefill (q : Nat) (s : State) : TaskResult :=
  let x := s.tq q
  if x.spCount = 0 ∨ x.stored.length ≥ 256 ∨ s.taskPart (q / 1024) ≥ 65536 then .next s
  else
    let line := lineOf (offOf (x.spAt 0))
    if s.mustSnoop line false then .next (s.askHost line)
    else .next (s.setTq q { x with stored := x.stored ++ [s.homeDs (x.spAt 0) 8], spHead := (x.spHead + 1) % max 1 x.spCap,
                                   spCount := x.spCount - 1 })

/-- RESUME of a stopped queue: it is eligible again, and its head is checked at the next pick (R85). -/
def execQcfgResume (q : Nat) (s : State) : TaskResult :=
  if (s.tq q).stopped then .next ((s.setTq q { s.tq q with stopped := false }).qElig q) else .next s

end Sys2Proof.Machine
end

