-- ==== Sys2Proof/Machine/Loads.lean ====
section
/-! DEFINITION. The life of a load (05 R100, R104; 08 R180; 12 R260, R264, R266; 13 R271, R280 to R284; 18 R379, R387 to
R391; 21 R440; 24 R457): placing it, starting it, its sections and waves, its end, and the commands on it. -/

namespace Sys2Proof.Machine

/-- What every meaning answers. -/
abbrev LoadResult := Host.Outcome State Fault Refusal

/-! ## The end of a load -/

/-- A stream that loses the circuit of a load that has gone stops, and its issuing thread hears of it. -/
def State.cutStreams (s : State) (mine : Nat → Bool) : State :=
  s.cores.foldl (fun s (e : Nat × Core) => e.2.streams.foldl (fun s (t : Nat × Option Stream) => match t.2 with
    | some x =>
      if (mine x.key || mine x.ikey) && decide (x.st < 3) then
        (s.endStream e.1 t.1 x 3).tellIssuer e.1 x.cmd 0x16 x.cmd.blk
      else s
    | none => s) s) s

/-- What the end of a load changes of a slot: bindings to its circuits, its reports, an ERRINJ armed for it, and a wait for
it. -/
def Slot.loadGone (x : Slot) (l : Nat) (mine : Nat → Bool) : Slot :=
  let armed := bit x.errinj 0 && bits x.errinj 1 2 == 1 && bits x.errinj 48 16 == l
  let woken := x.wait == .cut l && x.st == .blockedWait
  { x with
    binds := x.binds.filter (fun b => match b.2 with | some y => !mine y.key | none => true),
    pend := x.pend.filter (fun p => p.src / 2 ^ 24 != l),
    errinj := if armed then setBits x.errinj 0 1 0 else x.errinj,
    st := if woken then .ready else x.st, wait := if woken then .cut 0 else x.wait }

/-- The identifier of a load retires: its circuits cease to be, with whatever is bound to them (12 R258; 18 R391, R471). -/
def State.retireLoad (s : State) (l : Nat) : State :=
  let mine := fun (k : Nat) => keyIsCircuit k && circuitLoad k == l
  let s := s.cutStreams mine
  { s with queues := s.queues.filter (fun e => !mine e.1),
           slots := s.slots.map (fun (e : Nat × Slot) => (e.1, e.2.loadGone l mine)) }.dropLoad l

/-- A load gives up its facets, its border circuits and its places in the save pools (05 R99; 13 R283). -/
def State.vacate (s : State) (l : Nat) : State :=
  match s.load l with
  | none => s
  | some x =>
    let s := s.unreserve l
    let s := { s with
      tiles := if x.st.holds then s.tiles.filter (fun e => !x.hasTile e.1) else s.tiles,
      borders := s.borders.filter (fun e => match e.2 with | some b => b.load != l | none => true) }
    match s.load l with
    | none => s
    | some y => (s.setLoad l { y with st := if y.st = .finished then .finished else .killed }).retireAll

/-- A killed load that holds nothing any more: its task is aborted, and its identifier retires unless an owner has yet to
release it (04 R86; 13 R284; 18 R391). -/
def State.killEnds (s : State) (l : Nat) : State :=
  match s.load l with
  | none => s
  | some x =>
    let s := s.cmdEnds l 3
    if x.byPlace then (if x.retire then s.retireLoad l else s)
    else
      let s := match s.task x.task with
        | some t => s.setTask x.task (some { t with fault := true })
        | none => s
      s.retireLoad l

/-- release (18 R391): a pending load is withdrawn, a finished or killed one gives up what it holds and its identifier, any
other is killed; full says that its identifier retires then without a further release. -/
def State.releaseLoad (s : State) (l : Nat) (x : Load) (full : Bool) : State :=
  let s := { s with slots := s.slots.map (fun (e : Nat × Slot) =>
    (e.1, { e.2 with pend := e.2.pend.filter (fun p => p.src / 2 ^ 24 != l) })) }
  match x.st with
  | .pending => s.retireLoad l
  | .finished => (s.vacate l).retireLoad l
  | .killed => (s.vacate l).retireLoad l
  | .killing => s.setLoad l { x with retire := true }
  | _ =>
    let s := s.kill l
    match s.load l with
    | some y => s.setLoad l { y with retire := y.retire || full }
    | none => s

/-! ## Occupancy, and the end of a kill (13 R281 to R284) -/

/-- One sweep looks at a load: it is quiescent when this sweep and the last found nothing and nothing moved between. -/
def State.sweepLoad (s : State) (l : Nat) (x : Load) : State :=
  let z := s.items l x == 0
  s.setLoad l { x with quiet := x.zero && z && x.count == 0, zero := z, count := 0 }

/-- The occupancy counts are summed every 64 fabric cycles (R282): quiescence is judged, and a kill completes at it. A load
placed by a thread that a kill has freed is released, as by its texit (log 80). -/
def State.sweep (s : State) : State :=
  if s.running = false ∨ s.sweepAt = s.fab / 64 + 1 then s
  else
    let s := { s with sweepAt := s.fab / 64 + 1 }
    let s := s.loads.foldl (fun s (e : Nat × Option Load) => match e.2 with
      | some x => s.sweepLoad e.1 x
      | none => s) s
    s.loads.foldl (fun s (e : Nat × Option Load) => match s.load e.1 with
      | some x =>
        if s.tested' e.1 then s
        else if x.byPlace ∧ x.owner.isNone ∧ x.st ≠ .killing ∧ x.st ≠ .killed then s.releaseLoad e.1 x true
        else if x.st = .killing ∧ x.quiet then (s.vacate e.1).killEnds e.1
        else if x.st = .killed ∧ (x.byPlace = false ∨ x.retire ∨ x.cmdDie.isSome ∨ x.img ≠ []) then (s.vacate e.1).killEnds e.1
        else s
      | none => s) s

def execOccupancySweep (s : State) : LoadResult := .next s.sweep

/-! ## The pick (04 R81; 05 R99) -/

/-- A die picks in its turn: once in 64 network cycles, and in one network cycle the dies in ascending order. -/
def State.mayPick (s : State) (die : Nat) : Bool :=
  decide (die < 4) && s.running && ((s.die die).pickAt == 0 || ((s.die die).pickAt - 1) / 64 != s.net / 64) &&
    (List.range 4).all (fun e => decide (e ≤ die) || (s.die e).pickAt != s.net + 1)

/-- A pick of a die share (R81; 05 R99): what is due to be released and retired comes first, then the loads placed by place or
to be restored, then the heads of its queues: a pick that places such a load starts no task (log 85, DESIGN CHOICE: R81 does not
say how the two share a pick). -/
def execPick (die : Nat) (s : State) : LoadResult :=
  if s.mayPick die = false then .next s
  else
    let s := s.sweep.retireAll
    let s := ((s.setDie die { s.die die with pickAt := s.net + 1 }).dropCompaction).askHeads die
    let r := s.placeFrom die (s.waiting die)
    .next (if r.2 then r.1 else r.1.pickFrom die (r.1.candidates die))

/-! ## place (18 R387) -/

/-- The reader of a place: the executing thread, its accesses translated in its mode. -/
def State.placeReader (s : State) : Reader :=
  let x := s.me
  { die := dieOfSlot s.cur, asid := x.asidN, ptb := x.ptbase, mode := x.mode, core := s.myCore, eid := 1025 + s.cur % 16 }

/-- place: the header and every configuration stream are checked, and the load is pending. -/
def execPlace (d a : Nat) (s : State) : LoadResult :=
  let r := s.placeReader
  let hva := s.rg a
  .next (s.run [d, a] [(5, 0), (4, 1), (6, 1)]
    (match Rd.settle r (s.rdHeader r hva) with
     | (s, .wait) => s
     | (s, .bad c va) => s.raise 0x11 (descTval (0x10 + c) va.toNat)
     | (s, .ok h) =>
       if h.cuts.any (fun c => c.nthr != 0 && c.entry == 0) then s.raise 0x11 (descTval 0x11 hva.toNat)
       else match badConfig 0 (h.cuts.zip h.cfg) with
       | some v => s.raise 0x10 v
       | none =>
         let l := s.newId
         let x := h.load s.me.asid s.me.ptbase hva 0 (BitVec.ofNat 64 l) 0 true (some s.cur) 0 0 7 s.cycle
         let s := s.setLoad l { x with pltime := bits s.me.pltimeout 0 32 }
         (s.wr d (BitVec.ofNat 64 l)).advance))

/-- A placement has been blocked for its timeout (05 R104): one report, until the load is granted. load is a load's
identifier, or 2^16 plus a task queue whose head is a pending load. -/
def execPlacementTimeout (load : Nat) (s : State) : LoadResult :=
  if load < 65536 then
    match s.load load with
    | none => .next s
    | some x =>
      let n := if x.byPlace then x.pltime else (s.die (x.q / 1024)).plto
      if (x.st ≠ .pending ∧ x.st ≠ .restoring) ∨ x.told ∨ s.cycle < x.pendAt + 2000 * max 1 n then .next s
      else
        let mask := s.blockMask (bits x.asid 0 16) x.mustdie x.wants
        let s := s.setLoad load { x with told := true }
        if x.byPlace then
          match x.owner with
          | some k => .next (s.pend k 0x11 (descTval (0x20 + mask) x.cgptr.toNat) (loadSrc load))
          | none => .next s
        else
          .next (s.faultEntry (x.q / 1024) 4 (bits x.asid 0 16) 0 0 0
            [0, x.cgptr, 0, field 16 3 mask ||| field 0 12 x.q, 0, 0, 0])
  else
    let q := load - 65536
    let x := s.tq q
    if q ≥ 4096 ∨ x.pend = false ∨ x.told ∨ s.cycle < x.pendAt + 2000 * max 1 (s.die (q / 1024)).plto then .next s
    else match s.headOf q with
    | none => .next s
    | some ws =>
      let r := s.schedReader q
      match Rd.settle r (s.rdHeader r (cgptrOf ws)) with
      | (s, .ok h) =>
        let y := h.load x.asid x.qptb (cgptrOf ws) (entryOf ws) (ws.getD 3 0) (nthrOf ws) false none 0 q 0 0
        let mask := s.blockMask r.asid y.mustdie y.wants
        let s := s.setTq q { s.tq q with told := true }
        .next (s.faultEntry (q / 1024) 4 r.asid 0 0 0 [0, cgptrOf ws, 0, field 16 3 mask ||| field 0 12 q, 0, 0, 0])
      | (s, _) => .next s

/-! ## Sections (18 R389; 09 R205) -/

/-- A tile is armed. -/
def Tile.arm (t : Tile) (sec n : Nat) : Tile :=
  if t.kind = 1 ∧ t.sectId = sec then { t with mat := { t.mat with remain := satAdd t.mat.remain n (2 ^ 32 - 1) } } else t

/-- Every tile of a load with a section is armed; a tile whose record has been written has the arm in it. -/
def State.armLoad (s : State) (l : Nat) (x : Load) (sec n : Nat) : State :=
  let s := x.elems.foldl (fun s (e : Nat × Nat × Nat) =>
    let t := s.tileOr e.2.2
    if t.kind = 1 ∧ t.sectId = sec then s.setTile e.2.2 (t.arm sec n) else s) s
  if x.st = .draining then
    s.snapUp l x.top (fun y => { y with tiles := y.tiles.map (fun (e : Nat × Tile) => (e.1, e.2.arm sec n)) })
  else s

/-- The arms that came while a load had no facets are applied. -/
def State.applyArms (s : State) (l : Nat) : State :=
  match s.load l with
  | none => s
  | some x =>
    let s := x.arms.foldl (fun s (a : Nat × Nat) => s.armLoad l x a.1 a.2) s
    match s.load l with | some y => s.setLoad l { y with arms := [] } | none => s

/-- sect. -/
def execSect (a b : Nat) (s : State) : LoadResult :=
  let l := bits (s.rg a) 48 16
  let sec := bits (s.rg a) 0 8
  let n := bits (s.rg b) 0 32
  .next (s.run [a, b] [(5, 0)]
    (match s.load l with
     | none => s.raise 0x11 (descTval 0x0C l)
     | some x =>
       if bits x.asid 0 16 ≠ s.me.asidN then s.raise 0x07 (s.rg a)
       else if n = 0 ∨ sec = 0 then s.advance
       else match x.st with
       | .running => (s.armLoad l x sec n).advance
       | .draining => (s.armLoad l x sec n).advance
       | .finished => s.advance
       | .killing => s.advance
       | .killed => s.advance
       | _ => (s.setLoad l { x with arms := x.arms ++ [(sec, n)] }).advance))

/-! ## Waves (18 R390; 12 R266; 26 R464) -/

/-- Once every live feed thread has executed MARK n, the circuits that no active stream feeds get their marker, and the
streams of threads that have exited inject theirs. -/
def State.wavesOn (s : State) (l : Nat) : Nat → State
  | 0 => s
  | f + 1 => match s.load l with
    | none => s
    | some x =>
      let n := x.cmark + 1
      if x.prot = false ∨ x.st ≠ .running ∨ x.top < n ∨ s.markedAll l n = false then s
      else
        let s := (s.streamsOf l).foldl (fun s e =>
          if e.2.2.cmd.by_ ≥ 4096 ∧ e.2.2.st ≤ 2 then s.markStream e.1 e.2.1 n e.2.2 else s) s
        let s := s.markCircuits l n kMark
        match s.load l with
        | none => s
        | some y => State.wavesOn (s.setLoad l { y with cmark := n }) l f

/-- mark. -/
def execMark (d : Nat) (s : State) : LoadResult :=
  let k := s.cur
  let l := s.me.load
  .next (s.run [d] []
    (match (if s.isProtFeed k then s.load l else none) with
     | none => (s.wr d 0).advance
     | some x =>
       let n := s.me.marks + 1
       if n > x.wave + 2 ∨ s.me.outs.any (fun o => !o.isPf) ∨ s.me.muls ≠ [] then s
       else
         let s := (s.setMe { s.me with marks := n }).setLoad l { x with top := max x.top n }
         let back := (s.me.setReg d 1)
         let s := s.snapUp l n (fun y => { y with slots := y.slots ++ [(k, { back with pc := s.pc + 4 })] })
         let s := (s.streamsOf l).foldl (fun s e =>
           if e.2.2.cmd.by_ = k ∧ e.2.2.st ≤ 2 then s.markStream e.1 e.2.1 n e.2.2 else s) s
         ((s.wr d 0).advance).wavesOn l 2))

/-! ## cutwait and release (18 R391) -/

/-- cutwait: until the load has finished or been killed, and then an acquire of system scope. -/
def execCutwait (a : Nat) (s : State) : LoadResult :=
  let l := bits (s.rg a) 0 16
  let x := s.me
  let done := ((s.acquire s.cur).setMe { (s.acquire s.cur).me with st := .ready, wait := .none, probed := false }).advance
  .next (s.run [a] [(5, 0)]
    (if x.wait = .cut 0 then done
     else match s.load l with
     | none => s.raise 0x11 (descTval 0x0C l)
     | some y =>
       if y.st = .finished ∨ y.st = .killed then done
       else
         let again := x.wait == .cut l
         s.setMe { x with st := .blockedWait, wait := .cut l, since := if again then x.since else s.cycle,
                          probed := again && x.probed }))

/-- release: of a load that the thread placed. -/
def execRelease (a : Nat) (s : State) : LoadResult :=
  let l := bits (s.rg a) 0 16
  .next (s.run [a] [(5, 0)]
    (match s.load l with
     | none => s.raise 0x11 (descTval 0x0C l)
     | some x =>
       if x.byPlace = false ∨ x.owner ≠ some s.cur then s.raise 0x11 (descTval 0x0C l)
       else (s.releaseLoad l x false).advance))

/-! ## Start and resume (08 R180; 13 R280) -/

/-- A configuration stream that must be applied before a load's token is not applied yet. -/
def State.awaitsConfig (s : State) (l : Nat) : Bool :=
  s.cores.any (fun e => e.2.streams.any (fun t => match t.2 with
    | some x => qidCfg x.qid && qidLoad x.qid == l && (x.st == 1 || x.st == 2) && x.status == 0 &&
        (x.ahead || x.pos == x.total)
    | none => false))

/-- The incoming border circuits of a load take up what has come for them. -/
def State.refillAll (s : State) (x : Load) : State :=
  x.bord.foldl (fun s w => if bit w 25 then s.refill (bits w 26 12) else s) s

/-- An element at its start token: the matrix tile's remaining count from TCOUNT, a memory tile's mode at its beginning. -/
def Tile.starts (t : Tile) (now : Nat) : Tile :=
  let t := { t with started := true, startAt := now }
  let t := if t.kind = 1 then { t with mat := { t.mat with remain := t.field 9 } } else t
  t.memStart now

/-- The start token is delivered to every element of a load. -/
def execStartToken (l : Nat) (s : State) : LoadResult :=
  match s.load l with
  | none => .next s
  | some x =>
    if x.st ≠ .configured ∨ s.running = false ∨ s.awaitsConfig l then .next s
    else
      let s := x.elems.foldl (fun s (e : Nat × Nat × Nat) => s.setTile e.2.2 ((s.tileOr e.2.2).starts s.fab)) s
      let s := s.setLoad l { x with st := .running }
      let s := s.applyArms l
      let s := if x.prot then s.snapUp l 0 (fun y => { y with
          tiles := x.elems.foldl (fun (t : Tab Tile) (e : Nat × Nat × Nat) =>
            Tab.set Tile.empty t (elemKey e.1 e.2.1) (s.tile e.2.2)) [] }) else s
      .next (s.refillAll x)

/-- The resume token is delivered: the load goes on (R280), and what was resumed meanwhile goes on with it. -/
def execResumeToken (l : Nat) (s : State) : LoadResult :=
  match s.load l with
  | none => .next s
  | some x =>
    if x.st ≠ .placed ∨ s.running = false ∨ s.awaitsConfig l then .next s
    else
      let s := s.unreserve l
      let s := { s with
        slots := s.slots.map (fun (e : Nat × Slot) =>
          let y : Slot := e.2
          if y.isFeed && y.load == l then
            (e.1, if y.st = SlotState.stopped then { y with st := if y.wasParked && !y.resumed then SlotState.parked else SlotState.ready, wasParked := false, resumed := false }
                  else if y.st = SlotState.trapped ∧ y.resumed = true then { y with st := SlotState.ready, pc := y.tepc, resumed := false }
                  else y)
          else e),
        cores := s.cores.map (fun (e : Nat × Core) => (e.1, { e.2 with
          streams := mapTab (fun (y : Stream) => if y.cmd.load = l ∧ y.st = 2 ∧ y.resumed then y.goesOn else y) e.2.streams,
          copies := mapTab (fun (y : CopyEng) => if y.cmd.load = l ∧ y.st = 2 ∧ y.resumed then y.goesOn else y) e.2.copies })) }
      let s := match s.load l with
        | some y => s.setLoad l { y with st := .running, why := 0, redrain := false, granted := s.net + 1, zero := false, quiet := false, count := 0 }
        | none => s
      .next (((s.applyArms l).refillAll x).cmdEnds l 0)

/-! ## Finish (18 R388; 21 R440) -/

/-- Everything that R388 asks of a load holds. -/
def State.finishes (s : State) (l : Nat) (x : Load) : Bool :=
  x.st == .running && (s.feeds l).isEmpty && (s.streamsOf l).isEmpty && (s.copiesOf l).isEmpty && (s.waitingOf l).isEmpty &&
    x.quiet && x.count == 0 && !s.tested' l &&
    (!x.prot || (x.wave == x.top && s.prov.all (fun p => p.load != l) && s.cores.all (fun e => e.2.wcb.all (fun w => w.load != l))))

/-- A load that has finished, and whose task has its result: its facets and its identifier go. -/
def State.finished (s : State) (l : Nat) : State := (s.vacate l).retireLoad l

/-- A load finishes: one placed by place keeps what it holds; a task's load writes its result and is released. -/
def execLoadFinish (l : Nat) (s : State) : LoadResult :=
  match s.load l with
  | none => .next s
  | some x =>
    if s.running = false then .next s
    else if s.finishes l x then .next ((s.setLoad l { x with st := .finished, redrain := false }).cmdEnds l 0)
    else if x.st ≠ .finished ∨ x.byPlace then .next s
    else match s.task x.task with
    | none => .next (s.finished l)
    | some t =>
      let r := s.schedReader x.q
      let k := match x.cuts.head? with | some c => 64 * c.die | none => r.core
      let r := { r with die := x.die0, asid := bits x.asid 0 16, ptb := x.ptb, core := k, eid := 4096 + x.task }
      if Tab.get 0 (s.core k).pendW r.eid ≠ 0 then .next s
      else match (if resAddr t.desc = 0 then none else x.result) with
      | none => .next (s.finished l)
      | some v =>
        match Rd.settle r (s.taskWrite r (resAddr t.desc) v) with
        | (s, .wait) => .next s
        | (s, .bad c va) => .next ((s.finished l).taskFails x.task t c va)
        | (s, .ok _) => match s.load l with
          | some y => .next (s.setLoad l { y with result := none })
          | none => .next s

/-! ## Configuration streams (18 R379; 08 R181; 24 R457) -/

/-- A configuration stream is rejected: STATUS 5, and cause 0x10 to its issuing thread. -/
def State.rejectConfig (s : State) (c n : Nat) (x : Stream) (tval : Word) : State :=
  (s.endStream c n x 5).tellIssuer c x.cmd 0x10 tval

/-- The swap clasp that ends a configuration stream enters its circuit once that has room. -/
def State.configClasp (s : State) (c n : Nat) (x : Stream) : State :=
  let q := x.qid
  let key := circuitKey (qidLoad q) (qidCut q) (qidFac q) (qidPort q) (qidVc q) true
  if s.qFull key then s.setStream c n (some { x with status := 6 })
  else (s.qAppend key (mkWord 0 (qidVc q) kSwap 1 (qidRoute q))).setStream c n (some { x with status := 1 })

/-- A configuration stream that has been collected whole is checked and applied. -/
def execConfigStreamApply (core stream : Nat) (s : State) : LoadResult :=
  match s.stream core stream with
  | none => .next s
  | some x =>
    let q := x.qid
    if qidCfg q = false ∨ x.st ≠ 1 ∨ x.pos < x.total ∨ s.running = false then .next s
    else match s.load (qidLoad q) with
    | none => .next ((s.endStream core stream x 3).tellIssuer core x.cmd 0x16 x.cmd.blk)
    | some y =>
      if y.st = .killing ∨ y.st = .killed then
        .next ((s.endStream core stream x 3).tellIssuer core x.cmd 0x16 x.cmd.blk)
      else if x.status = 6 then (if y.st.holds then .next (s.configClasp core stream x) else .next s)
      else if x.status ≠ 0 then .next s
      else match y.cuts[qidCut q]? with
      | none => .next (s.rejectConfig core stream x (cutTval (qidCut q) (0, 0, 2)))
      | some c =>
        if qidVc q ≠ 0 ∧ y.portUsed (qidCut q) (qidFac q) (qidPort q) = false then
          .next (s.rejectConfig core stream x (cutTval (qidCut q) (qidFac q * 64 + portTile (qidPort q), 0, 2)))
        else if y.st ≠ .configured ∧ y.st ≠ .running ∧ y.st ≠ .placed ∧ y.st ≠ .finished then .next s
        else
          let ts := c.elems.map (fun e => (e, s.tileOr (c.tileAt e)))
          match runCfg s.fab c.uses c.lsNeed (decide (y.st ≠ .configured)) ts x.config with
          | .inl b => .next (s.rejectConfig core stream x (cutTval (qidCut q) b))
          | .inr ts' =>
            let s := (s.putCut c ts').moved (qidLoad q)
            let s := match s.load (qidLoad q) with
              | some z => s.setLoad (qidLoad q) { z with seen := z.seen.filter (fun (e : Nat × Nat) => decide (e.1 < 2 ^ 40)) }
              | none => s
            let x := { x with config := [], status := 1 }
            if qidVc q = 0 then .next (s.setStream core stream (some x)) else .next (s.configClasp core stream x)

/-! ## LOADCTL (13 R271, R278) -/

/-- LOADSTAT after a command. -/
def State.loadStat (s : State) (d l res st : Nat) (nospace : Bool) : State :=
  s.setDie d { s.die d with
    loadstat := field 48 16 l ||| field 4 1 (b2n nospace) ||| field 2 2 res ||| field 0 2 st }

/-- STATE of a load as LOADSTAT gives it. -/
def LoadState.code : LoadState → Nat
  | .draining => 1
  | .saved => 2
  | .restoring => 2
  | .placed => 2
  | .killing => 3
  | .killed => 3
  | _ => 0

/-- A command names no live load (RESULT 1): it has finished or been killed, or was never there. -/
def State.noLoad (s : State) (l : Nat) : Bool :=
  match s.load l with
  | none => true
  | some x => x.st == .finished || x.st == .killed

/-- Pre-empt. A load that has its grant and not its start token yet drains as soon as it runs. -/
def execLoadctlPreempt (die l : Nat) (s : State) : LoadResult :=
  if die ≥ 4 then .next s
  else if s.noLoad l then .next (s.loadStat die l 1 0 false)
  else match s.load l with
  | none => .next s
  | some x =>
    if (x.st ≠ .running ∧ x.st ≠ .configured) ∨ x.redrain then .next (s.loadStat die l 2 x.st.code false)
    else if s.poolFits x = false then .next (s.loadStat die l 2 x.st.code true)
    else if x.st = .configured ∨ s.tested' l then
      let s := (s.reserve x.image x.die0).setLoad l { s.withImage x with redrain := true, why := 1, cmdDie := some die }
      .next (s.loadStat die l 0 1 false)
    else .next ((s.startDrain l 1 (some die)).loadStat die l 0 1 false)

/-- Restore: the load is pending again, at the effective priority of its task's queue, or at 7. -/
def execLoadctlRestore (die l : Nat) (s : State) : LoadResult :=
  if die ≥ 4 then .next s
  else if s.noLoad l then .next (s.loadStat die l 1 0 false)
  else match s.load l with
  | none => .next s
  | some x =>
    if x.st ≠ .saved ∨ x.why ≠ 1 then .next (s.loadStat die l 2 x.st.code false)
    else
      let s := s.setLoad l { x with st := .restoring, cmdDie := some die, pendAt := s.cycle, told := false,
                                    prio := if x.byPlace then 7 else s.effPrio x.q }
      .next (s.loadStat die l 0 2 false)

/-- Kill. -/
def execLoadctlKill (die l : Nat) (s : State) : LoadResult :=
  if die ≥ 4 then .next s
  else if s.noLoad l then .next (s.loadStat die l 1 0 false)
  else match s.load l with
  | none => .next s
  | some x =>
    if x.st = .killing then .next (s.loadStat die l 2 3 false)
    else
      let s := (s.kill l).cmdEnds l 3
      let s := match s.load l with | some y => s.setLoad l { y with cmdDie := some die } | none => s
      .next (s.loadStat die l 0 3 false)

end Sys2Proof.Machine
end

