-- ==== Sys2Proof/Machine/System.lean ====
section
/-! DEFINITION. System instructions, traps and control registers (19 R400 to R410; 07 R145). -/

namespace Sys2Proof.Machine

/-- What every meaning answers. -/
abbrev SysResult := Host.Outcome State Fault Refusal

/-- The word of the executing instruction, as TVAL of causes 0x01 and 0x02. -/
def State.wordD (s : State) : Word := BitVec.ofNat 64 s.me.word

/-! ## Traps -/

/-- trap (19 R404): cause 0x13 with TVAL the code, in every mode; TEPC holds the next instruction's address (R400). -/
def execTrap (c : Nat) (s : State) : SysResult :=
  .next (s.run [] [] (s.raiseWord s.cur 0x13 (BitVec.ofNat 64 c) (s.pc + 4) (s.wordAt s.cur (s.pc + 4))))

/-- The lines that an eret reads: its own frame, and the outer handler's (19 R403). -/
def State.eretLines (s : State) : List Nat :=
  lineOf (offOf (s.ownFrame s.cur)) ::
    (match s.outerFrame s.cur with | some f => [lineOf (offOf f)] | none => [])

/-- eret (19 R403). A line of the frames that the host holds modified is asked for first (03 R50). -/
def execEret (s : State) : SysResult :=
  let x := s.me
  let f := s.ownFrame s.cur
  let asked := s.snoopList s.eretLines false
  .next (s.run [1, 2, 30, 31] []
    (if x.mode = 0 ∨ x.level = 0 then s.raise 0x02 s.wordD
     else if s.poisoned f then s.raise 0x08 (BitVec.ofNat 64 f)
     else if asked.isEmpty = false then s.askAll asked
     else s.leave s.cur))

/-- An asynchronous trap is entered at an instruction boundary (19 R401, R402). -/
def execAsyncTrapEntry (core slot : Nat) (s : State) : SysResult :=
  let k := slotKey core slot
  .next (if (s.slot k).sync.isSome then s.enterSync k else if s.asyncNow k then s.takeAsync k else s)

/-- CYCLE reaches TIMECMP (19 R401): the timer trap is entered where it is the one to be taken. -/
def execTimerExpiry (core slot : Nat) (s : State) : SysResult :=
  let k := slotKey core slot
  match s.nextPend k with
  | some p => .next (if p.cause = 0x14 ∧ s.asyncNow k ∧ (s.slot k).sync = none then s.takeAsync k else s)
  | none => .next s

/-! ## Control registers -/

/-- TID (Table 19-4). -/
def State.tid (s : State) (k : Nat) : Word :=
  field 32 10 s.pkg.pkgNo ||| field 16 16 (if (s.slot k).isFeed then (s.slot k).load else 0) ||| field 4 8 (k / 16) |||
    field 0 4 (k % 16)

/-- What a control register reads as for a slot (Table 19-3). -/
def State.crRead (s : State) (k n : Nat) : Word :=
  let x := s.slot k
  let c := s.core (k / 16)
  match n with
  | 0x000 => x.tstat
  | 0x001 => x.tcause
  | 0x002 => x.tepc
  | 0x003 => x.tval
  | 0x004 => c.tvec
  | 0x005 => x.tscratch
  | 0x006 => c.tfbase
  | 0x007 => c.mtvec
  | 0x010 => x.asid
  | 0x011 => x.ptbase
  | 0x020 => s.tid k
  | 0x021 => BitVec.ofNat 64 s.cycle
  | 0x022 => x.timecmp
  | 0x030 => x.qctl
  | 0x031 => x.decthr
  | 0x032 => x.blkthr
  | 0x033 => x.pltimeout
  | 0x040 => x.errinj
  | 0x080 => BitVec.ofNat 64 (s.slotCodes (k / 16) 0 16)
  | 0x100 => s.pkg.svcBase
  | 0x101 => s.pkg.svcSize
  | _ => BitVec.ofNat 64 (s.ctlRead (crOffset (dieOfSlot k) n) 8)

/-- A write of a control register of a slot (Tables 19-3, 19-4, 06-9, 12-8, 07-5). -/
def State.crWrite (s : State) (k n : Nat) (v : Word) : State :=
  let x := s.slot k
  let c := s.core (k / 16)
  match n with
  | 0x000 => s.setSlot k { x with tstat := tstatWrite x.tstat v }
  | 0x001 => s.setSlot k { x with tcause := maskWrite 0 (maskOf 63 1 ||| maskOf 0 6) v }
  | 0x002 => s.setSlot k { x with tepc := maskWrite 0 (maskOf 2 62) v }
  | 0x003 => s.setSlot k { x with tval := v }
  | 0x004 => s.setCore (k / 16) { c with tvec := maskWrite 0 (maskOf 2 54) v }
  | 0x005 => s.setSlot k { x with tscratch := v }
  | 0x006 => s.setCore (k / 16) { c with tfbase := maskWrite 0 (maskOf 12 44) v }
  | 0x007 => s.setCore (k / 16) { c with mtvec := maskWrite 0 (maskOf 2 54) v }
  | 0x010 => s.setSlot k { x with asid := maskWrite 0 (maskOf 0 16) v }
  | 0x011 => s.setSlot k { x with ptbase := maskWrite 0 (maskOf 14 42) v }
  | 0x020 => s
  | 0x021 => s
  | 0x022 => s.setSlot k { x with timecmp := v }
  | 0x030 => s.setSlot k { x with qctl := maskWrite 0 (maskOf 0 48) v }
  | 0x031 => s.setSlot k { x with decthr := maskWrite 0 (maskOf 32 32 ||| maskOf 0 16) v }
  | 0x032 => s.setSlot k { x with blkthr := maskWrite 0 (maskOf 0 32) v }
  | 0x033 => s.setSlot k { x with pltimeout := maskWrite 0 (maskOf 0 32) v }
  | 0x040 => s.setSlot k { x with errinj := errinjWrite x.errinj v }
  | 0x080 => s
  | 0x100 => { s with pkg := { s.pkg with svcBase := maskWrite 0 (maskOf 16 40) v } }
  | 0x101 => { s with pkg := { s.pkg with svcSize := maskWrite 0 (maskOf 16 21) v } }
  | _ => s.plainWrite x.mode (crOffset (dieOfSlot k) n) 8 v.toNat

/-- A control register's value is on its way to a register: it can be read four cycles after (06 R117). -/
def State.wrLate (s : State) (n : Nat) (v : Word) : State :=
  let t := s.wr n v
  t.setMe { t.me with late := (n, s.cycle + 4) :: t.me.late.filter (fun e => e.1 != n && decide (s.cycle < e.2)) }

/-- A control-register move: g[d], if there is a d, receives the old value; val is what is written, none for crr. -/
def State.crMove (s : State) (d : Option Nat) (a n : Nat) (val : Word → Option Word) : State :=
  let k := s.cur
  let acc := crAccess n s.me.mode
  let old := s.crRead k n
  s.run ((d.toList) ++ [a]) (if (val old).isSome then [(5, 0)] else [])
    (if acc = 0 ∨ (acc = 1 ∧ (val old).isSome) then s.raise 0x02 s.wordD
     else if crIsView n ∧ s.mt2Clear k s.me.seq = false then s.force k
     else
       let s := match val old with | some v => s.crWrite k n v | none => s
       let s := match d with | some r => s.wrLate r old | none => s
       s.advance)

/-- crr (19 Table 19-2). -/
def execCrr (d n : Nat) (s : State) : SysResult := .next (s.crMove (some d) 0 n (fun _ => none))
/-- crw (19 Table 19-2). -/
def execCrw (a n : Nat) (s : State) : SysResult := .next (s.crMove none a n (fun _ => some (s.rg a)))
/-- crs (19 Table 19-2): W1C and WO fields are written 0. -/
def execCrs (d a n : Nat) (s : State) : SysResult :=
  .next (s.crMove (some d) a n (fun old => some ((old ||| s.rg a) &&& ~~~(crKeep n))))
/-- crc (19 Table 19-2). -/
def execCrc (d a n : Nat) (s : State) : SysResult :=
  .next (s.crMove (some d) a n (fun old => some ((old &&& ~~~(s.rg a)) &&& ~~~(crKeep n))))

/-! ## TLB invalidation (07 R145, 19 R407) -/

/-- A translation that a kind of invalidation removes (Table 07-4). -/
def Tlb.removed (t : Tlb) (kind asid va : Nat) : Bool :=
  let covers := decide (t.va ≤ va) && decide (va < t.va + 2 ^ t.bits)
  let g := bit t.leaf 6
  match kind with
  | 0 => covers && (g || t.asid == asid)
  | 1 => !g && t.asid == asid
  | 2 => !g
  | 3 => true
  | _ => covers

/-- The caches of a die after an invalidation: its L1 TLBs, its second-level TLB, its walk cache; walks in flight are
discarded, and their parties walk again. -/
def State.invDie (s : State) (d kind asid va : Nat) : State :=
  let x := s.die d
  let ws := x.walks
  let s := s.setDie d { x with tlb2 := x.tlb2.filter (fun t => !t.removed kind asid va), walks := [], wcache := [] }
  let s := { s with
    cores := s.cores.map (fun e => if e.1 / 64 = d then
      (e.1, { e.2 with tlb1 := e.2.tlb1.filter (fun t => !t.removed kind asid va) }) else e) }
  ws.foldl (fun s w =>
    if (s.slot w.slot).wait = .walk then s.setSlot w.slot { s.slot w.slot with wait := .none } else s) s

/-- The die of the party that made a request to another package, or to the host. -/
def Remote.die (r : Remote) : Nat := if r.who < 5 ∧ r.who ≠ 1 then dieOfSlot r.a else dieOfCore r.a
def HostReq.die (r : HostReq) : Nat := if r.kind < 5 ∧ r.kind ≠ 1 then dieOfSlot r.a else dieOfCore r.a

/-- The accesses within reach that are not finished: of threads, as (slot, order), loads and then buffered stores; and of
threads and engines alike what has been asked of another package or of the host, under numbers of its own. -/
def State.pendingOf (s : State) (all : Bool) (d : Nat) : List (Nat × Nat) :=
  s.slots.flatMap (fun e =>
    if all || e.1 / 1024 == d then
      e.2.outs.map (fun o => (e.1, o.seq)) ++
        (s.wcbOf e.1).flatMap (fun w => w.sts.map (fun t => (e.1, t.1)))
    else []) ++
    s.remotes.flatMap (fun e => match e.2 with
      | some r => if all || r.die == d then [(2 ^ 20, r.id)] else []
      | none => []) ++
    s.hostRq.flatMap (fun e => match e.2 with
      | some r => if (all || r.die == d) && r.kind != 8 then [(2 ^ 21, e.1)] else []
      | none => [])

/-- tlbinv: removal, and then the wait of R145. -/
def execTlbinv (d a r k : Nat) (s : State) : SysResult :=
  .next (s.run [d, a] [(5, 0)]
    (if s.me.mode = 0 then s.raise 0x02 s.wordD
     else match s.me.wait with
     | .inval l =>
       let now := s.pendingOf true 0
       if l.any (fun p => now.contains p) then s else (s.setMe { s.me with wait := .none }).advance
     | _ =>
       let asid := bits (s.rg d) 0 16
       let va := (s.rg a).toNat
       let die := dieOfSlot s.cur
       let l := s.pendingOf (r == 1) die
       let s := if r = 1 then
           (((s.invDie 0 k asid va).invDie 1 k asid va).invDie 2 k asid va).invDie 3 k asid va
         else s.invDie die k asid va
       if l.isEmpty then s.advance else s.setMe { s.me with wait := .inval l }))

/-! ## Halt -/

/-- halt (19 R408): it completes once an asynchronous trap is pending. -/
def execHalt (s : State) : SysResult :=
  .next (s.run [] []
    (if s.me.mode = 0 then s.raise 0x02 s.wordD
     else if (s.nextPend s.cur).isSome then (s.setMe { s.me with wait := .none }).advance
     else if s.me.wait = .halt then s else s.setMe { s.me with wait := .halt }))

end Sys2Proof.Machine
end

