-- ==== Sys2Proof/Machine/Threads.lean ====
section
/-! DEFINITION. Threads: starting and ending them, what a blocked one waits for, resuming a parked party, and self-tests
that software runs (06 R115; 07 R158 to R160; 18 R382, R394 to R397; 19 R409). -/

namespace Sys2Proof.Machine

/-- What every meaning answers. -/
abbrev ThreadResult := Host.Outcome State Fault Refusal

/-! ## Starting threads (18 R382, R394) -/

/-- A thread in a slot takes part in the segment of its load that is under way (12 R267). -/
def State.inSegment (s : State) (k marks : Nat) : State := s.setSlot k { s.slot k with marks := marks }

/-- tspawn: the lowest free slot of the core, or all ones. A thread so started is numbered after its load's own ones. -/
def execTspawn (d a b : Nat) (s : State) : ThreadResult :=
  let pc := s.rg a
  let x := s.me
  .next (s.run [d, a, b] [(5, 0)]
    (if aligned pc 4 = false then s.raise 0x03 pc
     else if s.allPerformed s.cur false = false then s.force s.cur
     else match (if s.freeSlots s.myCore x.asidN = 0 then none else s.lowSlot s.myCore) with
     | none => (s.wr d 0xFFFFFFFFFFFFFFFF).advance
     | some k =>
       let t := (s.startThread k x.mode x.asid x.ptbase pc [(1, s.rg b), (2, BitVec.ofNat 64 (s.cur % 16))] false
         x.task x.load x.cut (65536 + s.clock) x.isFeed).inSegment k x.marks
       (t.wr d (BitVec.ofNat 64 (k % 16))).advance))

/-- The cut of a load whose threads run on a die: cut 0 when none of its cuts stands there. -/
def Load.cutOn (x : Load) (d : Nat) : Nat := (x.cuts.findIdx? (fun c => c.die == d)).getD 0

/-- A thread command at its turn starts its thread, once a slot that may take it is free. -/
def execThreadCommandStart (core : Nat) (s : State) : ThreadResult :=
  match firstOf 3 0 (s.core core).engq with
  | none => .next s
  | some i => match (s.core core).engq[i]? with
    | none => .next s
    | some m =>
      if s.running = false ∨ s.cmdHeld m ∨ s.freeSlots core (bits m.asid 0 16) = 0 then .next s
      else match s.lowSlot core with
      | none => .next s
      | some k =>
        let cut := match s.load m.load with | some l => l.cutOn (dieOfCore core) | none => 0
        let s := s.dropCmd core i
        let s := s.startThread k 0 m.asid m.ptb (m.dw 0 1) [(1, m.dw 0 2), (2, BitVec.ofNat 64 (m.by_ % 4096))] true
          m.task m.load cut (65536 + s.clock) (m.load != 0)
        .next (s.inSegment k ((if (s.protOf m).isSome then s.cmdWave m else 1) - 1))

/-! ## Ending a thread (18 R391, R395; 05 R101) -/

/-- The live feed thread that takes a load over from a thread that ends: that of the lowest cut, then the lowest index. -/
def State.heir (s : State) (l k : Nat) : Option Nat :=
  ((s.feeds l).filter (fun e => e.1 != k)).foldl (fun (r : Option Nat) (e : Nat × Slot) =>
    match r with
    | none => some e.1
    | some j =>
      let y := s.slot j
      if e.2.cut < y.cut ∨ (e.2.cut = y.cut ∧ e.2.thr < y.thr) then some e.1 else some j) none

/-- A load's owner ends: a load placed by place is released for good; a task's load passes to another of its live feed
threads, with the reports that wait for it. -/
def State.leaveLoad (s : State) (k l : Nat) (x : Load) : State :=
  if x.byPlace then s.releaseLoad l x true
  else
    let mine := (s.slot k).pend.filter (fun p => p.src / 2 ^ 24 == l)
    let s := s.setLoad l { x with owner := s.heir l k }
    match s.heir l k with
    | some j => mine.foldl (fun s p => s.pend j p.cause p.tval p.src) s
    | none => s

/-- The loads that a slot owns. -/
def State.owned (s : State) (k : Nat) : List (Nat × Load) :=
  s.loads.filterMap (fun (e : Nat × Option Load) => match e.2 with
    | some x => if x.owner = some k then some (e.1, x) else none
    | none => none)

/-- texit: once the thread's loads have returned and its stores have drained. -/
def execTexit (s : State) : ThreadResult :=
  let k := s.cur
  .next (s.run [] []
    (if s.me.settled = false then s
     else if s.drained k = false then s.force k
     else
       let l := s.me.feedOf
       let s := (s.owned k).foldl (fun s e => match s.load e.1 with
         | some x => s.leaveLoad k e.1 x
         | none => s) s
       let s := s.freeSlot k
       if l = 0 then s else s.wavesOn l 2))

/-! ## yield (18 R396) -/

/-- The other ready slots of a slot's core. -/
def State.otherReady (s : State) (k : Nat) : List Nat :=
  ((List.range 16).map (fun t => slotKey (k / 16) t)).filter (fun j => j != k && (s.slot j).st == .ready)

/-- yield. -/
def execYield (s : State) : ThreadResult :=
  .next (s.run [] []
    (let t := s.advance
     t.setMe { t.me with wait := .yield (s.cycle + 16) (s.otherReady s.cur) }))

/-! ## Blocked threads (06 Table 06-2) -/

/-- What a slot is blocked on has come about. -/
def State.mayWake (s : State) (k : Nat) : Bool :=
  match (s.slot k).wait with
  | .queue b => match (s.slot k).bind b with
    | none => true
    | some x => if x.out then !s.qFull x.key
      else (s.tokenFor x.key (bindKey k b) (reqOrder (s.slot k).since (k / 16) (k % 16))).isSome
  | .engine c => !s.engFull c
  | .command h => s.cmdDone (BitVec.ofNat 64 h)
  | .cut l => match s.load l with | some x => x.st == .finished || x.st == .killed | none => true
  | _ => false

/-- A blocked slot whose condition holds is ready in the cycle after, and its instruction executes again. -/
def execBlockedWake (core slot : Nat) (s : State) : ThreadResult :=
  let k := slotKey core slot
  let x := s.slot k
  if (x.st = .blockedQueue ∨ x.st = .blockedWait) ∧ s.mayWake k then
    .next (s.setSlot k { x with st := .ready, nextAt := s.cycle + 1 })
  else .next s

/-! ## Resuming a parked party (07 R158 to R160; 13 Table 13-4; 19 R405) -/

/-- A resumption that names no party counts in STALE. -/
def State.stale (s : State) (d : Nat) : State := s.setDie d { s.die d with fqstale := satAdd (s.die d).fqstale 1 0xFFFF }

/-- The load of a feed thread or command is being saved or put back: what resumes there does so at its restore. -/
def State.away (s : State) (l : Nat) : Bool :=
  match s.load l with | some x => x.st == .draining || x.st == .placed | none => false

/-- What a resumption makes of a slot that holds the party: none where it has no effect. machine tells whether it comes
from machine mode or through FRESUME. -/
def Slot.resumes (x : Slot) (away machine : Bool) : Option Slot :=
  match x.st with
  | .parked => some { x with st := .ready, wait := .none }
  | .stopped => if x.wasParked && !x.resumed then some { x with resumed := true } else none
  | .trapped =>
    if !machine then none
    else if away then (if x.resumed then none else some { x with resumed := true })
    else some { x with st := .ready, pc := x.tepc &&& ~~~3, wait := .none }
  | _ => none

/-- The slot whose party has a number on a die, of those that hold one. -/
def heldParty (d seq : Nat) (x : Slot) : Bool :=
  x.parkDie == d && x.parkSeq == seq && (x.st == .parked || x.st == .trapped || (x.st == .stopped && x.wasParked))

def Stream.isParty (x : Stream) (d seq : Nat) : Bool := x.st == 2 && x.parkDie == d && x.parkSeq == seq && !x.resumed
def CopyEng.isParty (x : CopyEng) (d seq : Nat) : Bool := x.st == 2 && x.parkDie == d && x.parkSeq == seq && !x.resumed

/-- The parties of a saved image that a number names are to go on at the restore. -/
def Snap.resume (y : Snap) (d seq : Nat) (machine : Bool) : Snap :=
  { y with
    slots := y.slots.map (fun (e : Nat × Slot) =>
      if heldParty d seq e.2 then (e.1, (e.2.resumes true machine).getD e.2) else e),
    streams := y.streams.map (fun (e : Nat × Stream) => if e.2.isParty d seq then (e.1, { e.2 with resumed := true }) else e),
    copies := y.copies.map (fun (e : Nat × CopyEng) => if e.2.isParty d seq then (e.1, { e.2 with resumed := true }) else e) }

/-- The parties in the images of saved loads. -/
def State.resumeSaved (s : State) (d seq : Nat) (machine : Bool) : State :=
  { s with loads := s.loads.map (fun (e : Nat × Option Load) => (e.1, e.2.map (fun x =>
      if x.st = .saved ∨ x.st = .restoring then
        { x with snaps := x.snaps.map (fun y => if y.wave = x.top then y.resume d seq machine else y) }
      else x))) }

/-- The parties that stand in slots and engines. -/
def State.resumeLive (s : State) (d seq : Nat) (machine : Bool) : State :=
  { s with
    slots := s.slots.map (fun (e : Nat × Slot) =>
      if heldParty d seq e.2 then (e.1, (e.2.resumes (e.2.isFeed && s.away e.2.load) machine).getD e.2) else e),
    cores := s.cores.map (fun (e : Nat × Core) => (e.1, { e.2 with
      streams := mapTab (fun (x : Stream) =>
        if x.isParty d seq then (if s.away x.cmd.load then { x with resumed := true } else x.goesOn) else x) e.2.streams,
      copies := mapTab (fun (x : CopyEng) =>
        if x.isParty d seq then (if s.away x.cmd.load then { x with resumed := true } else x.goesOn) else x) e.2.copies })) }

/-- The party that a sequence number of a die names goes on; a resumption that changes nothing is stale. -/
def State.resumeParty (s : State) (d seq : Nat) (machine : Bool) : State :=
  let t := (s.resumeLive d seq machine).resumeSaved d seq machine
  if t.slots = s.slots ∧ t.cores = s.cores ∧ t.loads = s.loads then s.stale d else t

/-- tresume. -/
def execTresume (a : Nat) (s : State) : ThreadResult :=
  .next (s.run [a] [(5, 0)]
    (if s.me.mode = 0 then s.raise 0x02 s.wordD
     else if s.allPerformed s.cur true = false then s.forceAll s.cur
     else (s.resumeParty (bits (s.rg a) 32 2) (bits (s.rg a) 0 32) (s.me.mode == 2)).advance))

/-- A write of FRESUME. -/
def execFresume (die seq : Nat) (s : State) : ThreadResult :=
  if die ≥ 4 then .next s else .next (s.resumeParty die (seq % 2 ^ 32) true)

/-! ## selftest (19 R409) -/

/-- A load holds a facet of a die. -/
def State.facetHeld (s : State) (d f : Nat) : Bool :=
  s.loads.any (fun (e : Nat × Option Load) => match e.2 with
    | some l => l.st.holds && l.cuts.any (fun c => c.holds d f)
    | none => false)

/-- The number of the vector tile at a tile index of a facet (05 R88), none for any other tile. -/
def vecOf (i : Nat) : Option Nat :=
  if (i / 8 = 0 ∨ i / 8 = 4) ∧ i % 2 = 1 then some (i / 8 / 4 * 4 + i % 8 / 2) else none

/-- What a selector asks for (Table 19-5): a part under test, or a result code at once. -/
def State.testPart (s : State) (v : Word) : Nat ⊕ List Nat :=
  let kind := bits v 60 4
  let die := bits v 40 2
  let f := bits v 32 8
  let i := bits v 24 6
  let c := bits v 16 8
  let n := bits v 0 6
  if kind > 2 ∨ bits v 42 18 ≠ 0 ∨ bits v 30 2 ≠ 0 ∨ bits v 9 7 ≠ 0 ∨ bits v 6 2 ≠ 0 then .inl 4
  else if kind = 0 then
    if n > 7 then .inl 4 else if (s.core c).retired then .inl 3 else .inr [0, c, n, bits v 8 1]
  else if f > 191 then .inl 4
  else if kind = 1 then
    if bit (Tab.get 0 (s.die die).sick f) i then .inl 3
    else if s.facetHeld die f then .inl 2
    else .inr [1, tileKey die f i]
  else match vecOf i with
  | none => .inl 4
  | some t =>
    if bit (Tab.get 0 (s.die die).sick f) i ∨ (s.die die).lost.contains (f, t, n) then .inl 3
    else if s.facetHeld die f then .inl 2
    else .inr [2, tileKey die f i, n]

/-- selftest: a refusal at once, or the test, for which the thread waits. -/
def execSelftest (d a : Nat) (s : State) : ThreadResult :=
  .next (s.run [d, a] [(5, 0)]
    (if s.me.mode ≠ 2 then s.raise 0x02 s.wordD
     else match s.me.wait with
     | .test _ => s
     | _ => match s.testPart (s.rg a) with
       | .inl r => (s.wr d (BitVec.ofNat 64 r)).advance
       | .inr p => (s.startTest p (some s.cur) false none 0).setMe { s.me with wait := .test s.nTest }))

end Sys2Proof.Machine
end

