-- ==== Sys2Proof/Machine/Probes.lean ====
section
/-! DEFINITION. Deadlock probes (06 R131; 13 R286 to R288): whom a blocked party waits for, and how a probe advances. A
party is a thread (its slot's number), a stream (its key), an element of a cut (with its operator slot), or a fabric
channel, empty or full, through which an element waits for another. -/

namespace Sys2Proof.Machine

/-- What every meaning answers. -/
abbrev ProbeResult := Host.Outcome State Fault Refusal

/-! ## Parties -/

def partyElem (key n : Nat) : Nat := 2 ^ 24 + key * 16 + n
def partyChan (key port vc : Nat) (full : Bool) : Nat := 2 ^ 30 + (key * 256 + chan port vc) * 2 + b2n full
def isThread (p : Nat) : Bool := decide (p < 4096)
def isChan (p : Nat) : Bool := decide (2 ^ 30 ≤ p)
/-- The tile, port and VC of a channel. -/
def chanTile (p : Nat) : Nat := (p - 2 ^ 30) / 512
def chanPort (p : Nat) : Nat := (p - 2 ^ 30) / 2 % 256 / 32
def chanVc (p : Nat) : Nat := (p - 2 ^ 30) / 2 % 32

/-- The party of a producer or consumer of a queue. -/
def partyOf (who : Nat) : Nat := if who < 2 ^ 20 then who / 16 else who

/-- The element of a tile that a slot of it stands for: a tile without operator slots, or a timed one, is one element. -/
def Tile.party (t : Tile) (key n : Nat) : Nat := partyElem key (if t.kind = 0 ∧ t.field 0 % 2 = 0 then n else 0)

/-! ## Edges (Table of R286) -/

/-- The tile whose feed-side channel a circuit's words enter: one of the low 16 VCs at the port's memory tile, another at
the vector tile beside it (10 R213). -/
def State.circuitTile (s : State) (key : Nat) : Option Nat :=
  match s.load (circuitLoad key) with
  | none => none
  | some x =>
    if x.st.holds = false then none
    else (x.cuts[circuitCut key]?).map (fun c =>
      c.tileAt ((key - 2 ^ 20) / 512 % 64 * 64 + portTile ((key - 2 ^ 20) / 64 % 8)) + (if (key - 2 ^ 20) / 2 % 32 < 16 then 0 else 1))

/-- What sends words out of a tile on a port: elements whose words a condition on VC and ROUTE picks, and channels of some
VCs that its switch forwards there. -/
def State.senders (s : State) (key o : Nat) (pick : Nat → Nat → Bool) (vcs : List Nat) : List Nat :=
  let t := s.tileOr key
  let f := routeFields t.kind
  let own := (t.outputs.filter (fun e => e.1 == o && pick e.2.1 e.2.2.1)).flatMap (fun e =>
    if t.kind = 0 then ((List.range 16).filter (fun n => e.2.2.2.testBit n)).map (t.party key) else [t.party key 0])
  let thru := ((List.range f.2).map (fun i => t.field (f.1 + i))).filter (fun v => v.testBit 31 && v.testBit (23 + o))
  (own ++ thru.flatMap (fun v => (vcs.filter (fun vc => pick vc (v % 512))).map (fun vc => partyChan key (fld v 28 3) vc false))).eraseDups

/-- The producers of a queue. -/
def State.producers (s : State) (key : Nat) : List Nat :=
  (s.queue key).prods.map partyOf ++
    (if keyIsCircuit key ∧ key % 2 = 0 then
      match s.circuitTile key with
      | some t =>
        let vc := (key - 2 ^ 20) / 2 % 32
        let m := feedTile t
        s.senders m 4 (fun v _ => v == vc) [vc] ++ s.senders (m + 1) 4 (fun v _ => v == vc) [vc]
      | none => []
    else [])

/-- The consumers of a queue. -/
def State.consumers (s : State) (key : Nat) : List Nat :=
  (s.queue key).cons.map partyOf ++
    (if keyIsCircuit key ∧ key % 2 = 1 then
      match s.circuitTile key with
      | some t => [partyChan t 4 ((key - 2 ^ 20) / 2 % 32) true]
      | none => []
    else [])

/-- Where a word that a tile would send on a port waits to go: the full channel it faces, or the consumers of the full
queue. -/
def State.receivers (s : State) (key p : Nat) (w : LW) : List Nat :=
  match s.tileLoad key with
  | none => []
  | some (l, x) => match State.destOf l x key p w with
    | .tile n q => [partyChan n q w.vc true]
    | .up (.queue k) => if s.qFull k then s.consumers k else []
    | .up (.bridge b) =>
      let e := x.brg.getD b 0
      match x.cuts[(brgDst e).1]? with
      | some c => [partyChan (c.tileAt ((brgDst e).2.1 * 64 + portTile (brgDst e).2.2) + (if bits e 22 5 < 16 then 0 else 1)) 4 (bits e 22 5) true]
      | none => []
    | _ => []

/-- The receivers of a word on a set of ports. -/
def State.receiversOn (s : State) (key ports : Nat) (w : LW) : List Nat :=
  ((List.range 5).filter (fun p => ports.testBit p)).flatMap (fun p => s.receivers key p w)

/-- What feeds an empty channel: the tile it faces, or the bridges and the queue circuit of its feed port. -/
def State.feedersOf (s : State) (key p vc : Nat) : List Nat :=
  match s.tileLoad key with
  | none => []
  | some (l, x) =>
    if p < 4 then
      match neighbour key p with
      | some n => if x.sameCut key n then s.senders n ((p + 2) % 4) (fun v _ => v == vc) [vc] else []
      | none => []
    else match x.elemOn (feedTile key) with
    | none => []
    | some (cut, e) =>
      let k := circuitKey l cut (e / 64) (feedNo (e % 64)) vc true
      let brs := x.brg.filter (fun w => brgDst w == (cut, e / 64, feedNo (e % 64)) && bits w 22 5 == vc)
      (if (s.queue k).toks.isEmpty then s.producers k else []) ++
        brs.flatMap (fun w => match x.cuts[(brgSrc w).1]? with
          | some c =>
            let m := c.tileAt ((brgSrc w).2.1 * 64 + portTile (brgSrc w).2.2)
            s.senders m 4 (fun _ r => r == bits w 27 9) (List.range 32) ++ s.senders (m + 1) 4 (fun _ r => r == bits w 27 9) (List.range 32)
          | none => [])

/-- The elements of a tile that take words from a channel. -/
def Tile.takers (t : Tile) (key p vc : Nat) : List Nat :=
  if t.kind = 0 ∧ t.field 0 % 2 = 0 then
    ((t.chanIns.filter (fun e => e.2.2.1 == p && e.2.2.2 == vc)).map (fun e => partyElem key e.1)).eraseDups
  else if t.usedChans.contains (p, vc) then [partyElem key 0] else []

/-- An operator slot waits: for the receivers of what stands in its output register, or for the senders of its empty
inputs. -/
def State.slotEdges (s : State) (key n : Nat) : List Nat :=
  let t := s.tileOr key
  let x := t.slot n
  match x.out with
  | o :: _ => s.receiversOn key o.ports o.w ++ (o.takes.map (fun k => partyElem key (k / 3))).eraseDups
  | [] =>
    if x.flight.isEmpty = false ∨ t.fireable s.fab n then []
    else
      let used := t.usedIns false n
      ((List.range 3).filter (fun i => used.getD i false && (t.head s.fab n i).isNone)).flatMap (fun i =>
        let src := srcOf (t.inw false n i)
        if src < 16 then [partyElem key src]
        else if (16 ≤ src ∧ src ≤ 19) ∨ src = 22 then
          (if (t.ch (srcPort src) (vcOf (t.inw false n i))).isEmpty then [partyChan key (srcPort src) (vcOf (t.inw false n i)) false] else [])
        else [])

/-- A tile that is one element waits: for the receivers of the words it has to send, or for the senders of its empty
channels. -/
def State.tileEdges (s : State) (key : Nat) : List Nat :=
  let t := s.tileOr key
  match t.sendq with
  | e :: _ => s.receiversOn key e.2.2.1 e.2.1
  | [] =>
    let full := t.landing.flatMap (fun f => s.receiversOn key f.2.2.ports f.2.2.w)
    if full.isEmpty = false then full
    else ((if t.kind = 0 then t.duePops.eraseDups else t.usedChans).filter (fun c => (t.ch c.1 c.2).isEmpty)).map
      (fun c => partyChan key c.1 c.2 false)

/-- A channel, empty or full: whom one that waits for it waits for. -/
def State.chanEdges (s : State) (key p vc : Nat) (full : Bool) : List Nat :=
  let t := s.tileOr key
  match full, t.ch p vc with
  | false, [] => s.feedersOf key p vc
  | false, _ => []
  | true, h :: _ =>
    if (t.ch p vc).length < 2 ∨ h.met = false then []
    else s.receiversOn key h.fwd h.w ++ (if h.local_ then t.takers key p vc else [])
  | true, [] => []

/-- The parties for which a blocked party waits; none for one that is not blocked. -/
def State.waitsFor (s : State) (p : Nat) : List Nat :=
  if isThread p then
    let x := s.slot p
    match x.st, x.wait with
    | .blockedQueue, .queue b => match x.bind b with
      | none => []
      | some y =>
        if y.out then (if s.qFull y.key then s.consumers y.key else [])
        else if (s.tokenFor y.key (bindKey p b) (reqOrder x.since (p / 16) (p % 16))).isNone then s.producers y.key else []
    | _, _ => []
  else if isChan p then s.chanEdges (chanTile p) (chanPort p) (chanVc p) (p % 2 == 1)
  else if p < 2 ^ 24 then
    match s.stream ((p - 2 ^ 20) / 32) (p % 32) with
    | none => []
    | some x =>
      if x.st ≠ 1 then []
      else if x.drain then (if x.emptyAt ≠ 0 ∧ (s.queue x.key).toks.isEmpty then s.producers x.key else [])
      else if x.outw.isEmpty = false ∧ s.qFull x.key then s.consumers x.key
      else if x.ikey ≠ 0 ∧ x.idxAt ≠ 0 ∧ (s.queue x.ikey).toks.isEmpty then s.producers x.ikey
      else []
  else
    let key := (p - 2 ^ 24) / 16
    let t := s.tileOr key
    if t.kind = 0 ∧ t.field 0 % 2 = 0 then s.slotEdges key (p % 16) else s.tileEdges key

/-- What tells whether a party has moved since a probe passed it: a mark is in place while this stays (R287). -/
def State.mark (s : State) (p : Nat) : Nat :=
  if isThread p then (s.slot p).since
  else if isChan p then 0
  else if p < 2 ^ 24 then
    match s.stream ((p - 2 ^ 20) / 32) (p % 32) with | some x => x.pos + x.idxNext | none => 0
  else
    let t := s.tileOr ((p - 2 ^ 24) / 16)
    let x := t.slot (p % 16)
    if t.kind = 0 ∧ t.field 0 % 2 = 0 then
      x.fired * 2 ^ 24 + x.out.length * 2 ^ 12 + (match x.out with | o :: _ => o.ports * 64 + o.takes.length | [] => 0)
    else t.did * 2 ^ 24 + t.sendq.length

/-! ## Probes -/

/-- The first parties of a probe that a cutwait starts: the sinks of the load. -/
def State.sinks (s : State) (l : Nat) : List Nat :=
  match s.load l with
  | none => []
  | some x =>
    let out := x.elems.flatMap (fun (e : Nat × Nat × Nat) =>
      let t := s.tileOr e.2.2
      ((t.outputs.filter (fun o => o.1 == 4)).flatMap (fun o =>
        if t.kind = 0 then ((List.range 16).filter (fun n => o.2.2.2.testBit n)).map (t.party e.2.2) else [t.party e.2.2 0])))
    let full := (s.queues.filter (fun e => keyIsCircuit e.1 && circuitLoad e.1 == l && e.1 % 2 == 0 && s.qFull e.1)).flatMap
      (fun (e : Nat × Queue) => s.consumers e.1)
    (out ++ full).eraseDups

/-- A blocked wait has lasted BLKTHR cycles: it starts its one probe (R131, R286). -/
def execProbeStart (core slot : Nat) (s : State) : ProbeResult :=
  let k := slotKey core slot
  let x := s.slot k
  let thr := bits x.blkthr 0 32
  if thr = 0 ∨ x.probed ∨ s.cycle < x.since + thr then .next s
  else
    let start := fun (l : List Nat) =>
      let s' := s.setSlot k { x with probed := true }
      { s' with nProbe := s.nProbe + 1,
                probes := s.probes ++ [{ id := s.nProbe, slot := k, since := x.since, wait := x.wait, at_ := 0, hops := 0,
                                         paths := l.map (fun p => [(p, s.mark p)]), back := none }] }
    match x.st, x.wait with
    | .blockedQueue, .queue _ => .next (start [k])
    | .blockedQueue, .engine _ => .next (start [k])
    | .blockedWait, .cut l => .next (start (s.sinks l))
    | _, _ => .next s

/-- The load, cut and element on a tile. -/
def State.elemAt (s : State) (key : Nat) : Option (Nat × Load × Nat × Nat) :=
  match s.tileLoad key with
  | some (l, x) => (x.elemOn key).map (fun e => (l, x, e.1, e.2))
  | none => none

/-- A cycle that holds no access thread is reported once for its channel (R288); cyc lists the cycle's parties from the one
at which it closed. -/
def State.fabricDeadlock (s : State) (cyc : List Nat) : State :=
  if cyc.any isThread then s
  else match cyc.find? isChan with
  | none => s
  | some p =>
    let key := chanTile p
    match s.elemAt key with
    | none => s
    | some (l, x, cut, e) =>
      let mine := 2 ^ 40 + key * 256 + chan (chanPort p) (chanVc p)
      if Tab.get 0 x.seen mine ≠ 0 then s
      else (s.setLoad l { x with seen := Tab.set 0 x.seen mine 1 }).tellOwner l 0x0B
        (field 48 16 l ||| field 46 2 cut ||| field 44 2 (tileDie key) ||| field 32 12 e ||| field 29 3 (chanPort p) |||
          field 24 5 (chanVc p))

/-- A probe is replaced, or ends. -/
def State.setProbe (s : State) (n : Nat) (p : Option Probe) : State :=
  { s with probes := s.probes.filterMap (fun q => if q.id = n then p else some q) }

/-- One path of a probe goes on: the paths it becomes, whether it has come back to its origin, and the cycles it has found. -/
def State.extend (s : State) (origin : Nat) (others : List (List (Nat × Nat))) (path : List (Nat × Nat)) :
    List (List (Nat × Nat)) × Bool × List (List Nat) :=
  match path with
  | [] => ([], false, [])
  | (p, _) :: _ =>
    let ns := s.waitsFor p
    let on := fun (q : Nat) => path.any (fun e => e.1 == q)
    let cyc := (ns.filter (fun q => q != origin && on q)).map (fun q => (path.takeWhile (fun e => e.1 != q)).map (fun e => e.1) ++ [q])
    let fresh := ns.filter (fun q => q != origin && !on q && others.all (fun o => o.all (fun e => e.1 != q)))
    (fresh.map (fun q => (q, s.mark q) :: path), ns.contains origin, cyc.map List.reverse)

/-- A confirmed probe (R287): the origin, if it still waits as it did, takes cause 0x0B at its blocking instruction. For a
cutwait, which has no binding, the spec states no TVAL (log 12). -/
def State.confirm (s : State) (p : Probe) : State :=
  let x := s.slot p.slot
  if x.since ≠ p.since ∨ x.wait ≠ p.wait ∨ (x.st ≠ .blockedQueue ∧ x.st ≠ .blockedWait) then s
  else match x.wait with
  | .queue b =>
    let t := s.raiseAt p.slot 0x0B (BitVec.ofNat 64 b) x.pc
    match x.bind b with | some y => t.qSync y.key | none => t
  | .cut _ =>
    let f := s.free 4
    f.1.raiseAt p.slot 0x0B (field 0 4 f.2) x.pc
  | _ => s

/-- Another probe that comes home in this network cycle has a lower core, or slot (R287). -/
def State.later (s : State) (p : Probe) : Bool :=
  s.probes.any (fun q => q.back == some [] && q.at_ != s.net + 1 && decide (q.slot < p.slot))

/-- A probe advances by one hop, in each network cycle once. -/
def execProbeHop (id : Nat) (s : State) : ProbeResult :=
  match s.probes.find? (fun p => p.id == id) with
  | none => .next s
  | some p =>
    if s.running = false ∨ p.at_ = s.net + 1 then .next s
    else match p.back with
    | some [] => if s.later p then .next s else .next ((s.setProbe id none).confirm p)
    | some ((q, m) :: r) =>
      if s.mark q = m ∧ (s.waitsFor q).isEmpty = false then .next (s.setProbe id (some { p with back := some r, at_ := s.net + 1 }))
      else .next (s.setProbe id none)
    | none =>
      if p.hops ≥ 4096 ∨ p.paths.isEmpty then .next (s.setProbe id none)
      else
        let ends := p.paths.map (fun path => (path, s.extend p.slot (p.paths.filter (fun o => o != path)) path))
        match ends.find? (fun e => e.2.2.1) with
        | some e => .next (s.setProbe id (some { p with back := some e.1, at_ := s.net + 1 }))
        | none =>
          let s := (ends.flatMap (fun e => e.2.2.2)).foldl (fun s c => s.fabricDeadlock c) s
          .next (s.setProbe id (some { p with paths := ends.flatMap (fun e => e.2.1), hops := p.hops + 1, at_ := s.net + 1 }))

end Sys2Proof.Machine
end

