-- ==== Sys2Proof/Machine/Repair.lean ====
section
/-! DEFINITION. What follows an error (12 R259 to R264): the end of a self-test, the retirement of a part, and the scrubber. -/

namespace Sys2Proof.Machine

/-- What every meaning answers. -/
abbrev RepairResult := Host.Outcome State Fault Refusal

/-! ## Retirement (R260) -/

/-- The record of the repair log for a part: its kind (0 core, 1 tile, 2 local-store entry), die, number and lane. -/
def repairOf (part : List Nat) : List Nat :=
  match part with
  | [0, c, unit, pos] => [0, c / 64, c, unit * 2 + pos]
  | 1 :: key :: r => [1, tileDie key, key, (r.getD 0 0) * 256 + r.getD 1 0]
  | 2 :: key :: r => [2, tileDie key, key * 64 + r.getD 0 0, 0]
  | _ => part

/-- The part of Table 12-9 is retired: a core at once, a tile or an entry as soon as no cut holds its facet. -/
def State.retirePart (s : State) (part : List Nat) : State :=
  let log := { s with pkg := { s.pkg with facts := { s.pkg.facts with repairs := s.pkg.facts.repairs ++ [repairOf part] } } }
  match part with
  | 0 :: c :: _ => log.setCore c { log.core c with retired := true }
  | 1 :: key :: _ =>
    let d := tileDie key
    (log.setDie d { log.die d with retire := (log.die d).retire ++ [(tileFacet key, 0, key % 64)] }).applyRetire d
  | 2 :: key :: r =>
    let d := tileDie key
    (log.setDie d { log.die d with retire := (log.die d).retire ++ [(tileFacet key, 1, (vecOf (key % 64)).getD 0 * 64 + r.getD 0 0)] }).applyRetire d
  | _ => log

/-! ## The end of a self-test (R259; 19 R409) -/

/-- 24 hours in network cycles of 1.6 GHz. -/
def day : Nat := 138240000000000

/-- The verdict of a test that follows a machine check, and the transient history after it: 1 transient, 2 lasting by
failure, 3 lasting by recurrence. -/
def State.verdict (s : State) (t : Test) (pass : Bool) : Nat × List (List Nat × Nat) :=
  let past := s.pkg.trans.filter (fun e => e.1 == t.part && decide (s.net < e.2 + day))
  if !pass then (2, s.pkg.trans)
  else if t.inj then (1, s.pkg.trans)
  else if past.length ≥ 2 then (3, s.pkg.trans ++ [(t.part, s.net)])
  else (1, s.pkg.trans ++ [(t.part, s.net)])

/-- VERDICT of a machine-check record that still stands in the log, and ACTION 3 where the load is relocated. -/
def State.judge (s : State) (at_ : Nat × Nat) (v : Nat) (moved : Bool) : State :=
  let x := s.die at_.1
  if (x.mnext + 65536 - at_.2) % 65536 > 64 then s
  else match Tab.get none x.mrec (at_.2 % 64) with
  | none => s
  | some ws =>
    let w := setBits (ws.getD 1 0) 62 2 v
    let w := if moved then setBits w 58 3 3 else w
    s.setDie at_.1 { x with mrec := Tab.set none x.mrec (at_.2 % 64) (some (setNth ws 1 w)) }

/-- The result code of a selftest instruction is written and its thread goes on. -/
def State.testResult (s : State) (k id code : Nat) : State :=
  let x := s.slot k
  if x.wait ≠ .test id then s
  else s.setSlot k { x.setReg (fld x.word 21 5) (BitVec.ofNat 64 code) with pc := x.pc + 4, wait := .none }

/-- A protected load whose test ended in a lasting verdict leaves its facets before it goes on. -/
def State.relocate (s : State) (l : Nat) : State :=
  match s.load l with
  | some x => if x.prot ∧ x.st = .running ∧ x.redrain = false then s.setLoad l { x with redrain := true, why := 3 } else s
  | none => s

/-- A targeted self-test ends, 512 core cycles or 2,048 fabric cycles after it began; pass tells whether its part passed. -/
def execSelftestDone (test pass : Nat) (s : State) : RepairResult :=
  match s.tests.find? (fun t => t.id == test) with
  | none => .next s
  | some t =>
    if s.running = false ∨ (if t.part.headD 0 = 0 then s.cycle else s.fab) < t.due then .next s
    else
      let ok := pass == 1
      let s := { s with tests := s.tests.filter (fun u => u.id != test) }
      match t.slot with
      | some k => .next ((if ok then s else s.retirePart t.part).testResult k test (if ok then 0 else 1))
      | none =>
        let v := s.verdict t ok
        let s := { s with pkg := { s.pkg with trans := v.2 } }
        let prot := match s.load t.load with
          | some x => t.load != 0 && x.prot && x.st != .killing && x.st != .killed
          | none => false
        let s := match t.recAt with | some r => s.judge r v.1 (prot && decide (v.1 ≥ 2)) | none => s
        if v.1 ≥ 2 then .next ((s.relocate t.load).retirePart t.part) else .next s

/-! ## Errors of the hardware itself (R255, R256, R261; log 75) -/

/-- A line of DRAM, by its number among the package's lines, stands on a die. -/
def dieOfLine (line : Nat) : Option Nat := match placeOf (line * 64) with | .dram d _ => some d | _ => none

/-- A transient error stands in a unit of a core, as an ERRINJ would place it. -/
def State.coreUpset (s : State) (core : Nat) (w : Word) : State := { s with upsets := s.upsets ++ [(core, w)] }

/-- What a tile code or opcode of a mismatch tests: a pipe lane or switch, a matrix column, a memory tile's mode. -/
def upsetUnit (opcode : Nat) : Nat :=
  if 0xF0 ≤ opcode ∧ opcode ≤ 0xF2 then 2 else if 0xF8 ≤ opcode ∧ opcode < 0xFF then 3 else 0

/-- The element index of a tile in its load's cuts. -/
def State.elemNo (s : State) (key : Nat) : Nat :=
  match (s.tileLoad key).bind (fun e => e.2.elemOn key) with | some e => e.1 * 4096 + e.2 | none => 0

/-- Mismatches of one fabric cycle are recorded in ascending element index; the first of a load causes its action, every other
a record and a test (R256). -/
def State.fabricUpset (s : State) (errs : List (Nat × Nat × Nat × Nat × Nat)) : State :=
  let sorted := errs.foldl (fun r a => r.takeWhile (fun b => decide (s.elemNo b.1 ≤ s.elemNo a.1)) ++ a ::
    r.dropWhile (fun b => decide (s.elemNo b.1 ≤ s.elemNo a.1))) []
  sorted.foldl (fun s e =>
    if e.2.2.2.2 ≤ 3 then s.tileCheck e.1 (e.2.1 % 16) (e.2.2.1 % 8) (e.2.2.2.1 % 256) e.2.2.2.2 true false (upsetUnit (e.2.2.2.1 % 256))
    else s) s

/-- An uncorrectable error in an SRAM row (0), a local-store entry (1) or the accumulator file (2) of a tile: the row is
poisoned, a fabric machine check follows with SRC 4, and the row is tested (R259, R261). Its TVAL names no operator; the
opcode of a local-store entry is not stated (log 12). -/
def State.arrayError (s : State) (key kind n : Nat) : State :=
  match s.tileLoad key with
  | none => s
  | some (l, x) => match x.elemOn key with
    | none => s
    | some (cut, e) =>
      let t := s.tile key
      let t := if kind = 0 then { t with mem := { t.mem with rows := Tab.set Row.zero t.mem.rows n { Tab.get Row.zero t.mem.rows n with pois := true } } }
        else if kind = 1 then { t with ls := Tab.set Row.zero t.ls n { Tab.get Row.zero t.ls n with pois := true } }
        else t
      let s := s.setTile key t
      let f := s.free 8
      let s := if kind = 1 then f.1 else s
      let op := if kind = 0 then 0xF8 + t.field 1 % 7 else if kind = 1 then f.2 % 240 else 0xF1
      let part := if kind = 1 then [2, key, n] else [1, key, if kind = 0 then 3 else 2, n]
      s.fabricCheck l (fabTval l cut e key (if kind = 2 then n / 8 % 8 else 0) (if kind = 2 then n % 8 else 0) op 4) (some part) false false

/-- An uncorrectable error in a dirty last-level cache line poisons it; one in a provisional line poisons what it will commit;
one in queue storage poisons the word (R261). -/
def State.lineError (s : State) (line : Nat) : State :=
  match dieOfLine line with | none => s | some _ => s.setPoison line true
def State.provError (s : State) (l line : Nat) : State :=
  { s with prov := s.prov.map (fun p => if p.load = l ∧ p.line = line then { p with pois := true } else p) }
def State.queueError (s : State) (key n : Nat) : State :=
  let q := s.queue key
  match q.toks[n]? with
  | some t => s.setQueue key { q with toks := setNth q.toks n { t with w := poisonWord t.w.vc t.w.route } }
  | none => s

/-! ## The scrubber (R264) -/

/-- A record of an error in memory (R254): DW3 is the line's physical address. What its KIND, ASID and TVAL hold, which no
thread and no element gives, is not stated (log 12). -/
def State.lineCheck (s : State) (d line : Nat) : State :=
  let f := s.free 5
  let g := f.1.free 6
  g.1.logCheck d (f.2 % 2) 4 0 (f.2 / 2 % 65536) false (BitVec.ofNat 64 g.2) (BitVec.ofNat 64 (s.pkg.pkgNo % 1024 * 2 ^ 46 + line * 64))

/-- The patrol scrubber visits a line: 0 no error, 1 one that it corrects, 2 one that cannot be corrected and poisons it. -/
def execScrubVisit (line result : Nat) (s : State) : RepairResult :=
  match dieOfLine line with
  | none => .next s
  | some d =>
    if s.running = false ∨ result ≠ 2 ∨ Tab.get false s.poison line then .next s
    else .next ((s.setPoison line true).lineCheck d line)

/-- A scrub-clear: the line reads zero with valid check bits. -/
def State.scrubClear (s : State) (line : Nat) : State :=
  (s.store none (line * 64) 64 0).tellHolders line

/-- SCRUB with POIS = 0 on a DRAM line. -/
def execScrubClear (line : Nat) (s : State) : RepairResult :=
  match dieOfLine line with
  | none => .next s
  | some _ => .next (if s.running = false then s else if s.mustSnoop line true then s.askHost line else s.scrubClear line)

/-- SCRUB with POIS = 1 on a DRAM line. -/
def State.scrubPoison (s : State) (line : Nat) : State :=
  ((s.setPoison line true).report line).tellHolders line

def execScrubPoison (line : Nat) (s : State) : RepairResult :=
  match dieOfLine line with
  | none => .next s
  | some _ => .next (if s.running = false then s else if s.mustSnoop line true then s.askHost line else s.scrubPoison line)

end Sys2Proof.Machine
end

