-- ==== Sys2Proof/Machine/Boot.lean ====
section
/-! DEFINITION. Boot and resets (01 R26, R27, Table 01-6; 03 R59 to R61, R63, R64), thermal stop (01 R25), loss of power (03
R66), and the power governor (01 R23, R24). -/

namespace Sys2Proof.Machine

abbrev BootResult := Host.Outcome State Fault Refusal

/-! ## Boot steps (03 R60, Tables 03-8, 03-9) -/

/-- A boot step fails: STATE 7 with its code. -/
def State.bootFail (s : State) (code : Nat) : State :=
  let s := s.setDev 7
  { s with pkg := { s.pkg with errCode := code } }

/-- An image verifies: its public key is one that the ROM knows, and its signature is good under it. -/
def Image.verifies (i : Image) : Bool := i.key && i.good

/-- The image that the ROM runs and its slot (03 R63): A, then B. -/
def Facts.image (f : Facts) : Option (Nat × Image) :=
  if f.imageA.verifies then some (0, f.imageA) else if f.imageB.verifies then some (1, f.imageB) else none

/-- The tile of a vector tile's number. -/
def vecTile (v : Nat) : Nat := v / 4 * 32 + v % 4 * 2 + 1

/-- A repair record for each part that self-test fails (12 R260): its kind, die, number and lane. -/
def Facts.newRepairs (f : Facts) : List (List Nat) :=
  f.badCore.map (fun c => [0, c / 64, c, 0]) ++ f.badTile.map (fun e => [1, e.1 / 192, e.1 * 64 + e.2, 0]) ++
    f.badLs.map (fun e => [2, e.1 / 192, (e.1 * 64 + vecTile e.2.1) * 64 + e.2.2, 0])

/-- A repair record takes its part out (12 Table 12-9). -/
def State.mapOut (s : State) (r : List Nat) : State :=
  match r with
  | 0 :: _ :: c :: _ => s.setCore c { s.core c with retired := true }
  | 1 :: d :: key :: _ => s.setDie d { s.die d with retire := (s.die d).retire ++ [(tileFacet key, 0, key % 64)] }
  | 2 :: d :: n :: _ =>
    let key := n / 64
    s.setDie d { s.die d with
      retire := (s.die d).retire ++ [(tileFacet key, 1, (vecOf (key % 64)).getD 0 * 64 + n % 64)] }
  | _ => s

/-- The records of the repair log that boot accepts: those whose signature by the device key verifies (03 R63; 12 R260). -/
def Facts.accepted (f : Facts) : List (List Nat) := f.repairs.filter (fun r => !f.badSig.contains r)

/-- Step 4: self-test builds the facet health map and the core map from what it finds and from the records accepted, and adds
records for new failures. -/
def State.selfTest (s : State) : State :=
  let f := s.pkg.facts
  let new := f.newRepairs.filter (fun r => !(f.accepted.any (fun q => q.take 3 == r.take 3)))
  let s := { s with pkg := { s.pkg with facts := { f with repairs := f.repairs ++ new, badSig := f.badSig.filter (fun r => !new.contains r) } } }
  ((f.accepted ++ new).foldl State.mapOut s).retireAll

/-- Step 3 (03 R64): the seed gives the device key, and is erased before step 4. -/
def State.identity (s : State) : State :=
  let s := { s with pkg := { s.pkg with seed := some Config.seed } }
  let s := { s with pkg := { s.pkg with devKey := Config.deviceKey (s.pkg.seed.getD 0) } }
  { s with pkg := { s.pkg with seed := none } }

/-- What the configuration partition holds, as numbers. -/
def Facts.config (f : Facts) : List Nat :=
  b2n f.domain :: f.longest :: f.pkg :: f.svcBase.toNat :: f.svcSize.toNat ::
    (f.routes.flatMap (fun e => [e.1, e.2.toNat])) ++ f.ports ++ f.hbmsep

/-- The facet health map and the access-core map as step 4 built them, as numbers. -/
def State.healthMap (s : State) : List Nat :=
  s.dies.flatMap (fun e => e.1 :: e.2.sick.flatMap (fun f => [f.1, f.2.toNat]) ++ e.2.lost.flatMap (fun l => [l.1, l.2.1, l.2.2])) ++
    (s.cores.filter (fun e => e.2.retired)).map (fun e => e.1)

/-- The measurements of Table 03-11, and the alias key and its certificate, which stay until the next warm or cold reset. -/
def State.measure (s : State) (image : Nat) : State :=
  let p := s.pkg
  let m := [Config.sha 1 [], Config.sha 2 [image], Config.sha 3 p.facts.config, Config.sha 4 s.healthMap,
            Config.sha 5 [p.svn, p.bootSlot]]
  let a := Config.aliasKey p.devKey m
  { s with pkg := { p with meas := m, aliasKey := a, cert := Config.sign p.devKey [a] } }

/-- The save pool of a die: the four pools end the service region (log 21). -/
def poolBase (base size d : Nat) : Nat :=
  let top := (base + size) / 2 ^ 32
  if base + 5 * 2 ^ 32 ≤ base + size then (top - 4 + d) * 2 ^ 32 else 0

/-- The fields that boot firmware sets from the configuration partition (05 R110; 07 R146; 13 R272). -/
def State.bootFields (s : State) : State :=
  let f := s.pkg.facts
  let s := { s with pkg := { s.pkg with svcBase := maskWrite 0 (maskOf 16 40) f.svcBase,
                                        svcSize := maskWrite 0 (maskOf 16 21) f.svcSize } }
  (List.range 4).foldl (fun s d => s.setDie d { s.die d with
    hbmsep := f.hbmsep.contains d, savepool := field 32 24 (poolBase s.svcBase s.pkg.svcSize.toNat d / 2 ^ 32) }) s

/-- Step 6: the domain description is checked (02 R30), DROUTE is loaded and the ports are trained. -/
def State.joinDomain (s : State) : State :=
  let f := s.pkg.facts
  let s := { s with pkg := { s.pkg with pkgNo := f.pkg, step6 := true },
                    droute := f.routes.foldl (fun t e => Tab.set 0 t e.1 e.2) [] }
  f.ports.foldl (fun s p => s.setPort p { s.port p with ctl := setBits (s.port p).ctl 0 1 1, st := 2 }) s

/-- Steps 5 to 7. cold: DRAM is trained, and has been cleared; links: step 6 is run. -/
def State.bootLinks (s : State) (cold links : Bool) : State :=
  let f := s.pkg.facts
  let s := s.setDev 4
  if cold && !f.memOk then s.bootFail 0x05
  else if links then
    let s := s.setDev 5
    if f.cfgOk && f.domain && decide (f.longest ≤ 3) && decide (f.pkg < 1024) then (s.joinDomain.bootFields).setDev 6 else s.bootFail 0x06
  else s.bootFields.setDev 6

/-- The boot steps, in order, from STATE 0. -/
def State.boot (s : State) (cold links : Bool) : State :=
  let f := s.pkg.facts
  let s := s.setDev 1
  match f.image with
  | none => s.bootFail 0x01
  | some (slot, i) =>
    let s := { s with pkg := { s.pkg with svn := i.svn, bootSlot := slot } }
    if i.svn < f.minSvn then s.bootFail 0x02
    else
      let s := s.setDev 2
      if f.puf = false then s.bootFail 0x03
      else
        let s := s.identity.setDev 3
        if f.fatal then s.bootFail 0x04 else (s.selfTest.measure i.id).bootLinks cold links

/-! ## What a reset ends (01 Table 01-6) -/

/-- Everything in flight is gone: threads and their stores, engine commands, tasks, loads, tiles, queues, requests and
provisional lines. -/
def State.cleared (s : State) : State :=
  { s with prov := [], slots := [], cores := [], tqs := [], tasks := [], queues := [], loads := [], tiles := [], msix := [],
           msixP := [], inbox := [], remotes := [], hostRq := [], borders := [], early := [], tests := [], upsets := [], probes := [],
           compact := none }

/-- A port over a warm or function reset: its link stays as it was, trained or failed, with the flits under way and their
numbers, and its counters are reset (03 R60; log 16). -/
def Port.kept (x : Port) : Port := { x with corr := 0, replay := 0, drops := 0, late := 0, downs := 0, rxq := [] }

/-- A port over a function reset: of LNKCTL only EN, which boot sets, stays (Tables 01-6, 02-5). -/
def Port.function (x : Port) : Port := { x.kept with ctl := setBits Port.reset.ctl 0 1 (b2n x.en) }

/-- A die after a warm reset: its count of machine checks since cold reset stays (12 Table 12-2). -/
def Die.warm (x : Die) : Die := { Die.reset with total := x.total }

/-- A die after a function reset: the health map, the fields that boot set and the sequence number of its fault queue stay
too (07 R155). -/
def Die.function (x : Die) : Die :=
  { x.warm with sick := x.sick, lost := x.lost, retire := x.retire, hbmsep := x.hbmsep, savepool := x.savepool, fqSeq := x.fqSeq }

/-! ## The resets -/

/-- Cold reset (01 R26): everything is lost but what lies in flash and silicon, and every boot step runs. What the model
itself adds to the machine goes on (log 5, 12). -/
def State.cold (s : State) : State :=
  ({ State.reset with agenda := s.agenda, clock := s.clock, fresh := s.fresh, out := s.out,
                      pkg := { Package.reset with facts := s.pkg.facts } }).boot true true

/-- Warm reset (01 R26, R27): memory and its poison stay; step 6 runs only where the boot before did not complete it. -/
def State.warm (s : State) : State :=
  let p := s.pkg
  let c := s.cleared
  ({ c with cycle := 0, dies := (s.dies.map (fun (e : Nat × Die) => (e.1, e.2.warm))),
            ports := s.ports.map (fun (e : Nat × Port) => (e.1, e.2.kept)),
            pkg := { Package.reset with facts := p.facts, pkgNo := p.pkgNo, step6 := p.step6, trans := p.trans, cap := p.cap } }).boot
    false (!p.step6)

/-- Function reset (01 R26; 03 R60): loads and tasks are killed; control registers take their reset values, but for what boot
set and the power status. -/
def State.function (s : State) : State :=
  let p := s.pkg
  let c := s.cleared
  let s := { c with
    cores := (s.cores.filter (fun (e : Nat × Core) => e.2.retired)).map (fun (e : Nat × Core) => (e.1, { Core.reset with retired := true })),
    dies := (s.dies.map (fun (e : Nat × Die) => (e.1, e.2.function))),
    ports := s.ports.map (fun (e : Nat × Port) => (e.1, e.2.function)),
    pkg := { p with rootPc := 0, rootArg := 0, rootCtl := 0, persist := 0, hostUr := 0, sfInv := 0 } }
  s.retireAll.sendMsix 0

/-- A warm reset is asked for: in thermal stop it waits (01 R25). -/
def State.askWarm (s : State) : State :=
  if s.pkg.powered = false then s
  else if s.pkg.devState = 8 then { s with pkg := { s.pkg with warmWait := true } }
  else s.warm

/-- A write of RESETCTL (03 R61). -/
def State.resetWrite (s : State) (v : Word) : State := if bit v 0 ∧ bits v 8 8 = 0xA5 then s.askWarm else s

def execColdReset (s : State) : BootResult := .next s.cold
/-- A PCIe hot reset. -/
def execWarmReset (s : State) : BootResult := .next s.askWarm
/-- A function-level reset: none of its effects where STATE is 7 or 8, or before a boot. -/
def execFunctionReset (s : State) : BootResult :=
  .next (if s.pkg.powered ∧ s.pkg.devState = 6 then s.function else s)
/-- The host writes RESETCTL. -/
def execResetctlWarm (v : Nat) (s : State) : BootResult := .next (s.resetWrite (BitVec.ofNat 64 v))
/-- The host writes ROOTCTL. -/
def execRootctlGo (v : Nat) (s : State) : BootResult :=
  .next (if s.pkg.powered then s.rootWrite (BitVec.ofNat 64 (2 ^ 64 - 1)) (BitVec.ofNat 64 v) else s)
/-- The main supply is lost (03 R66): nothing runs or answers until a cold reset. -/
def execPowerOff (s : State) : BootResult := .next { s with pkg := { s.pkg with powered := false } }

/-! ## Thermal stop (01 R25) -/

/-- A junction reaches 115 °C: the clocks stop, and the management transports hear of it. -/
def execThermalStop (tj : Nat) (s : State) : BootResult :=
  if tj < 115 ∨ s.running = false then .next s
  else
    let s := s.setDev 8
    .next ({ s with pkg := { s.pkg with errCode := 0 } }.emit .thermal)

/-- Firmware raises the minimum-version record (03 R63): never beyond its own version, so that it may boot again (log 28). -/
def State.raiseMinimum (s : State) (svn : Nat) : State :=
  let p := s.pkg
  if s.running ∧ (p.devState = 6 ∨ (p.devState = 7 ∧ 3 ≤ p.errCode)) then
    { s with pkg := { p with facts := { p.facts with minSvn := max p.facts.minSvn (min svn p.svn) } } }
  else s

/-- A warm reset that waits in thermal stop goes on once the hottest junction reads below 95 °C. -/
def execThermalRestart (tj : Nat) (s : State) : BootResult :=
  if s.pkg.powered = false ∨ s.pkg.devState ≠ 8 ∨ s.pkg.warmWait = false ∨ 95 ≤ tj then .next s else .next s.warm

/-! ## The power governor (01 R23) -/

/-- The causes of a step down that hold (Table 01-5): power above 2,800 W, junction above 105 °C, supply current above its
limit (amps 2; 1 at it, 0 below it), power above the management cap. -/
def Package.causes (p : Package) (watts tj amps : Nat) : List Nat :=
  (if watts > 2800 then [1] else []) ++ (if tj > 105 then [2] else []) ++ (if amps = 2 then [3] else []) ++
    (match p.cap with | some c => if watts > c then [4] else [] | none => [])

/-- Every quantity is below its limit. -/
def Package.below (p : Package) (watts tj amps : Nat) : Bool :=
  decide (watts < 2800) && decide (tj < 105) && amps == 0 &&
    (match p.cap with | some c => decide (watts < c) | none => true)

/-- The governor evaluates: power in watts, the hottest junction in °C, and how the supply current stands to its limit. Where
several causes hold, which of them CAUSE gives is not stated (log 12). -/
def execGovernorEvaluation (watts tj amps : Nat) (s : State) : BootResult :=
  if s.running = false then .next s
  else
    let p := { s.pkg with tjmax := min tj 255 }
    let cs := p.causes watts tj amps
    if cs.isEmpty then
      let q := if p.below watts tj amps then p.quiet + 1 else 0
      let up := decide (10 ≤ q) && decide (p.fclk < 0x34)
      .next { s with pkg := { p with quiet := if up then 0 else q, fclk := if up then p.fclk + 1 else p.fclk } }
    else
      let f := s.free 7
      let cause := if cs.length = 1 then cs.headD 0 else cs.getD (f.2 % cs.length) 0
      let s := if cs.length = 1 then s else f.1
      let p := { p with quiet := 0 }
      if p.fclk ≤ 0x1C then .next { s with pkg := p }
      else
        let s := { s with pkg := { p with fclk := p.fclk - 1, steps := satAdd p.steps 1 0xFFFF, pcause := cause } }
        .next (if cause = 2 ∧ p.pcause ≠ 2 then s.sendMsix 0 else s)

end Sys2Proof.Machine
end

