-- ==== Sys2Proof/Machine/Control.lean ====
section
/-! DEFINITION. Writes of control space that start something beyond their register, the store that makes one, and the host's
writes (01 R20; 03 R47, R61; 04 R68; 07 R154 to R158; 12 R264; 13 R271). -/

namespace Sys2Proof.Machine

abbrev CtlResult := Host.Outcome State Fault Refusal

/-- The state that an outcome goes on in. -/
def State.after (s : State) : Host.Outcome State Fault Refusal → State
  | .next t => t
  | _ => s

/-- A write of QCFG (04 Table 04-1). -/
def State.qcfgWrite (s : State) (q : Nat) (mask v : Word) : State :=
  let x := s.tq q
  let w := maskWrite x.qcfg (mask &&& (maskOf 16 16 ||| maskOf 8 3 ||| maskOf 4 3 ||| maskOf 0 1)) v
  (s.setTq q { x with qcfg := w, stopped := x.stopped && !bit v 1 }).qElig q

/-- A write of LOADCTL (13 Table 13-1). -/
def State.loadctlWrite (s : State) (d : Nat) (v : Word) : State :=
  let l := bits v 48 16
  match bits v 0 2 with
  | 1 => s.after (execLoadctlPreempt d l s)
  | 2 => s.after (execLoadctlRestore d l s)
  | 3 => s.after (execLoadctlKill d l s)
  | _ => s

/-- The line that a value written to SCRUB of a die names (12 Table 12-12): none outside the die's DRAM. -/
def State.scrubLine (s : State) (d : Nat) (v : Word) : Option Nat :=
  let pa := bits v 6 50 * 64
  if pa / 2 ^ 46 % 1024 = s.pkg.pkgNo ∧ dieOfLine (lineOf (offOf pa)) = some d then some (lineOf (offOf pa)) else none

/-- A write of SCRUB. -/
def State.scrubWrite (s : State) (d : Nat) (v : Word) : State :=
  match s.scrubLine d v with
  | none => s
  | some line => if bit v 0 then s.scrubPoison line else s.scrubClear line

/-- A write of an aligned word or doubleword of control space; who is the writer's mode, 3 for the host. -/
def State.ctlWrite (s : State) (who off size n : Nat) : State :=
  let o := off - off % 8
  let mask := wordMask off size
  let v := wordOf off size n
  let d := (o - 0x3F1000000000) / 0x100000000
  let r := (o - 0x3F1000000000) % 0x100000000
  let inDie := decide (0x3F1000000000 ≤ o) && decide (o < 0x3F1400000000) && who != 0
  if o = 0x3F0000000008 then (if who ≥ 2 then s.resetWrite v else s)
  else if inDie && decide (0x1000000 ≤ r) && decide (r < 0x1010000) && r % 0x40 == 0 then
    s.qcfgWrite (d * 1024 + (r - 0x1000000) / 0x40) mask v
  else if inDie && r == 0x2010300 then s.loadctlWrite d v
  else if inDie && r == 0x4000020 && off % 8 == 0 then s.after (execFresume d (bits v 0 32) s)
  else if inDie && r == 0x5000008 then s.scrubWrite d v
  else s.plainWrite who off size n

/-- The line for which the host must be asked before a write of control space may perform: that of a SCRUB. -/
def State.ctlSnoop (s : State) (who off size n : Nat) : Option Nat :=
  let o := off - off % 8
  if who ≠ 0 ∧ 0x3F1000000000 ≤ o ∧ o < 0x3F1400000000 ∧ (o - 0x3F1000000000) % 0x100000000 = 0x5000008 then
    match s.scrubLine ((o - 0x3F1000000000) / 0x100000000) (wordOf off size n) with
    | some line => if s.mustSnoop line true then some line else none
    | none => none
  else none

/-- A drained entry performs at its home (06 R121; 11 R230; 12 R262, R267, R270; 03 R50). -/
def execStorePerformed (core idx : Nat) (s : State) : CtlResult :=
  match (s.core core).wcb[idx]? with
  | none => .next s
  | some e =>
    if e.phase ≠ 1 ∨ e.tag ≠ 0 ∨ s.running = false then .next s
    else match placeOf (e.line * 64) with
    | .control off =>
      (match s.ctlSnoop e.mode (off + e.span.1) e.span.2 e.value with
       | some line => .next (s.askHost line)
       | none => .next (((s.dropWcb core idx).ctlWrite e.mode (off + e.span.1) e.span.2 e.value).enterSync e.slot))
    | _ =>
      if s.conflicts (if e.load = 0 then none else some e.load) e.line then
        .next (((s.dropWcb core idx).pend e.slot 0x12 e.va 0).enterSync e.slot)
      else if e.load ≠ 0 then
        .next (((s.dropWcb core idx).provStore e.slot e.load e.wave e.line e.bytes false true).enterSync e.slot)
      else if s.mustSnoop e.line true then .next (s.askHost e.line)
      else .next (((s.dropWcb core idx).storeTab (some core) e.line e.bytes).enterSync e.slot)

/-! ## The host at control space (03 R46, R47) -/

/-- A host request completes as unsupported and is counted. -/
def State.unsupported (s : State) : State := { s with pkg := { s.pkg with hostUr := satAdd s.pkg.hostUr 1 0xFFFF } }

/-- The host writes through BAR0 at an offset from the start of control space. -/
def execRegisterWrite (off size v : Nat) (s : State) : CtlResult :=
  let a := 0x3F0000000000 + off
  if s.pkg.powered = false ∨ 2 ^ 40 ≤ off then .next s
  else if (size ≠ 4 ∧ size ≠ 8) ∨ off % size ≠ 0 then
    (if 0x100000000 ≤ off ∧ off < 0x101000000 ∧ off % 0x1000 < 0x40 then .next (s.qpageWrite (off - 0x100000000) 0)
     else .next s.unsupported)
  else match s.ctlSnoop 3 a size v with
    | some line => .next (s.askHost line)
    | none => .next (s.ctlWrite 3 a size v)

/-! ## Fault queues (07 R154 to R156) -/

/-- A write of FQBASE. -/
def execFqbaseWrite (die v : Nat) (s : State) : CtlResult :=
  if die ≥ 4 ∨ s.pkg.powered = false then .next s
  else .next (s.fqbaseSet die (BitVec.ofNat 64 (2 ^ 64 - 1)) (BitVec.ofNat 64 v))

/-- A write of FQHEAD. -/
def execFqheadWrite (die v : Nat) (s : State) : CtlResult :=
  if die ≥ 4 ∨ s.pkg.powered = false then .next s
  else .next (s.fqheadSet die (BitVec.ofNat 64 (2 ^ 64 - 1)) (BitVec.ofNat 64 v))

/-- The address of the entry that a die writes next. -/
def Die.tailAt (x : Die) : Nat := bits x.fqbase 12 44 * 4096 + 64 * (x.fqtail % x.ringSize)

/-- The oldest entry that waits is written at its home once the ring has room (R155, R156): TAIL advances, and the vector of
the die is sent when TAIL leaves HEAD. -/
def execFaultEntryWrite (die : Nat) (s : State) : CtlResult :=
  let x := s.die die
  match x.fqWait with
  | [] => .next s
  | e :: _ =>
    if s.running = false ∨ s.fqOn die = false ∨ s.numbering die e.1 ∨ (x.fqtail + 2 ^ 32 - x.fqhead) % 2 ^ 32 ≥ x.ringSize then .next s
    else
      let line := lineOf (offOf x.tailAt)
      if s.mustSnoop line true then .next (s.askHost line)
      else
        let s := (s.storeDs none x.tailAt e.2).setPoison line false
        let s := s.tellHolders line
        let s := s.setDie die { s.die die with fqWait := (s.die die).fqWait.drop 1, fqtail := (x.fqtail + 1) % 2 ^ 32 }
        let s := s.sample die 9 0 1
        .next (if x.fqtail = x.fqhead then s.sendMsix (2 + die) else s)

/-! ## Monitors -/

/-- A write of MONSEL (06 R134). -/
def execMonselClear (die mon v : Nat) (s : State) : CtlResult :=
  if die ≥ 4 ∨ mon ≥ 16 ∨ s.running = false then .next s
  else .next (s.monWrite die mon (BitVec.ofNat 64 (2 ^ 64 - 1)) (BitVec.ofNat 64 v))

end Sys2Proof.Machine
end

