-- ==== Sys2Proof/Machine/Remote.lean ====
section
/-! DEFINITION. Accesses from and to other packages and to the host: requests at their home, answers, completions and
timeouts (02 R34, R36; 03 R52, R53), and the circuits that cross the package edge (02 R37 to R40). -/

namespace Sys2Proof.Machine

abbrev FarResult := Host.Outcome State Fault Refusal

/-! ## How an access that went afar ends

How it ended: 0 it performed, 1 a provisional conflict refused it (12 R270), 2 its line is poisoned (12 R263), 3 it failed
(02 R36; for an access to the host: log 22). -/

/-- The cause of an access that did not perform. -/
def farCause (how : Nat) : Nat := if how = 1 then 0x12 else if how = 2 then 0x08 else 0x17

/-- The instruction that a slot has issued and that waits. -/
def Slot.insn (x : Slot) : Option Instr := decode x.word

/-- An outstanding load ends: its value is v. -/
def State.farLoad (s : State) (k seq tag how v : Nat) (host : Bool) : State :=
  match (s.slot k).outs.find? (fun o => o.seq == seq && o.tag == tag + 1 && decide (3 ≤ o.mt) == host) with
  | none => s
  | some o =>
    if how = 0 then s.finishLoad k { o with tag := tag + 1 } v
    else (s.setSlot k { s.slot k with outs := (s.slot k).outs.erase o }).raiseAt k (farCause how) o.va o.epc

/-- A buffered store ends: its entry leaves, and one that did not perform tells its thread at its next boundary. -/
def State.farStore (s : State) (c tag how : Nat) (host : Bool) : State :=
  match (s.core c).wcb.findIdx? (fun e => e.tag == tag + 1 && decide (2 ^ 59 ≤ e.line * 64) == host) with
  | none => s
  | some i => match (s.core c).wcb[i]? with
    | none => s
    | some e =>
      let s := s.dropWcb c i
      ((if how = 0 then s else s.pend e.slot (farCause how) e.va 0)).enterSync e.slot

/-- The registers and options of an atomic: its destination, address register, order, scope and width in bytes. -/
def atomicOf : Instr → Option (Nat × Nat × Nat × Nat × Nat)
  | .amoAdd d a _ o s z => some (d, a, o, s, opBytes z)
  | .amoAnd d a _ o s z => some (d, a, o, s, opBytes z)
  | .amoOr d a _ o s z => some (d, a, o, s, opBytes z)
  | .amoXor d a _ o s z => some (d, a, o, s, opBytes z)
  | .amoSwap d a _ o s z => some (d, a, o, s, opBytes z)
  | .amoMin d a _ o s z => some (d, a, o, s, opBytes z)
  | .amoMax d a _ o s z => some (d, a, o, s, opBytes z)
  | .amoMinu d a _ o s z => some (d, a, o, s, opBytes z)
  | .amoMaxu d a _ o s z => some (d, a, o, s, opBytes z)
  | .cas d a _ o s z => some (d, a, o, s, opBytes z)
  | .aincb d a _ o s z => some (d, a, o, s, opBytes z)
  | .adecz d a o s z => some (d, a, o, s, opBytes z)
  | _ => none

/-- What an atomic does (17 Table 17-6) and its operand register. -/
def aopOf : Instr → Nat × Nat
  | .amoAdd _ _ b _ _ _ => (0, b)
  | .amoAnd _ _ b _ _ _ => (1, b)
  | .amoOr _ _ b _ _ _ => (2, b)
  | .amoXor _ _ b _ _ _ => (3, b)
  | .amoSwap _ _ b _ _ _ => (4, b)
  | .amoMin _ _ b _ _ _ => (5, b)
  | .amoMax _ _ b _ _ _ => (6, b)
  | .amoMinu _ _ b _ _ _ => (7, b)
  | .amoMaxu _ _ b _ _ _ => (8, b)
  | .cas _ _ b _ _ _ => (9, b)
  | .aincb _ _ b _ _ _ => (10, b)
  | _ => (11, 0)

/-- The instruction that waits in a slot ends in a trap. -/
def State.farTrap (s : State) (k how : Nat) (va : Word) : State :=
  (s.setSlot k { s.slot k with wait := .none }).raiseAt k (farCause how) va (s.slot k).pc

/-- An atomic ends with the old value. -/
def State.farAtomic (s : State) (k how old : Nat) : State :=
  match (s.slot k).insn.bind atomicOf with
  | none => s
  | some (d, a, o, sc, n) =>
    if how = 0 then s.finishAtomic k d o sc (8 * n) (old % 2 ^ (8 * n)) else s.farTrap k how ((s.slot k).reg a)

/-- The line of an atomic has come from its home: a feed thread's performs on its segment's view, provisionally (12 R267; log
69), and one to a line that a protected load holds provisionally is refused if it would write (12 R270; 17 R360), and else is
issued again. -/
def State.farFeedAtomic (s : State) (k key how v : Nat) : State :=
  let x := s.slot k
  match x.insn with
  | none => s
  | some i => match atomicOf i with
    | none => s
    | some (d, a, o, sc, n) =>
      let feed := s.feedAccess k (x.reg a)
      let m := 2 ^ (8 * n)
      let old := if feed then s.provView x.load key v n else v % m
      if how ≠ 0 then s.farTrap k how (x.reg a)
      else match atomNew (aopOf i).1 (8 * n) old ((x.reg (aopOf i).2).toNat % m) ((x.reg d).toNat % m) with
        | none => s.finishAtomic k d o sc (8 * n) old
        | some w =>
          if s.conflicts (if feed then some x.load else none) (lineOf key) then s.farTrap k 1 (x.reg a)
          else if feed then
            (s.provStore k x.load (x.marks + 1) (lineOf key) (lineBytes (key % 64) w n) false true).finishAtomic k d o sc (8 * n) old
          else s.setSlot k { x with wait := .none }

/-- A waitw's read ends. -/
def State.farWait (s : State) (k key how v : Nat) : State :=
  let x := s.slot k
  let run := fun (d a b z : Nat) (eq : Bool) =>
    if how = 0 then s.waitValue k d key (8 * opBytes z) eq (v % 2 ^ (8 * opBytes z)) ((x.reg b).toNat % 2 ^ (8 * opBytes z))
    else s.farTrap k how (x.reg a)
  match x.insn with
  | some (.waitwNe d a b z) => run d a b z false
  | some (.waitwEq d a b z) => run d a b z true
  | _ => s

/-- A fetch ends with the word. -/
def State.farFetch (s : State) (k how w : Nat) : State :=
  let x := s.slot k
  if how = 0 then s.setSlot k { x with fetched := some (x.pc, w % 2 ^ 32), wait := .none } else s.farTrap k how x.pc

/-- A line that an engine or a block read asked for arrives; a thread that waits for its block reads it again. -/
def State.farLineCame (s : State) (c eid key how v : Nat) : State :=
  if (s.core c).asked.contains (eid, lineOf key) ∨ (256 ≤ eid ∧ eid < 512) then
    let s := s.setCore c { s.core c with
      got := (s.core c).got ++ [{ eid := eid, line := lineOf key, data := v, pois := how == 2, bad := how == 3 }] }
    if 256 ≤ eid ∧ eid < 512 then s.setSlot (slotKey c (eid - 256)) { s.slot (slotKey c (eid - 256)) with wait := .none } else s
  else s

/-- A write of an engine or of the scheduler ends. One of SIGVAL that failed counts as performed, and its task's completion
goes on (log 85, DESIGN CHOICE: 04 R77 is silent); a stream or copy whose write failed stops there (12 Table 12-13), and a
receive step whose last write this was acknowledges (02 R41). -/
def State.farWrite (s : State) (c eid how : Nat) : State :=
  let s := s.setCore c { s.core c with pendW := Tab.set 0 (s.core c).pendW eid (Tab.get 0 (s.core c).pendW eid - 1) }
  if eid < 32 then
    (match s.stream c eid with
     | some x => if how = 0 ∨ x.st = 3 then s else (s.endStream c eid x 3).tellIssuer c x.cmd 0x16 x.cmd.blk
     | none => s)
  else if eid < 160 then
    (match s.copy c (eid - 32) with
     | some x =>
       if how ≠ 0 ∧ x.st ≠ 3 then (s.setCopy c (eid - 32) (some (x.endWith 3))).tellIssuer c x.cmd 0x16 x.cmd.blk
       else if x.st = 1 ∧ x.role = 2 then s.recvDone c (eid - 32) x
       else s
     | none => s)
  else match (s.core c).rsteps.find? (fun r => eidStep r.peer r.slot == eid) with
    | some r => if r.recv.isEmpty then s else s.againDone c r
    | none => s

/-- A slot waits for the answer to a request. -/
def State.waitsRemote (s : State) (k tag : Nat) : Bool := (s.slot k).wait == .remote tag
def State.waitsHost (s : State) (k id : Nat) : Bool := (s.slot k).wait == .host id

/-- A request to another package ends for the one that made it. -/
def State.farEnds (s : State) (tag : Nat) (r : Remote) (how v : Nat) : State :=
  let key := 2 ^ 58 + r.pkt.addr
  match r.who with
  | 0 => s.farLoad r.a r.b tag how v false
  | 1 => s.farStore r.a tag how false
  | 2 =>
    if s.waitsRemote r.a tag = false then s
    else if r.pkt.kind = 0 then s.farFeedAtomic r.a key how v
    else s.farAtomic r.a how v
  | 3 => if s.waitsRemote r.a tag then s.farFetch r.a how v else s
  | 4 => if s.waitsRemote r.a tag then s.farWait r.a key how v else s
  | 5 => if 256 ≤ r.b ∧ r.b < 512 ∧ s.waitsRemote (slotKey r.a (r.b - 256)) tag = false then s else s.farLineCame r.a r.b key how v
  | 6 => s.farWrite r.a r.b how
  | 8 => if how = 0 then s else s.tellOwner r.a (farCause how) (BitVec.ofNat 64 r.pkt.addr)
  | 9 =>
    match s.task r.a with
    | some t => s.setTask r.a (some { t with dec := if how = 0 then 2 else 3, old := BitVec.ofNat 64 v })
    | none => s
  | _ => s

/-! ## At the home (02 R34, R36) -/

/-- The answer to a request. -/
def State.answer (s : State) (p : Packet) (kind : Nat) (data : List Nat) : Packet := s.packet p.src kind 0 p.seq p.addr data

/-- The answers that may yet be asked for again: those to tags of a package less than half the number space old. -/
def servedKeep (src tag : Nat) (l : List (Nat × Nat × Packet)) : List (Nat × Nat × Packet) :=
  l.filter (fun e => e.1 != src || decide ((tag + 65536 - e.2.1) % 65536 < 32768))

/-- An atomic of another package performs, once under its tag. -/
def State.serveAtomic (s : State) (p : Packet) (off : Nat) : State × Option Packet :=
  let keep := servedKeep p.src p.seq s.served
  match keep.find? (fun e => e.1 == p.src && e.2.1 == p.seq) with
  | some e => (s, some e.2.2)
  | none =>
    let op := p.data.getD 0 0
    let sz := op / 16 % 16
    let done := fun (s : State) (how old : Nat) =>
      let a := s.answer p 4 [how, old]
      ({ s with served := keep ++ [(p.src, p.seq, a)] }, some a)
    if s.poisoned p.addr then done s 2 0
    else if s.mustSnoop (lineOf off) false then (s.askHost (lineOf off), none)
    else
      let old := s.home p.addr sz
      match atomNew (op % 16) (8 * sz) old (p.data.getD 1 0) (p.data.getD 2 0) with
      | none => done s 0 old
      | some v =>
        if s.conflicts none (lineOf off) then done s 1 0
        else if s.mustSnoop (lineOf off) true then (s.askHost (lineOf off), none)
        else done (s.store none p.addr sz v) 0 old

/-- A request performs at its home: the state and the answer, none while the host must be asked first. How the payload of a
packet of KIND 0 to 5 is laid out, with the size, operation or status in its first doubleword, is the model's choice
(log 76, DESIGN CHOICE: 02 R31 gives no layout). -/
def State.serve (s : State) (p : Packet) (off : Nat) : State × Option Packet :=
  let line := lineOf off
  if p.kind = 0 then
    let n := min 64 (p.data.headD 0)
    if s.mustSnoop line false then (s.askHost line, none)
    else (s, some (s.answer p 1 (b2n (s.poisoned p.addr) * 2 :: dwords (s.home p.addr n) n)))
  else if p.kind = 2 then
    let n := min 64 (p.data.headD 0 % 256)
    if s.conflicts none line then (s, some (s.answer p 5 [1]))
    else if s.mustSnoop line true then (s.askHost line, none)
    else
      let s := s.store none p.addr n (joinN 64 (p.data.drop 1))
      let s := if p.data.headD 0 / 256 = 1 then s.setPoison line true else s
      (s, some (s.answer p 5 [0]))
  else s.serveAtomic p off

/-- The first request that has arrived performs and is answered; one that names no memory of this package is not answered
(log 23). -/
def execRemoteRequest (s : State) : FarResult :=
  if s.running = false then .next s
  else match takeFrom (fun k => k == 0 || k == 2 || k == 3) s.inbox with
  | none => .next s
  | some (_, p, rest) =>
    match s.place p.addr with
    | .dram _ off =>
      let r := s.serve p off
      (match r.2 with
       | none => .next r.1
       | some a => .next ({ r.1 with inbox := rest }.send a))
    | _ => .next { s with inbox := rest }

/-! ## Answers and timeouts (02 R36) -/

/-- The kind of answer a request asks for. -/
def answerKind (kind : Nat) : Nat := if kind = 0 then 1 else if kind = 2 then 5 else 4

/-- The first answer that has arrived completes its request; one whose tag is retired is dropped and counted in LATE, and so is
one of a kind that its request does not ask for (log 84, DESIGN CHOICE: 02 R36 is silent). -/
def execRemoteResponse (s : State) : FarResult :=
  if s.running = false then .next s
  else match takeFrom (fun k => k == 1 || k == 4 || k == 5) s.inbox with
  | none => .next s
  | some (port, p, rest) =>
    let s := { s with inbox := rest }
    match Tab.get none s.remotes p.seq with
    | none => .next (s.lateResponse port)
    | some r =>
      if p.kind ≠ answerKind r.pkt.kind then .next (s.lateResponse port)
      else
        let s := { s with remotes := Tab.set none s.remotes p.seq none }
        .next (s.farEnds p.seq r (p.data.headD 0) (joinN 64 (p.data.drop 1)))

/-- What waits for one tag waits for another. -/
def State.retag (s : State) (r : Remote) (old new : Nat) : State :=
  match r.who with
  | 0 => s.setSlot r.a { s.slot r.a with
      outs := (s.slot r.a).outs.map (fun (o : OutLoad) => if o.seq = r.b ∧ o.tag = old + 1 ∧ o.mt < 3 then { o with tag := new + 1 } else o) }
  | 1 => s.setCore r.a { s.core r.a with
      wcb := (s.core r.a).wcb.map (fun (e : Wcb) => if e.tag = old + 1 ∧ e.line * 64 < 2 ^ 59 then { e with tag := new + 1 } else e) }
  | 6 => s
  | 7 => s
  | 8 => s
  | 9 => s
  | _ =>
    let k := if r.who = 5 then slotKey r.a (r.b - 256) else r.a
    if (r.who ≠ 5 ∨ (256 ≤ r.b ∧ r.b < 512)) ∧ s.waitsRemote k old then s.setSlot k { s.slot k with wait := .remote new } else s

/-- A request has waited REQTO: it is sent once more under a new tag, and after that it fails. -/
def execRequestTimeout (tag : Nat) (s : State) : FarResult :=
  match Tab.get none s.remotes tag with
  | none => .next s
  | some r =>
    if s.running = false ∨ s.cycle < r.sent + s.reqTo then .next s
    else
      let s := { s with remotes := Tab.set none s.remotes tag none }
      if r.tries = 0 then
        let new := s.newTag
        let p := s.packet r.pkt.dst r.pkt.kind 0 new r.pkt.addr r.pkt.data
        let s := { s with nTag := s.nTag + 1, remotes := Tab.set none s.remotes new (some { r with pkt := p, tries := 1, sent := s.cycle }) }
        .next ((s.retag r tag new).send p)
      else .next (s.farEnds tag r 3 0)

/-! ## The host completes an access (03 R52, R53) -/

/-- A device access to host memory ends: status 0 completed, 2 its data is poisoned, another that it failed (log 22). data holds
the doublewords of the line for a read, the old value for an atomic. -/
def execHostAccessCompletion (id : Nat) (data : List Nat) (status : Nat) (s : State) : FarResult :=
  match Tab.get none s.hostRq id with
  | none => .next s
  | some r =>
    if s.running = false ∨ s.pkg.hostUp = false then .next s
    else
      let s := { s with hostRq := Tab.set none s.hostRq id none }
      let how := if status = 0 ∨ status = 2 then status else 3
      let line := joinN 64 data
      let v := line / 2 ^ (8 * (r.addr % 64))
      let key := 2 ^ 59 + r.addr
      match r.kind with
      | 0 => match (s.slot r.a).outs.find? (fun o => o.seq == r.b && o.tag == id + 1) with
        | some o => .next (s.farLoad r.a r.b id how (v % 2 ^ (8 * o.size)) true)
        | none => .next s
      | 2 => .next (if s.waitsHost r.a id then s.farAtomic r.a how (data.headD 0) else s)
      | 3 => .next (if s.waitsHost r.a id then s.farFetch r.a how v else s)
      | 4 => .next (if s.waitsHost r.a id then s.farWait r.a key how v else s)
      | 5 => .next (if 256 ≤ r.b ∧ r.b < 512 ∧ s.waitsHost (slotKey r.a (r.b - 256)) id = false then s
                    else s.farLineCame r.a r.b key how line)
      | 6 => .next (s.farWrite r.a r.b how)
      | 8 => .next (s.postedDone r.a r.b r.addr)
      | _ => .next s

/-! ## Border circuits (02 R37 to R40) -/

/-- The link words of a packet. -/
def wordsOf : List Nat → List LW
  | a :: b :: c :: d :: e :: r => LW.ofNumber (joinN 64 [a, b, c, d, e]) :: wordsOf r
  | _ => []

/-- A sequence number lies in the window of 64 from the one expected (R38). -/
def inWindow (seq expect : Nat) : Bool := decide ((seq + 65536 - expect) % 65536 < 64)

/-- A circuit data packet is taken in: it is held, and delivered in sequence order; one outside the window is dropped, and so,
without a count, is a second copy of one that is held (log 84, DESIGN CHOICE: 02 R38 is silent). -/
def execCircuitDataReceive (s : State) : FarResult :=
  if s.running = false then .next s
  else match takeFrom (fun k => k == 6) s.inbox with
  | none => .next s
  | some (port, p, rest) =>
    let s := { s with inbox := rest }
    let k := borderKey p.circ true
    match Tab.get none s.borders k with
    | some b =>
      if inWindow p.seq b.seq = false then .next (s.dropPacket port)
      else if b.held.any (fun h => h.1 == p.seq) then .next s
      else
        let b := { b with held := b.held ++ [(p.seq, p.src, wordsOf p.data)] }
        .next ({ s with borders := Tab.set none s.borders k (some b) }.refill p.circ)
    | none =>
      if inWindow p.seq 0 = false then .next (s.dropPacket port)
      else if s.early.any (fun e => e.1 == p.circ && e.2.1 == p.seq) then .next s
      else .next { s with early := s.early ++ [(p.circ, p.seq, p.src, wordsOf p.data)] }

/-- A credit arrives: the packet of its sequence number, of the circuit that sends to the one it names, is without credit no
more. A credit that comes again changes nothing. -/
def execCircuitCreditReceive (s : State) : FarResult :=
  if s.running = false then .next s
  else match takeFrom (fun k => k == 7) s.inbox with
  | none => .next s
  | some (_, p, rest) =>
    .next { s with inbox := rest, borders := s.borders.map (fun (e : Nat × Option Border) =>
      match e.2 with
      | some b =>
        if bit b.entry 25 = false ∧ bits b.entry 50 10 = p.src ∧ bits b.entry 38 12 = p.circ
        then (e.1, some { b with open_ := b.open_.filter (fun n => n != p.seq) }) else e
      | none => e) }

end Sys2Proof.Machine
end

