-- ==== Sys2Proof/Machine/HostPort.lean ====
section
/-! DEFINITION. The host's accesses to device memory, its answers to back-invalidate snoops, the loss of the host link, and
MSI-X unmasking (03 R48 to R51, R54, R55, R58). -/

namespace Sys2Proof.Machine

abbrev HostResult := Host.Outcome State Fault Refusal

/-- The local offset of a byte of an HDM range: 0 HBM, 1 LPDDR (03 R48). -/
def hdmOffset (range off : Nat) : Option Nat :=
  if range = 0 then (if off < 0xC000000000 then some off else none)
  else if range = 1 then (if off < 0x10000000000 then some (0x100000000000 + off) else none)
  else none

/-- CXL.mem requests are served: the device is READY (03 R48, R60) and the host link is up. -/
def State.hdmUp (s : State) : Bool := s.running && s.pkg.devState == 6

/-- The entries that a slice's snoop filter holds (03 R49). -/
def snoopSize : Nat := 2097152

/-- The lines of a die that the host holds, the oldest first. -/
def State.heldOn (s : State) (d : Nat) : List (Nat × Bool) := s.snoop.filter (fun e => dieOfLine e.1 == some d)

/-- The host holds a line, modified or not. -/
def State.holdLine (s : State) (line : Nat) (modified : Bool) : State :=
  if (s.held line).isSome then
    { s with snoop := s.snoop.map (fun (e : Nat × Bool) => if e.1 = line then (line, e.2 || modified) else e) }
  else { s with snoop := s.snoop ++ [(line, modified)] }

/-- A request for a line outside every range, or while the ranges are not active. -/
def State.refuseMem (s : State) (o : Out) : State := s.unsupported.emit o

/-- A warm reset has been asserted and waits in thermal stop: CXL.mem requests are held, and performed after it (R60). -/
def State.holdsMem (s : State) : Bool := s.pkg.devState == 8 && s.pkg.warmWait
def State.holdMem (s : State) (i : Instr) : State := { s with memHeld := s.memHeld ++ [i] }

/-- A CXL.mem read of the line that holds a byte of a range (R49 to R51): committed data, with the poison indication. cache is 0
where the host keeps no copy, 1 where it keeps one, 2 where it may modify it. A full filter gives up its oldest line first. -/
def execHostMemRead (range off cache : Nat) (s : State) : HostResult :=
  if s.pkg.powered = false ∨ s.pkg.hostUp = false then .next s
  else if s.holdsMem then .next (s.holdMem (.hostMemRead range off cache))
  else match (if s.hdmUp then hdmOffset range off else none) with
  | none => .next (s.refuseMem (.memData range off [] false true))
  | some a =>
    let line := lineOf a
    let d := (dieOfLine line).getD 0
    let old := s.heldOn d
    if cache ≠ 0 ∧ (s.held line).isNone ∧ snoopSize ≤ old.length then
      match old with
      | (l, _) :: _ =>
        if s.snooped.contains l then .next s
        else .next ({ s with pkg := { s.pkg with sfInv := (s.pkg.sfInv + 1) % 65536 } }.askHost l)
      | [] => .next s
    else
      let s := if cache = 0 then s else s.holdLine line (cache == 2)
      .next (s.emit (.memData range off (splitN 64 (s.homeLine line).toNat 8) (Tab.get false s.poison line) false))

/-- The bytes of a line that a mask selects. -/
def maskedBytes (mask v : Nat) (o : Nat) : Nat → Tab (Option Byte)
  | 0 => []
  | n + 1 =>
    if mask.testBit 0 then (o, some (BitVec.ofNat 8 v)) :: maskedBytes (mask / 2) (v / 256) (o + 1) n
    else maskedBytes (mask / 2) (v / 256) (o + 1) n

/-- A CXL.mem write of the bytes of a line that a mask selects (R50, R51; 12 R262, R270). -/
def execHostMemWrite (range off mask : Nat) (data : List Nat) (s : State) : HostResult :=
  if s.pkg.powered = false ∨ s.pkg.hostUp = false then .next s
  else if s.holdsMem then .next (s.holdMem (.hostMemWrite range off mask data))
  else match (if s.hdmUp then hdmOffset range off else none) with
  | none => .next (s.refuseMem (.memDone range off true))
  | some a =>
    let line := lineOf a
    let s := s.storeTab none line (maskedBytes mask (joinN 64 data) 0 64)
    .next ((s.tellHolders line).emit (.memDone range off false))

/-- The host answers a back-invalidate snoop (R50): it holds the line no more, and the modified bytes that it returns are
merged. -/
def execSnoopResponse (line mask : Nat) (data : List Nat) (s : State) : HostResult :=
  if s.snooped.contains line = false ∨ s.running = false then .next s
  else
    let s := { s with snooped := s.snooped.filter (fun l => l != line), snoop := s.snoop.filter (fun e => e.1 != line) }
    let bs := maskedBytes mask (joinN 64 data) 0 64
    if bs.isEmpty then .next s else .next ((s.storeTab none line bs).tellHolders line)

/-- The host link goes down (R55; 17 R363): PERSIST.EN is cleared, and a fence that waits for its flush-line read takes cause
0x17. -/
def execHostLinkDown (s : State) : HostResult :=
  if s.pkg.powered = false ∨ s.pkg.hostUp = false then .next s
  else
    let s := { s with pkg := { s.pkg with hostUp := false, persist := setBits s.pkg.persist 0 1 0 } }
    .next (s.slots.foldl (fun s (e : Nat × Slot) =>
      match e.2.wait with
      | .flush _ => (s.setSlot e.1 { s.slot e.1 with wait := .none, dur := 0 }).raiseAt e.1 0x17 0 (s.slot e.1).pc
      | _ => s) s)

/-- The host reads through BAR0 at an offset from the start of control space (R47, R59): an aligned word or doubleword is
answered, DEVSTAT in every state, any other access not supported. In thermal stop, with the clocks stopped, no other register
answers (log 81). -/
def State.barRead (s : State) (off size : Nat) : State :=
  if s.pkg.powered = false ∨ s.pkg.hostUp = false then s
  else if 2 ^ 40 ≤ off ∨ (size ≠ 4 ∧ size ≠ 8) ∨ off % size ≠ 0 then s.unsupported.emit (.barData off size 0 true)
  else if off < 8 then s.emit (.barData off size (s.devstat.toNat / 2 ^ (8 * off) % 2 ^ (8 * size)) false)
  else if s.running then s.emit (.barData off size (s.ctlRead (0x3F0000000000 + off) size) false)
  else s

/-- A host request outside the subsets of Table 03-1 (R46): an AtomicOp to the device, one with a PASID, a translation request
and the like. -/
def State.hostOther (s : State) : State :=
  if s.pkg.powered = false ∨ s.pkg.hostUp = false then s else s.unsupported.emit .unsupported

/-- A CDAT entry is read over the DOE mailbox (Table 03-1): what it says is not stated (log 12). -/
def State.hostCdat (s : State) (n : Nat) : State :=
  if s.pkg.powered = false ∨ s.pkg.hostUp = false then s else s.emit (.doe (Config.answer 0x1000 [n]))

/-- The host unmasks a vector (R58): one message if an event came meanwhile. -/
def execMsixUnmask (vec : Nat) (s : State) : HostResult :=
  if s.pkg.powered = false ∨ 2048 ≤ vec then .next s
  else .next (s.msixSet (2 * vec + 1) (setBits (s.msixD (2 * vec + 1)) 32 1 0))

end Sys2Proof.Machine
end

