-- ==== Sys2Proof/Machine/Integer.lean ====
section
/-! DEFINITION. Integer, address and branch instructions (16 R334 to R349). The units are those of Table 16-9, each with
the machine-check source of its rule (Table 12-5): 5 the operand read, source 0; 2 where it is checked and regenerated,
else 1. -/

namespace Sys2Proof.Machine

/-- What every meaning answers. -/
abbrev Result := Host.Outcome State Fault Refusal

/-- add (16 Table 16-1): A + B. -/
def execAdd (d a b : Nat) (s : State) : Result :=
  .next (s.result [a, b] [(5, 0), (0, 1)] d (s.rg a + s.rg b))

/-- sub (16 Table 16-1): A − B. -/
def execSub (d a b : Nat) (s : State) : Result :=
  .next (s.result [a, b] [(5, 0), (0, 1)] d (s.rg a - s.rg b))

/-- and (16 Table 16-1). -/
def execAnd (d a b : Nat) (s : State) : Result :=
  .next (s.result [a, b] [(5, 0), (0, 1)] d (s.rg a &&& s.rg b))

/-- or (16 Table 16-1). -/
def execOr (d a b : Nat) (s : State) : Result :=
  .next (s.result [a, b] [(5, 0), (0, 1)] d (s.rg a ||| s.rg b))

/-- xor (16 Table 16-1). -/
def execXor (d a b : Nat) (s : State) : Result :=
  .next (s.result [a, b] [(5, 0), (0, 1)] d (s.rg a ^^^ s.rg b))

/-- andn (16 Table 16-1): A AND NOT B. -/
def execAndn (d a b : Nat) (s : State) : Result :=
  .next (s.result [a, b] [(5, 0), (0, 1)] d (s.rg a &&& ~~~(s.rg b)))

/-- orn (16 Table 16-1): A OR NOT B. -/
def execOrn (d a b : Nat) (s : State) : Result :=
  .next (s.result [a, b] [(5, 0), (0, 1)] d (s.rg a ||| ~~~(s.rg b)))

/-- sll (16 Table 16-1): A << B[5:0]. -/
def execSll (d a b : Nat) (s : State) : Result :=
  .next (s.result [a, b] [(5, 0), (1, 1)] d (sll64 (s.rg a) (s.rg b)))

/-- srl (16 Table 16-1). -/
def execSrl (d a b : Nat) (s : State) : Result :=
  .next (s.result [a, b] [(5, 0), (1, 1)] d (srl64 (s.rg a) (s.rg b)))

/-- sra (16 Table 16-1). -/
def execSra (d a b : Nat) (s : State) : Result :=
  .next (s.result [a, b] [(5, 0), (1, 1)] d (sra64 (s.rg a) (s.rg b)))

/-- ror (16 Table 16-1). -/
def execRor (d a b : Nat) (s : State) : Result :=
  .next (s.result [a, b] [(5, 0), (1, 1)] d (ror64 (s.rg a) (s.rg b)))

/-- mul (16 Table 16-1): (A · B)[63:0], 3 core cycles (06 Table 06-3). -/
def execMul (d a b : Nat) (s : State) : Result :=
  .next (s.slow [a, b] [(5, 0), (2, 1)] d (s.rg a * s.rg b) 3)

/-- mulh (16 Table 16-1). -/
def execMulh (d a b : Nat) (s : State) : Result :=
  .next (s.slow [a, b] [(5, 0), (2, 1)] d (mulh64 (s.rg a) (s.rg b)) 3)

/-- mulhu (16 Table 16-1). -/
def execMulhu (d a b : Nat) (s : State) : Result :=
  .next (s.slow [a, b] [(5, 0), (2, 1)] d (mulhu64 (s.rg a) (s.rg b)) 3)

/-- div (16 R336). -/
def execDiv (d a b : Nat) (s : State) : Result :=
  .next (s.slow [a, b] [(5, 0), (3, 2)] d (div64 (s.rg a) (s.rg b)) (divTime (s.rg a) (s.rg b)))

/-- divu (16 R336). -/
def execDivu (d a b : Nat) (s : State) : Result :=
  .next (s.slow [a, b] [(5, 0), (3, 2)] d (divu64 (s.rg a) (s.rg b)) (divuTime (s.rg a) (s.rg b)))

/-- rem (16 R336). -/
def execRem (d a b : Nat) (s : State) : Result :=
  .next (s.slow [a, b] [(5, 0), (3, 2)] d (rem64 (s.rg a) (s.rg b)) (divTime (s.rg a) (s.rg b)))

/-- remu (16 R336). -/
def execRemu (d a b : Nat) (s : State) : Result :=
  .next (s.slow [a, b] [(5, 0), (3, 2)] d (remu64 (s.rg a) (s.rg b)) (divuTime (s.rg a) (s.rg b)))

/-- min (16 Table 16-1): A if s(A) < s(B), else B. -/
def execMin (d a b : Nat) (s : State) : Result :=
  .next (s.result [a, b] [(5, 0), (0, 1)] d (if slt64 (s.rg a) (s.rg b) then s.rg a else s.rg b))

/-- max (16 Table 16-1): A if s(A) > s(B), else B. -/
def execMax (d a b : Nat) (s : State) : Result :=
  .next (s.result [a, b] [(5, 0), (0, 1)] d (if slt64 (s.rg b) (s.rg a) then s.rg a else s.rg b))

/-- minu (16 Table 16-1): A if u(A) < u(B), else B. -/
def execMinu (d a b : Nat) (s : State) : Result :=
  .next (s.result [a, b] [(5, 0), (0, 1)] d (if ult64 (s.rg a) (s.rg b) then s.rg a else s.rg b))

/-- maxu (16 Table 16-1): A if u(A) > u(B), else B. -/
def execMaxu (d a b : Nat) (s : State) : Result :=
  .next (s.result [a, b] [(5, 0), (0, 1)] d (if ult64 (s.rg b) (s.rg a) then s.rg a else s.rg b))

/-- slt (16 Table 16-1). -/
def execSlt (d a b : Nat) (s : State) : Result :=
  .next (s.result [a, b] [(5, 0), (0, 2)] d (flag64 (slt64 (s.rg a) (s.rg b))))

/-- sltu (16 Table 16-1). -/
def execSltu (d a b : Nat) (s : State) : Result :=
  .next (s.result [a, b] [(5, 0), (0, 2)] d (flag64 (ult64 (s.rg a) (s.rg b))))

/-- seq (16 Table 16-1). -/
def execSeq (d a b : Nat) (s : State) : Result :=
  .next (s.result [a, b] [(5, 0), (0, 2)] d (flag64 (s.rg a == s.rg b)))

/-- sne (16 Table 16-1). -/
def execSne (d a b : Nat) (s : State) : Result :=
  .next (s.result [a, b] [(5, 0), (0, 2)] d (flag64 (s.rg a != s.rg b)))

/-- lea (16 Table 16-1): A + (B << mod). -/
def execLea (d a b m : Nat) (s : State) : Result :=
  .next (s.result [a, b] [(5, 0), (0, 1)] d (s.rg a + s.rg b <<< m))

/-- clz (16 Table 16-1). -/
def execClz (d a : Nat) (s : State) : Result :=
  .next (s.result [a] [(5, 0), (1, 2)] d (BitVec.ofNat 64 (clzN (s.rg a).toNat 64)))

/-- ctz (16 Table 16-1). -/
def execCtz (d a : Nat) (s : State) : Result :=
  .next (s.result [a] [(5, 0), (1, 2)] d (BitVec.ofNat 64 (ctzN (s.rg a).toNat 0 64)))

/-- popc (16 Table 16-1). -/
def execPopc (d a : Nat) (s : State) : Result :=
  .next (s.result [a] [(5, 0), (1, 2)] d (BitVec.ofNat 64 (popN (s.rg a).toNat 64)))

/-- bswap (16 Table 16-1). -/
def execBswap (d a : Nat) (s : State) : Result :=
  .next (s.result [a] [(5, 0), (1, 2)] d (BitVec.ofNat 64 (swapN (s.rg a).toNat 8)))

/-- sext.b (16 Table 16-1). -/
def execSextB (d a : Nat) (s : State) : Result :=
  .next (s.result [a] [(5, 0), (1, 2)] d (sext64 (s.rg a).toNat 8))

/-- sext.h (16 Table 16-1). -/
def execSextH (d a : Nat) (s : State) : Result :=
  .next (s.result [a] [(5, 0), (1, 2)] d (sext64 (s.rg a).toNat 16))

/-- sext.w (16 Table 16-1). -/
def execSextW (d a : Nat) (s : State) : Result :=
  .next (s.result [a] [(5, 0), (1, 2)] d (sext64 (s.rg a).toNat 32))

/-- zext.b (16 Table 16-1). -/
def execZextB (d a : Nat) (s : State) : Result :=
  .next (s.result [a] [(5, 0), (1, 2)] d (zext64 (s.rg a).toNat 8))

/-- zext.h (16 Table 16-1). -/
def execZextH (d a : Nat) (s : State) : Result :=
  .next (s.result [a] [(5, 0), (1, 2)] d (zext64 (s.rg a).toNat 16))

/-- zext.w (16 Table 16-1). -/
def execZextW (d a : Nat) (s : State) : Result :=
  .next (s.result [a] [(5, 0), (1, 2)] d (zext64 (s.rg a).toNat 32))

/-- csel (16 Table 16-1): A if D ≠ 0, else B. -/
def execCsel (d a b : Nat) (s : State) : Result :=
  .next (s.result [a, b] [(5, 0), (0, 1)] d (if s.rg d = 0 then s.rg b else s.rg a))

/-- addi (16 Table 16-4). -/
def execAddi (d a i : Nat) (s : State) : Result :=
  .next (s.result [a] [(5, 0), (0, 1)] d (s.rg a + simm16 i))

/-- andi (16 Table 16-4). -/
def execAndi (d a i : Nat) (s : State) : Result :=
  .next (s.result [a] [(5, 0), (0, 1)] d (s.rg a &&& uimm16 i))

/-- ori (16 Table 16-4). -/
def execOri (d a i : Nat) (s : State) : Result :=
  .next (s.result [a] [(5, 0), (0, 1)] d (s.rg a ||| uimm16 i))

/-- xori (16 Table 16-4). -/
def execXori (d a i : Nat) (s : State) : Result :=
  .next (s.result [a] [(5, 0), (0, 1)] d (s.rg a ^^^ uimm16 i))

/-- slti (16 Table 16-4). -/
def execSlti (d a i : Nat) (s : State) : Result :=
  .next (s.result [a] [(5, 0), (0, 2)] d (flag64 (slt64 (s.rg a) (simm16 i))))

/-- sltiu (16 Table 16-4): the immediate is sign-extended, then compared as unsigned. -/
def execSltiu (d a i : Nat) (s : State) : Result :=
  .next (s.result [a] [(5, 0), (0, 2)] d (flag64 (ult64 (s.rg a) (simm16 i))))

/-- slli (16 R338): as sll with n in place of B[5:0]. -/
def execSlli (d a n : Nat) (s : State) : Result :=
  .next (s.result [a] [(5, 0), (1, 1)] d (sll64 (s.rg a) (BitVec.ofNat 64 n)))

/-- srli (16 R338): as srl with n in place of B[5:0]. -/
def execSrli (d a n : Nat) (s : State) : Result :=
  .next (s.result [a] [(5, 0), (1, 1)] d (srl64 (s.rg a) (BitVec.ofNat 64 n)))

/-- srai (16 R338): as sra with n in place of B[5:0]. -/
def execSrai (d a n : Nat) (s : State) : Result :=
  .next (s.result [a] [(5, 0), (1, 1)] d (sra64 (s.rg a) (BitVec.ofNat 64 n)))

/-- rori (16 R338): as ror with n in place of B[5:0]. -/
def execRori (d a n : Nat) (s : State) : Result :=
  .next (s.result [a] [(5, 0), (1, 1)] d (ror64 (s.rg a) (BitVec.ofNat 64 n)))

/-- lui (16 R339): halfword h of D is replaced, the other three are kept. -/
def execLui (d h i : Nat) (s : State) : Result :=
  .next (s.result [] [(5, 0), (1, 1)] d (luiValue (s.rg d) h i))

/-- addpc (16 R340). -/
def execAddpc (d i : Nat) (s : State) : Result :=
  .next (s.result [] [(4, 1)] d (target s.pc i 16))

/-- extr (16 R341); the field w of the word is width − 1. -/
def execExtr (d a l w : Nat) (s : State) : Result :=
  .next (s.result [a] [(5, 0), (1, 1)] d (sext64 (extrField (s.rg a) l w) (w + 1)))

/-- extru (16 R341). -/
def execExtru (d a l w : Nat) (s : State) : Result :=
  .next (s.result [a] [(5, 0), (1, 1)] d (zext64 (extrField (s.rg a) l w) (w + 1)))

/-- ins (16 R341). -/
def execIns (d a l w : Nat) (s : State) : Result :=
  .next (s.result [a] [(5, 0), (1, 1)] d (setBits (s.rg d) l (w + 1) (s.rg a).toNat))

/-- A conditional branch (16 R342): the next word is at the target when the condition holds. -/
def State.branch (s : State) (a b o : Nat) (c : Bool) : State :=
  s.run [a, b] [(5, 0), (0, 2), (4, 1)] (if c then s.jump (target s.pc o 16) else s.advance)

/-- beq (16 Table 16-5). -/
def execBeq (a b o : Nat) (s : State) : Result := .next (s.branch a b o (s.rg a == s.rg b))

/-- bne (16 Table 16-5). -/
def execBne (a b o : Nat) (s : State) : Result := .next (s.branch a b o (s.rg a != s.rg b))

/-- blt (16 Table 16-5). -/
def execBlt (a b o : Nat) (s : State) : Result := .next (s.branch a b o (slt64 (s.rg a) (s.rg b)))

/-- bge (16 Table 16-5). -/
def execBge (a b o : Nat) (s : State) : Result := .next (s.branch a b o (!(slt64 (s.rg a) (s.rg b))))

/-- bltu (16 Table 16-5). -/
def execBltu (a b o : Nat) (s : State) : Result := .next (s.branch a b o (ult64 (s.rg a) (s.rg b)))

/-- bgeu (16 Table 16-5). -/
def execBgeu (a b o : Nat) (s : State) : Result := .next (s.branch a b o (!(ult64 (s.rg a) (s.rg b))))

/-- jal (16 R343): g31 := pc + 4, and the target. -/
def execJal (o : Nat) (s : State) : Result :=
  .next (s.run [31] [(4, 1)] ((s.wr 31 (s.pc + 4)).jump (target s.pc o 26)))

/-- jalr (16 R344): a target that is not a multiple of 4 takes cause 0x03 with g31 unchanged. -/
def execJalr (a i : Nat) (s : State) : Result :=
  let t := target (s.rg a) i 16
  .next (s.run [a, 31] [(5, 0), (4, 1)]
    (if bits t 0 2 = 0 then (s.wr 31 (s.pc + 4)).jump t else s.raise 0x03 t))

/-- A multiply or divide completes (16 R347): its result is written once its latency has passed. -/
def execMultiplyOrDivideCompletes (core slot : Nat) (s : State) : Result :=
  let k := slotKey core slot
  let x := s.slot k
  match x.muls.find? (fun m => m.done ≤ s.cycle) with
  | none => .next s
  | some m =>
    let y := { x with muls := x.muls.erase m }
    .next ((s.setSlot k (y.setReg m.dst m.val)).enterSync k)

end Sys2Proof.Machine
end

