-- ==== Sys2Proof/Machine/Manage.lean ====
section
/-! DEFINITION. Attestation and management (03 R65, R66). What an answer holds beyond the device's registers rests on keys,
certificates and firmware that the spec does not give: it is a free value (log 12). -/

namespace Sys2Proof.Machine

abbrev MgmtResult := Host.Outcome State Fault Refusal

/-- Verified firmware runs, whether or not its identity could be made. -/
def State.verified (s : State) : Bool :=
  s.running && (s.pkg.devState == 6 || (s.pkg.devState == 7 && decide (3 ≤ s.pkg.errCode)))

/-- Firmware runs: identity has been made (step 3), and the clocks are not stopped. -/
def State.firmware (s : State) : Bool :=
  s.running && (s.pkg.devState == 6 || (s.pkg.devState == 7 && decide (3 < s.pkg.errCode)))

/-- An SPDM answer; its code is that of the SPDM specification (log 24). -/
def State.spdm (s : State) (code : Nat) (data : List Nat) : State := s.emit (.spdm code data)
/-- The SPDM error answer: 0x04 an unexpected request, 0x41 a version mismatch, 0x01 an invalid one. -/
def State.spdmError (s : State) (why : Nat) : State := s.spdm 0x7F [why]

/-- GET_VERSION: 1.2 and 1.3; what was negotiated before is forgotten. -/
def execGetVersion (s : State) : MgmtResult :=
  if s.firmware = false then .next s
  else .next ({ s with pkg := { s.pkg with spdmVer := 0, spdmNeg := false } }.spdm 0x04 [0x12, 0x13])

/-- GET_CAPABILITIES under a version. -/
def execGetCapabilities (ver : Nat) (s : State) : MgmtResult :=
  if s.firmware = false then .next s
  else if ver ≠ 0x12 ∧ ver ≠ 0x13 then .next (s.spdmError 0x41)
  else .next ({ s with pkg := { s.pkg with spdmVer := ver, spdmNeg := false } }.spdm 0x61 (Config.answer 0x61 [ver]))

/-- NEGOTIATE_ALGORITHMS: ECDSA P-256 and SHA-256 only. asym and hash are 1 where the request offers them. -/
def execNegotiateAlgorithms (asym hash : Nat) (s : State) : MgmtResult :=
  if s.firmware = false then .next s
  else if s.pkg.spdmVer = 0 then .next (s.spdmError 0x04)
  else if asym ≠ 1 ∨ hash ≠ 1 then .next (s.spdmError 0x01)
  else .next ({ s with pkg := { s.pkg with spdmNeg := true } }.spdm 0x63 [1, 1])

/-- A request that needs the algorithms agreed on. -/
def State.spdmAsked (s : State) (code : Nat) (asked : List Nat) : State :=
  if s.firmware = false then s
  else if s.pkg.spdmNeg = false then s.spdmError 0x04
  else s.spdm code (Config.answer code asked)

/-- GET_DIGESTS and GET_CERTIFICATE: of the chain that ends in the alias certificate (R64). -/
def execGetDigests (s : State) : MgmtResult := .next (s.spdmAsked 0x01 [s.pkg.spdmVer, s.pkg.cert])
def execGetCertificate (chain off len : Nat) (s : State) : MgmtResult :=
  .next (s.spdmAsked 0x02 [s.pkg.spdmVer, chain, off, len, s.pkg.cert])
/-- CHALLENGE: signed with the alias key. -/
def execChallenge (chain : Nat) (nonce : List Nat) (s : State) : MgmtResult :=
  .next (s.spdmAsked 0x03 (s.pkg.spdmVer :: chain :: Config.sign s.pkg.aliasKey (chain :: nonce) :: nonce))

/-- The measurement blocks that an index of GET_MEASUREMENTS asks for: one, or with 255 all; none with 0, which asks for their
number. -/
def Package.blocks (p : Package) (index : Nat) : List Nat :=
  if index = 255 then p.meas else if index = 0 then [] else (p.meas.drop (index - 1)).take 1

/-- GET_MEASUREMENTS (Table 03-11): the blocks of the boot that runs, signed with the alias key. -/
def execGetMeasurements (index : Nat) (nonce : List Nat) (s : State) : MgmtResult :=
  let m := s.pkg.blocks index
  if index ≤ 5 ∨ index = 255 then
    .next (s.spdmAsked 0x60 (s.pkg.spdmVer :: index :: Config.sign s.pkg.aliasKey (m ++ nonce) :: (m ++ nonce)))
  else .next (if s.firmware then s.spdmError 0x01 else s)

/-- Management answers: the package is powered, and not in thermal stop. -/
def State.manages (s : State) : Bool := s.running

/-- An MCTP control message is answered. -/
def execMctpControl (cmd arg : Nat) (s : State) : MgmtResult :=
  .next (if s.manages then s.emit (.mctp cmd (Config.answer cmd [arg])) else s)

/-- The state of each port. -/
def State.linkStates (s : State) : List Nat := (List.range 24).map (fun p => (s.port p).stat.toNat)

/-- A status read: DEVSTAT, PWRSTAT and the link state; thermal stop too answers it. -/
def execMgmtReadStatus (s : State) : MgmtResult :=
  .next (if s.pkg.powered then s.emit (.mctp 256 (s.devstat.toNat :: s.pwrstat.toNat :: s.linkStates)) else s)

/-- The management power cap is set, and cleared (01 R23). -/
def execMgmtSetPowerCap (watts : Nat) (s : State) : MgmtResult :=
  .next (if s.manages then { s with pkg := { s.pkg with cap := some watts } }.emit (.mctp 257 []) else s)
def execMgmtClearPowerCap (s : State) : MgmtResult :=
  .next (if s.manages then { s with pkg := { s.pkg with cap := none } }.emit (.mctp 258 []) else s)

/-- A warm reset is requested with the key of RESETCTL; thermal stop too answers it. -/
def execMgmtWarmReset (key : Nat) (s : State) : MgmtResult :=
  .next (if s.pkg.powered ∧ key = 0xA5 then (s.emit (.mctp 259 [])).askWarm else s)

/-- A firmware update is written into the slot that does not run (03 R63, R66): it takes effect at the next warm or cold reset.
good tells of the image written: 1 it verifies, 2 its key is none of the ROM's, else its signature does not verify. -/
def execMgmtFirmwareUpdate (image svn good : Nat) (s : State) : MgmtResult :=
  if s.verified = false then .next s
  else
    let i : Image := { good := good == 1, svn := svn, id := image, key := good != 2 }
    let f := s.pkg.facts
    let f := if s.pkg.bootSlot = 0 then { f with imageB := i } else { f with imageA := i }
    .next ({ s with pkg := { s.pkg with facts := f } }.emit (.mctp 260 []))

end Sys2Proof.Machine
end

