-- ==== Sys2Proof/Machine/Dispatch.lean ====
section
/-! DEFINITION. The meaning of every instruction and event: one arm for each constructor of Instr, each one direct call. -/

namespace Sys2Proof.Machine

/-- The meaning of an instruction or event in a state. -/
def exec (i : Instr) (s : State) : Host.Outcome State Fault Refusal :=
  match i with
  | .add d a b => Sys2Proof.Machine.execAdd d a b s
  | .sub d a b => Sys2Proof.Machine.execSub d a b s
  | .and d a b => Sys2Proof.Machine.execAnd d a b s
  | .or d a b => Sys2Proof.Machine.execOr d a b s
  | .xor d a b => Sys2Proof.Machine.execXor d a b s
  | .andn d a b => Sys2Proof.Machine.execAndn d a b s
  | .orn d a b => Sys2Proof.Machine.execOrn d a b s
  | .sll d a b => Sys2Proof.Machine.execSll d a b s
  | .srl d a b => Sys2Proof.Machine.execSrl d a b s
  | .sra d a b => Sys2Proof.Machine.execSra d a b s
  | .ror d a b => Sys2Proof.Machine.execRor d a b s
  | .mul d a b => Sys2Proof.Machine.execMul d a b s
  | .mulh d a b => Sys2Proof.Machine.execMulh d a b s
  | .mulhu d a b => Sys2Proof.Machine.execMulhu d a b s
  | .div d a b => Sys2Proof.Machine.execDiv d a b s
  | .divu d a b => Sys2Proof.Machine.execDivu d a b s
  | .rem d a b => Sys2Proof.Machine.execRem d a b s
  | .remu d a b => Sys2Proof.Machine.execRemu d a b s
  | .min d a b => Sys2Proof.Machine.execMin d a b s
  | .max d a b => Sys2Proof.Machine.execMax d a b s
  | .minu d a b => Sys2Proof.Machine.execMinu d a b s
  | .maxu d a b => Sys2Proof.Machine.execMaxu d a b s
  | .slt d a b => Sys2Proof.Machine.execSlt d a b s
  | .sltu d a b => Sys2Proof.Machine.execSltu d a b s
  | .seq d a b => Sys2Proof.Machine.execSeq d a b s
  | .sne d a b => Sys2Proof.Machine.execSne d a b s
  | .lea d a b sc => Sys2Proof.Machine.execLea d a b sc s
  | .clz d a => Sys2Proof.Machine.execClz d a s
  | .ctz d a => Sys2Proof.Machine.execCtz d a s
  | .popc d a => Sys2Proof.Machine.execPopc d a s
  | .bswap d a => Sys2Proof.Machine.execBswap d a s
  | .sextB d a => Sys2Proof.Machine.execSextB d a s
  | .sextH d a => Sys2Proof.Machine.execSextH d a s
  | .sextW d a => Sys2Proof.Machine.execSextW d a s
  | .zextB d a => Sys2Proof.Machine.execZextB d a s
  | .zextH d a => Sys2Proof.Machine.execZextH d a s
  | .zextW d a => Sys2Proof.Machine.execZextW d a s
  | .csel d a b => Sys2Proof.Machine.execCsel d a b s
  | .addi d a im => Sys2Proof.Machine.execAddi d a im s
  | .andi d a im => Sys2Proof.Machine.execAndi d a im s
  | .ori d a im => Sys2Proof.Machine.execOri d a im s
  | .xori d a im => Sys2Proof.Machine.execXori d a im s
  | .slti d a im => Sys2Proof.Machine.execSlti d a im s
  | .sltiu d a im => Sys2Proof.Machine.execSltiu d a im s
  | .slli d a n => Sys2Proof.Machine.execSlli d a n s
  | .srli d a n => Sys2Proof.Machine.execSrli d a n s
  | .srai d a n => Sys2Proof.Machine.execSrai d a n s
  | .rori d a n => Sys2Proof.Machine.execRori d a n s
  | .lui d h im => Sys2Proof.Machine.execLui d h im s
  | .addpc d im => Sys2Proof.Machine.execAddpc d im s
  | .extr d a l w => Sys2Proof.Machine.execExtr d a l w s
  | .extru d a l w => Sys2Proof.Machine.execExtru d a l w s
  | .ins d a l w => Sys2Proof.Machine.execIns d a l w s
  | .beq a b o => Sys2Proof.Machine.execBeq a b o s
  | .bne a b o => Sys2Proof.Machine.execBne a b o s
  | .blt a b o => Sys2Proof.Machine.execBlt a b o s
  | .bge a b o => Sys2Proof.Machine.execBge a b o s
  | .bltu a b o => Sys2Proof.Machine.execBltu a b o s
  | .bgeu a b o => Sys2Proof.Machine.execBgeu a b o s
  | .jal o => Sys2Proof.Machine.execJal o s
  | .jalr a im => Sys2Proof.Machine.execJalr a im s
  | .ldB t b c p o => Sys2Proof.Machine.execLdB t b c p o s
  | .ldBu t b c p o => Sys2Proof.Machine.execLdBu t b c p o s
  | .ldH t b c p o => Sys2Proof.Machine.execLdH t b c p o s
  | .ldHu t b c p o => Sys2Proof.Machine.execLdHu t b c p o s
  | .ldW t b c p o => Sys2Proof.Machine.execLdW t b c p o s
  | .ldWu t b c p o => Sys2Proof.Machine.execLdWu t b c p o s
  | .ldD t b c p o => Sys2Proof.Machine.execLdD t b c p o s
  | .ldX t b c p o => Sys2Proof.Machine.execLdX t b c p o s
  | .stB t b c p o => Sys2Proof.Machine.execStB t b c p o s
  | .stH t b c p o => Sys2Proof.Machine.execStH t b c p o s
  | .stW t b c p o => Sys2Proof.Machine.execStW t b c p o s
  | .stD t b c p o => Sys2Proof.Machine.execStD t b c p o s
  | .stX t b c p o => Sys2Proof.Machine.execStX t b c p o s
  | .pf w b c p o => Sys2Proof.Machine.execPf w b c p o s
  | .amoAdd d a b o sc z => Sys2Proof.Machine.execAmoAdd d a b o sc z s
  | .amoAnd d a b o sc z => Sys2Proof.Machine.execAmoAnd d a b o sc z s
  | .amoOr d a b o sc z => Sys2Proof.Machine.execAmoOr d a b o sc z s
  | .amoXor d a b o sc z => Sys2Proof.Machine.execAmoXor d a b o sc z s
  | .amoSwap d a b o sc z => Sys2Proof.Machine.execAmoSwap d a b o sc z s
  | .amoMin d a b o sc z => Sys2Proof.Machine.execAmoMin d a b o sc z s
  | .amoMax d a b o sc z => Sys2Proof.Machine.execAmoMax d a b o sc z s
  | .amoMinu d a b o sc z => Sys2Proof.Machine.execAmoMinu d a b o sc z s
  | .amoMaxu d a b o sc z => Sys2Proof.Machine.execAmoMaxu d a b o sc z s
  | .cas d a b o sc z => Sys2Proof.Machine.execCas d a b o sc z s
  | .aincb d a b o sc z => Sys2Proof.Machine.execAincb d a b o sc z s
  | .adecz d a o sc z => Sys2Proof.Machine.execAdecz d a o sc z s
  | .fenceAcq sc m => Sys2Proof.Machine.execFenceAcq sc m s
  | .fenceRel sc m => Sys2Proof.Machine.execFenceRel sc m s
  | .fenceFull sc m => Sys2Proof.Machine.execFenceFull sc m s
  | .fencePersist sc m => Sys2Proof.Machine.execFencePersist sc m s
  | .l1inv c => Sys2Proof.Machine.execL1inv c s
  | .dinv a => Sys2Proof.Machine.execDinv a s
  | .waitwNe d a b z => Sys2Proof.Machine.execWaitwNe d a b z s
  | .waitwEq d a b z => Sys2Proof.Machine.execWaitwEq d a b z s
  | .qpush g sc q t r => Sys2Proof.Machine.execQpush g sc q t r s
  | .qpop d sc q t a => Sys2Proof.Machine.execQpop d sc q t a s
  | .qpeek d sc q t a => Sys2Proof.Machine.execQpeek d sc q t a s
  | .qclasp g q t r l => Sys2Proof.Machine.execQclasp g q t r l s
  | .qstat d q c => Sys2Proof.Machine.execQstat d q c s
  | .bqpop d q a n => Sys2Proof.Machine.execBqpop d q a n s
  | .qbind sc q b o => Sys2Proof.Machine.execQbind sc q b o s
  | .strm d a => Sys2Proof.Machine.execStrm d a s
  | .strmwait a => Sys2Proof.Machine.execStrmwait a s
  | .strmkill a => Sys2Proof.Machine.execStrmkill a s
  | .copy d a => Sys2Proof.Machine.execCopy d a s
  | .cwait a => Sys2Proof.Machine.execCwait a s
  | .cpoll d a => Sys2Proof.Machine.execCpoll d a s
  | .place d a => Sys2Proof.Machine.execPlace d a s
  | .sect a b => Sys2Proof.Machine.execSect a b s
  | .mark d => Sys2Proof.Machine.execMark d s
  | .cutwait a => Sys2Proof.Machine.execCutwait a s
  | .release a => Sys2Proof.Machine.execRelease a s
  | .tqpush a b => Sys2Proof.Machine.execTqpush a b s
  | .renq a b => Sys2Proof.Machine.execRenq a b s
  | .tspawn d a b => Sys2Proof.Machine.execTspawn d a b s
  | .texit => Sys2Proof.Machine.execTexit s
  | .yield => Sys2Proof.Machine.execYield s
  | .tresume a => Sys2Proof.Machine.execTresume a s
  | .trap c => Sys2Proof.Machine.execTrap c s
  | .eret => Sys2Proof.Machine.execEret s
  | .crr d n => Sys2Proof.Machine.execCrr d n s
  | .crw a n => Sys2Proof.Machine.execCrw a n s
  | .crs d a n => Sys2Proof.Machine.execCrs d a n s
  | .crc d a n => Sys2Proof.Machine.execCrc d a n s
  | .tlbinv d a r k => Sys2Proof.Machine.execTlbinv d a r k s
  | .halt => Sys2Proof.Machine.execHalt s
  | .selftest d a => Sys2Proof.Machine.execSelftest d a s
  | .asyncTrapEntry core slot => Sys2Proof.Machine.execAsyncTrapEntry core slot s
  | .timerExpiry core slot => Sys2Proof.Machine.execTimerExpiry core slot s
  | .blockedWake core slot => Sys2Proof.Machine.execBlockedWake core slot s
  | .waitwPoll core slot => Sys2Proof.Machine.execWaitwPoll core slot s
  | .loadDataReturn core slot idx => Sys2Proof.Machine.execLoadDataReturn core slot idx s
  | .wcbDrain core idx => Sys2Proof.Machine.execWcbDrain core idx s
  | .storePerformed core idx => Sys2Proof.Machine.execStorePerformed core idx s
  | .walkDone die idx => Sys2Proof.Machine.execWalkDone die idx s
  | .faultEntryWrite die => Sys2Proof.Machine.execFaultEntryWrite die s
  | .fqbaseWrite die v => Sys2Proof.Machine.execFqbaseWrite die v s
  | .fqheadWrite die v => Sys2Proof.Machine.execFqheadWrite die v s
  | .fresume die seq => Sys2Proof.Machine.execFresume die seq s
  | .engineCommandStart core kind => Sys2Proof.Machine.execEngineCommandStart core kind s
  | .threadCommandStart core => Sys2Proof.Machine.execThreadCommandStart core s
  | .streamLineReturn core stream elem => Sys2Proof.Machine.execStreamLineReturn core stream elem s
  | .streamPark core stream => Sys2Proof.Machine.execStreamPark core stream s
  | .streamDrainPop core stream => Sys2Proof.Machine.execStreamDrainPop core stream s
  | .copyLine core copy => Sys2Proof.Machine.execCopyLine core copy s
  | .streamComplete core stream => Sys2Proof.Machine.execStreamComplete core stream s
  | .copyComplete core copy => Sys2Proof.Machine.execCopyComplete core copy s
  | .configStreamApply core stream => Sys2Proof.Machine.execConfigStreamApply core stream s
  | .monselClear die mon v => Sys2Proof.Machine.execMonselClear die mon v s
  | .lossOfDecoupling q => Sys2Proof.Machine.execLossOfDecoupling q s
  | .probeStart core slot => Sys2Proof.Machine.execProbeStart core slot s
  | .probeHop probe => Sys2Proof.Machine.execProbeHop probe s
  | .governorEvaluation watts tj amps => Sys2Proof.Machine.execGovernorEvaluation watts tj amps s
  | .thermalStop tj => Sys2Proof.Machine.execThermalStop tj s
  | .thermalRestart tj => Sys2Proof.Machine.execThermalRestart tj s
  | .coldReset => Sys2Proof.Machine.execColdReset s
  | .warmReset => Sys2Proof.Machine.execWarmReset s
  | .functionReset => Sys2Proof.Machine.execFunctionReset s
  | .resetctlWarm v => Sys2Proof.Machine.execResetctlWarm v s
  | .rootctlGo v => Sys2Proof.Machine.execRootctlGo v s
  | .hostMemRead range off cache => Sys2Proof.Machine.execHostMemRead range off cache s
  | .hostMemWrite range off mask data => Sys2Proof.Machine.execHostMemWrite range off mask data s
  | .snoopResponse line mask data => Sys2Proof.Machine.execSnoopResponse line mask data s
  | .hostAppend q desc => Sys2Proof.Machine.execHostAppend q desc s
  | .hostAccessCompletion id data status => Sys2Proof.Machine.execHostAccessCompletion id data status s
  | .persistAck core slot ok => Sys2Proof.Machine.execPersistAck core slot ok s
  | .hostLinkDown => Sys2Proof.Machine.execHostLinkDown s
  | .msixUnmask vec => Sys2Proof.Machine.execMsixUnmask vec s
  | .getVersion => Sys2Proof.Machine.execGetVersion s
  | .getCapabilities ver => Sys2Proof.Machine.execGetCapabilities ver s
  | .negotiateAlgorithms asym hash => Sys2Proof.Machine.execNegotiateAlgorithms asym hash s
  | .getDigests => Sys2Proof.Machine.execGetDigests s
  | .getCertificate chain off len => Sys2Proof.Machine.execGetCertificate chain off len s
  | .challenge chain nonce => Sys2Proof.Machine.execChallenge chain nonce s
  | .getMeasurements index nonce => Sys2Proof.Machine.execGetMeasurements index nonce s
  | .mctpControl cmd arg => Sys2Proof.Machine.execMctpControl cmd arg s
  | .mgmtReadStatus => Sys2Proof.Machine.execMgmtReadStatus s
  | .mgmtSetPowerCap watts => Sys2Proof.Machine.execMgmtSetPowerCap watts s
  | .mgmtClearPowerCap => Sys2Proof.Machine.execMgmtClearPowerCap s
  | .mgmtWarmReset key => Sys2Proof.Machine.execMgmtWarmReset key s
  | .mgmtFirmwareUpdate image svn good => Sys2Proof.Machine.execMgmtFirmwareUpdate image svn good s
  | .flitReceive port seq ack ok nak => Sys2Proof.Machine.execFlitReceive port seq ack ok nak s
  | .portFailure port why => Sys2Proof.Machine.execPortFailure port why s
  | .portTrainingDone port ok => Sys2Proof.Machine.execPortTrainingDone port ok s
  | .lnkctlRetrain port => Sys2Proof.Machine.execLnkctlRetrain port s
  | .portDisable port => Sys2Proof.Machine.execPortDisable port s
  | .portEnable port => Sys2Proof.Machine.execPortEnable port s
  | .packetReceive port pkt => Sys2Proof.Machine.execPacketReceive port pkt s
  | .remoteRequest => Sys2Proof.Machine.execRemoteRequest s
  | .remoteResponse => Sys2Proof.Machine.execRemoteResponse s
  | .requestTimeout tag => Sys2Proof.Machine.execRequestTimeout tag s
  | .circuitDataReceive => Sys2Proof.Machine.execCircuitDataReceive s
  | .circuitCreditReceive => Sys2Proof.Machine.execCircuitCreditReceive s
  | .stepDataReceive => Sys2Proof.Machine.execStepDataReceive s
  | .stepAckReceive => Sys2Proof.Machine.execStepAckReceive s
  | .stepTimeout core copy => Sys2Proof.Machine.execStepTimeout core copy s
  | .pick die => Sys2Proof.Machine.execPick die s
  | .taskComplete task => Sys2Proof.Machine.execTaskComplete task s
  | .releaseBufferAppend die => Sys2Proof.Machine.execReleaseBufferAppend die s
  | .spillRefill q => Sys2Proof.Machine.execSpillRefill q s
  | .qcfgResume q => Sys2Proof.Machine.execQcfgResume q s
  | .placementTimeout load => Sys2Proof.Machine.execPlacementTimeout load s
  | .startToken load => Sys2Proof.Machine.execStartToken load s
  | .switchRoute tile port vc => Sys2Proof.Machine.execSwitchRoute tile port vc s
  | .fire tile slot => Sys2Proof.Machine.execFire tile slot s
  | .csrcEmit tile slot => Sys2Proof.Machine.execCsrcEmit tile slot s
  | .bankSwap tile => Sys2Proof.Machine.execBankSwap tile s
  | .timedTick tile => Sys2Proof.Machine.execTimedTick tile s
  | .blockReady tile => Sys2Proof.Machine.execBlockReady tile s
  | .groupAdvance tile group => Sys2Proof.Machine.execGroupAdvance tile group s
  | .outputMove tile => Sys2Proof.Machine.execOutputMove tile s
  | .stagingSend tile => Sys2Proof.Machine.execStagingSend tile s
  | .tstoreWrite tile => Sys2Proof.Machine.execTstoreWrite tile s
  | .generatorStep tile gen => Sys2Proof.Machine.execGeneratorStep tile gen s
  | .fifoTake tile => Sys2Proof.Machine.execFifoTake tile s
  | .fifoEmit tile => Sys2Proof.Machine.execFifoEmit tile s
  | .lbufTake tile => Sys2Proof.Machine.execLbufTake tile s
  | .rptCapture tile => Sys2Proof.Machine.execRptCapture tile s
  | .cdownScan tile => Sys2Proof.Machine.execCdownScan tile s
  | .cdownDecrement tile => Sys2Proof.Machine.execCdownDecrement tile s
  | .ltabLookup tile => Sys2Proof.Machine.execLtabLookup tile s
  | .selftestDone test pass => Sys2Proof.Machine.execSelftestDone test pass s
  | .segmentCommit load => Sys2Proof.Machine.execSegmentCommit load s
  | .scrubVisit line result => Sys2Proof.Machine.execScrubVisit line result s
  | .scrubClear line => Sys2Proof.Machine.execScrubClear line s
  | .scrubPoison line => Sys2Proof.Machine.execScrubPoison line s
  | .loadctlPreempt die load => Sys2Proof.Machine.execLoadctlPreempt die load s
  | .loadctlRestore die load => Sys2Proof.Machine.execLoadctlRestore die load s
  | .loadctlKill die load => Sys2Proof.Machine.execLoadctlKill die load s
  | .elementAlign tile => Sys2Proof.Machine.execElementAlign tile s
  | .drainSave load => Sys2Proof.Machine.execDrainSave load s
  | .resumeToken load => Sys2Proof.Machine.execResumeToken load s
  | .occupancySweep => Sys2Proof.Machine.execOccupancySweep s
  | .loadFinish load => Sys2Proof.Machine.execLoadFinish load s
  | .registerWrite off size v => Sys2Proof.Machine.execRegisterWrite off size v s
  | .powerOff => Sys2Proof.Machine.execPowerOff s
  | .aPortTake tile => Sys2Proof.Machine.execAPortTake tile s
  | .bPortTake tile port => Sys2Proof.Machine.execBPortTake tile port s
  | .resultEntersOutputRegister tile slot => Sys2Proof.Machine.execResultEntersOutputRegister tile slot s
  | .multiplyOrDivideCompletes core slot => Sys2Proof.Machine.execMultiplyOrDivideCompletes core slot s

end Sys2Proof.Machine
end

