-- ==== Sys2Proof/Machine/Turns.lean ====
section
/-! DEFINITION. Turns: what one does, how time passes, and the default order when no agenda is given (log 5, 6). -/

namespace Sys2Proof.Machine

/-- The place of a slot in the scan of its core (06 R116). -/
def Core.placeOf (c : Core) (slot : Nat) : Nat := (slot % 16 + 16 - c.rr % 16) % 16

/-- The instructions that a core has issued in this cycle, and where its scan stands. -/
def Core.issuedNow (c : Core) (cycle : Nat) : Nat := if c.stamp = cycle + 1 then c.issued else 0
def Core.scanNow (c : Core) (cycle : Nat) : Nat := if c.stamp = cycle + 1 then c.scan else 0

/-- A slot's issue is counted in its cycle, and the scan goes on behind it (06 R116, Table 06-11). -/
def Core.counts (c : Core) (cycle slot : Nat) : Core :=
  { c with stamp := cycle + 1, issued := c.issuedNow cycle + 1, scan := c.placeOf slot + 1, last := slot % 16 }

/-- Slot k has issued its instruction between s and t: neither was it held back, nor did it begin to wait for a translation or
a queue, nor does it go on with one that had issued and waited for memory of another package or the host (06 R116; log 5). -/
def State.uses (t s : State) (k : Nat) : Bool :=
  decide (t.slot k ≠ s.slot k) && (t.slot k).st != .blockedQueue && (t.slot k).st != .blockedWait &&
    (match (t.slot k).wait with | .walk .. => false | _ => true) && !(s.core (k / 16)).got.any (fun e => e.eid == 256 + k % 16)

/-- After an instruction of a slot: where it has issued, its core counts it, the yields of the core hear of it, and the slot
issues no more in this cycle. -/
def State.hasIssued (t s : State) (k : Nat) : State :=
  if t.uses s k = false then t
  else
    let t := t.setSlot k { t.slot k with nextAt := max (t.slot k).nextAt (t.cycle + 1) }
    let t := t.sawIssue k
    t.setCore (k / 16) ((t.core (k / 16)).counts t.cycle (k % 16))

/-- A slot issues its next instruction: the word fetched is decoded and runs; an illegal word traps with cause 0x01 and
TVAL the word (15 R323). -/
def State.issue (s : State) (k pos : Nat) : Host.Outcome State Fault Refusal :=
  let r := s.ready k pos
  match r.2 with
  | none => .next r.1
  | some w =>
    match decode w with
    | none => .next ((r.1.run [] [] (r.1.raise 0x01 (BitVec.ofNat 64 w))).hasIssued r.1 k)
    | some i =>
      match exec i r.1 with
      | .next t => .next ((t.issuedBy k).hasIssued r.1 k)
      | .fault f => .fault f
      | .refused e => .refused e

/-- A line leaves an L1 cache (06 R118: replacement is the hardware's choice). -/
def State.dropLine (s : State) (c line : Nat) : State :=
  s.setCore c { s.core c with l1d := Tab.set none (s.core c).l1d line none }
def State.dropLineI (s : State) (c line : Nat) : State :=
  s.setCore c { s.core c with l1i := Tab.set none (s.core c).l1i line none }

/-- A translation that is not pinned leaves a second-level TLB (07 R143). -/
def State.dropTlb (s : State) (d n : Nat) : State :=
  match (s.die d).tlb2[n]? with
  | some t => if bit t.leaf 62 then s else s.setDie d { s.die d with tlb2 := dropNth (s.die d).tlb2 n }
  | none => s

/-- A slot among those at places i to i + n − 1 of its core's scan has an instruction that it can issue. -/
def State.issuable (s : State) (c i : Nat) : Nat → Bool
  | 0 => false
  | n + 1 =>
    let x := s.core c
    (match s.issue (slotKey c ((x.rr + i) % 16)) (x.issuedNow s.cycle) with
     | .next u => decide ((u.core c).issuedNow s.cycle ≠ x.issuedNow s.cycle)
     | _ => false) || State.issuable s c (i + 1) n

/-- The slot's turn to issue (06 R116): at most two instructions of a core issue in one cycle, in the order of its scan. What
issues nothing, such as a trap's entry or a wait that begins, has no place in that order. -/
def State.issueTurn (s : State) (c t : Nat) : Host.Outcome State Fault Refusal :=
  let x := s.core c
  let n := x.issuedNow s.cycle
  match s.issue (slotKey c t) n with
  | .next u =>
    if (u.core c).issuedNow s.cycle = n then .next u
    else if 2 ≤ n ∨ x.placeOf t < x.scanNow s.cycle ∨ s.issuable c (x.scanNow s.cycle) (x.placeOf t - x.scanNow s.cycle) then .next s
    else .next u
  | o => o

/-- What a turn does. -/
def State.act (s : State) (a : Act) : Host.Outcome State Fault Refusal :=
  match a with
  | .issue core slot => if core ≥ 256 ∨ slot ≥ 16 then .fault .noSuchSlot else s.issueTurn core slot
  | .event i => exec i s
  | .dropL1 core line => .next (s.dropLine core line)
  | .dropL1i core line => .next (s.dropLineI core line)
  | .dropTlb1 core n => .next (s.setCore core { s.core core with tlb1 := dropNth (s.core core).tlb1 n })
  | .dropTlb2 die n => .next (s.dropTlb die n)
  | .dropDesc die line => .next (s.setDie die { s.die die with dcache := Tab.set none (s.die die).dcache line none })
  | .dropWalk die n => .next (s.setDie die { s.die die with wcache := dropNth (s.die die).wcache n })
  | .wire port part pkt => .next (s.onWire port part pkt)
  | .pack circ => .next (s.packBorder circ)
  | .hostRead off size => .next (s.barRead off size)
  | .hostOther => .next s.hostOther
  | .hostCdat n => .next (s.hostCdat n)
  | .heldMem =>
    (match s.memHeld with
     | i :: r => if s.running then exec i { s with memHeld := r } else .next s
     | [] => .next s)
  | .raiseMinimum svn => .next (s.raiseMinimum svn)
  | .coreUpset core w => .next (if s.running then s.coreUpset core w else s)
  | .engineUpset core eid => .next (if s.running then s.engineUpset core eid else s)
  | .fabricUpset errs => .next (if s.running then s.fabricUpset errs else s)
  | .arrayError key kind n => .next (if s.running then s.arrayError key kind n else s)
  | .lineError line => .next (if s.pkg.powered then s.lineError line else s)
  | .provError load line => .next (if s.pkg.powered then s.provError load line else s)
  | .queueError key n => .next (if s.running then s.queueError key n else s)
  | .idle => .next s

/-! ## Time -/

/-- What a monitor that samples once in each core cycle captures at its end: the instructions issued, and SLIP (06 Table
06-11). -/
def State.cycleValue (s : State) (d : Nat) (sel : Word) : Option Nat :=
  let t := bits sel 32 16
  if bits sel 16 8 = 2 then some ((s.core (64 * d + t % 64)).issuedNow s.cycle)
  else if bits sel 16 8 = 5 ∧ 0 < t ∧ t < 4096 then some (s.queue (d * 4096 + t)).toks.length
  else none

/-- A core cycle ends for the monitors. -/
def State.cycleSamples (s : State) : State :=
  { s with dies := s.dies.map (fun (e : Nat × Die) => (e.1, { e.2 with
      mons := e.2.mons.map (fun (m : Nat × Monitor) => match s.cycleValue e.1 m.2.sel with
        | some v => if m.2.takes s.cycle then (m.1, m.2.sample v) else m
        | none => m) })) }

/-- The full circuits of the fabric are looked at (06 R128). -/
def State.watchPorts (s : State) : State := (s.queues.map (fun (e : Nat × Queue) => e.1)).foldl State.watchPort s

/-- The round-robin pointer moves past the last slot that issued (06 R116). -/
def Core.endCycle (c : Core) (cycle : Nat) : Core :=
  if c.stamp = cycle + 1 ∧ c.issued > 0 then { c with rr := (c.last + 1) % 16, scan := 0, issued := 0 }
  else { c with scan := 0, issued := 0 }

/-- A core cycle ends. -/
def State.endCycle (s : State) : State :=
  let s := s.cycleSamples
  { s with cores := s.cores.map (fun (e : Nat × Core) => (e.1, e.2.endCycle s.cycle)), cycle := s.cycle + 1 }

/-- n core cycles pass. -/
def State.cycles (s : State) : Nat → State
  | 0 => s
  | n + 1 => State.cycles s.endCycle n

/-- Cycles pass on the three clocks, as a turn of the agenda says. -/
def State.pass (s : State) (core fab net : Nat) : State :=
  if core + fab + net = 0 ∨ s.running = false then s
  else
    let s := s.watchPorts.cycles core
    { s with fab := s.fab + fab, net := s.net + net }

/-- One core cycle passes, with the network and fabric cycles that fall in it: the network clock runs at 4/5 of the core
clock, the fabric clock at FCLK/80 (00 R7, 01 R22). -/
def State.passOne (s : State) : State :=
  if s.running = false then s
  else
    let n := s.netPh + 4
    let f := s.fabPh + s.pkg.fclk
    { s.watchPorts.endCycle with net := s.net + n / 5, netPh := n % 5, fab := s.fab + f / 80, fabPh := f % 80 }

/-! ## The default order (log 5) -/

/-- Indexes 0 to n − 1. -/
def upTo (n : Nat) : List Nat := List.range n

/-- What may be due in a slot. -/
def Slot.events (x : Slot) (c t : Nat) : List Instr :=
  (if x.muls.isEmpty then [] else [Instr.multiplyOrDivideCompletes c t]) ++
    (upTo x.outs.length).map (fun i => Instr.loadDataReturn c t i) ++
    (if x.st = .blockedWait ∨ x.st = .blockedQueue then [Instr.waitwPoll c t, Instr.blockedWake c t, Instr.probeStart c t]
     else [])

/-- What may be due in a stream and in a copy. -/
def Stream.events (x : Stream) (c n : Nat) : List Instr :=
  [Instr.streamPark c n] ++
    (if x.drain then [Instr.streamDrainPop c n] else (upTo 64).map (fun i => Instr.streamLineReturn c n (x.pos + i))) ++
    [Instr.configStreamApply c n, Instr.streamComplete c n]
def copyEvents (c n : Nat) : List Instr := [Instr.copyLine c n, Instr.stepTimeout c n, Instr.copyComplete c n]

/-- What may be due on a core. -/
def Core.events (x : Core) (c : Nat) : List Instr :=
  (upTo x.wcb.length).flatMap (fun i => [Instr.wcbDrain c i, Instr.storePerformed c i]) ++
    (if x.engq.isEmpty then [] else
      [Instr.engineCommandStart c 0, Instr.engineCommandStart c 1, Instr.engineCommandStart c 2, Instr.threadCommandStart c]) ++
    x.streams.flatMap (fun e => match e.2 with | some y => y.events c e.1 | none => []) ++
    x.copies.flatMap (fun e => copyEvents c e.1)

/-- What may be due on a die. -/
def Die.events (x : Die) (d : Nat) : List Instr :=
  (upTo (min 32 x.walks.length)).map (fun i => Instr.walkDone d i) ++
    (if x.fqWait.isEmpty then [] else [Instr.faultEntryWrite d]) ++
    (if x.relBuf.isEmpty then [] else [Instr.releaseBufferAppend d])

/-- What may be due in a tile: its switch, what stands in its pipes, its alignment and banks, and then what it begins. -/
def Tile.events (x : Tile) (key : Nat) : List Instr :=
  (x.chans.map (fun e => Instr.switchRoute key (e.1 / 32) (e.1 % 32))) ++
    (if feedSide key then (upTo 16).map (fun vc => Instr.switchRoute key 4 (if x.kind = 0 then 16 + vc else vc)) else []) ++
    [Instr.elementAlign key, Instr.bankSwap key] ++
    (if x.kind = 0 then
      (upTo 16).map (fun n => Instr.resultEntersOutputRegister key n) ++ (upTo 16).map (fun n => Instr.fire key n) ++
        (upTo 16).map (fun n => Instr.csrcEmit key n) ++ [Instr.timedTick key]
     else if x.kind = 1 then
      [Instr.blockReady key, Instr.aPortTake key, Instr.bPortTake key 0, Instr.bPortTake key 1, Instr.stagingSend key,
        Instr.outputMove key] ++ (upTo 8).map (fun g => Instr.groupAdvance key g)
     else
      [Instr.tstoreWrite key] ++ (upTo 4).map (fun g => Instr.generatorStep key g) ++
        [Instr.fifoTake key, Instr.fifoEmit key, Instr.lbufTake key, Instr.rptCapture key, Instr.cdownScan key,
          Instr.cdownDecrement key, Instr.ltabLookup key])

/-- What may be due for a load. -/
def loadEvents (l : Nat) : List Instr :=
  [Instr.startToken l, Instr.resumeToken l, Instr.drainSave l, Instr.segmentCommit l, Instr.loadFinish l,
    Instr.placementTimeout l]

/-- What has come from other packages. -/
def State.inboxEvents (s : State) : List Instr :=
  s.ports.flatMap (fun e => (e.2.rxq.take 1).map (fun k => Instr.packetReceive e.1 k)) ++
  (if s.inbox.isEmpty then [] else
    [Instr.remoteRequest, Instr.remoteResponse, Instr.circuitDataReceive, Instr.circuitCreditReceive, Instr.stepDataReceive,
      Instr.stepAckReceive]) ++
    s.remotes.map (fun e => Instr.requestTimeout e.1)

/-- The events that may be due. A self-test that ends finds its part good (log 5). -/
def State.events (s : State) : List Instr :=
  s.slots.flatMap (fun e => e.2.events (e.1 / 16) (e.1 % 16)) ++ s.cores.flatMap (fun e => e.2.events e.1) ++
    s.dies.flatMap (fun e => e.2.events e.1) ++ s.inboxEvents ++
    s.queues.map (fun e => Instr.lossOfDecoupling e.1) ++
    s.tiles.flatMap (fun e => e.2.events e.1) ++ s.loads.flatMap (fun e => loadEvents e.1) ++
    (if s.loads.isEmpty then [] else [Instr.occupancySweep]) ++
    s.tasks.map (fun e => Instr.taskComplete e.1) ++
    s.tqs.flatMap (fun e => [Instr.spillRefill e.1, Instr.placementTimeout (65536 + e.1)]) ++
    (if s.tqs.isEmpty ∧ s.loads.isEmpty then [] else (upTo 4).map (fun d => Instr.pick d)) ++
    s.probes.map (fun p => Instr.probeHop p.id) ++ s.tests.map (fun t => Instr.selftestDone t.id 1)

/-- The first event of a list that changes the state. -/
def State.firstEvent (s : State) : List Instr → Option Act
  | [] => none
  | i :: r => match exec i s with
    | .next t => if t = s then State.firstEvent s r else some (.event i)
    | _ => State.firstEvent s r

/-- The first slot in a core's scan of this cycle that has something to do. -/
def State.firstIssue (s : State) (c : Nat) : List Nat → Option Act
  | [] => none
  | j :: r =>
    let t := ((s.core c).rr + j) % 16
    match s.issueTurn c t with
    | .next u => if u.slot (slotKey c t) = s.slot (slotKey c t) then State.firstIssue s c r else some (.issue c t)
    | _ => some (.issue c t)

/-- The cores that hold a thread. -/
def State.liveCores (s : State) : List Nat := (s.slots.map (fun e => e.1 / 16)).eraseDups

/-- The next issue of the default order. -/
def State.nextIssue (s : State) : List Nat → Option Act
  | [] => none
  | c :: r =>
    match s.firstIssue c (upTo 16) with
    | some a => some a
    | none => State.nextIssue s r

/-- The packages' converters pack what stands in them, and a held CXL.mem request is performed. -/
def State.lastTurns (s : State) : Option Act :=
  if s.running = false then none
  else if s.memHeld.isEmpty = false then some .heldMem
  else (s.borders.find? (fun e => match e.2 with
    | some b => e.1 % 2 == 0 && !b.words.isEmpty && decide (b.open_.length < 64)
    | none => false)).map (fun e => Act.pack (e.1 / 2))

/-- The default turn: the first event that is due, else the next issue, else what leaves for other packages. -/
def State.nextTurn (s : State) : Option Act :=
  match s.firstEvent s.events with
  | some a => some a
  | none => match s.nextIssue s.liveCores with
    | some a => some a
    | none => s.lastTurns

end Sys2Proof.Machine
end

