-- ==== Sys2Proof/Machine/Step.lean ====
section
/-! DEFINITION. One step of the machine: the next turn of the agenda, or of the default order when the agenda is empty
(log 5). -/

namespace Sys2Proof.Machine

/-- One step. -/
def step (s : State) : Host.Outcome State Fault Refusal :=
  match s.agenda with
  | t :: r => ({ s with agenda := r, clock := s.clock + 1 }.pass t.core t.fab t.net).act t.act
  | [] =>
    let s := { s with clock := s.clock + 1 }
    match s.nextTurn with
    | some a => s.act a
    | none => .next s.passOne

/-- The state in which the next step runs an instruction: it stands at address 0 of the package's memory, and the thread
of core 0, slot 0 is ready in machine mode there (log 4: this stands for a load by the host and a GO of ROOTCTL). -/
def State.withFetchWord (s : State) (_nbits w : Nat) : State :=
  let a := s.pkg.pkgNo % 1024 * 2 ^ 46
  let x := s.slot 0
  let s := { s with
    mem := Mem.writeN s.mem 0 4 w, poison := Tab.set false s.poison 0 false, snoop := s.snoop.filter (fun e => e.1 != 0),
    agenda := [{ core := 0, fab := 0, net := 0, act := .issue 0 0 }], pkg := { s.pkg with
      powered := true, devState := if s.pkg.devState = 8 then 6 else s.pkg.devState } }
  let s := s.setCore 0 { s.core 0 with l1i := Tab.set none (s.core 0).l1i 0 none, rr := 0, scan := 0, issued := 0, stamp := 0 }
  s.setSlot 0 { x with
    st := .ready, pc := BitVec.ofNat 64 a, tstat := setBits (setBits x.tstat 4 1 0) 0 2 2, wait := .none, sync := none,
    fetched := none, outs := x.outs.filter (fun o => o.isPf), nextAt := 0, late := [] }

end Sys2Proof.Machine
end

