-- ==== Sys2Proof/Safety.lean ====
section
/-! DEFINITION. What counts as a safe run, and what a step leaves alone, in the terms claims use. -/

namespace Sys2Proof

open Machine

/-- A slot's MODE and PMODE are user, service or machine (19 Table 19-4). -/
def Machine.Slot.modeLegal (x : Slot) : Bool := decide (x.mode ≤ 2) && decide (bits x.tstat 2 2 ≤ 2)

/-- So are those of every slot, and of every thread context that a load keeps (12 R266, 13 R273). -/
def modesLegal (s : State) : Bool :=
  s.slots.all (fun e => e.2.modeLegal) &&
    s.loads.all (fun e => match e.2 with
      | some x => x.snaps.all (fun n => n.slots.all (fun y => y.2.modeLegal))
      | none => true)

/-- Memory is in its canonical form. -/
def memoryLegal (s : State) : Bool := Mem.wf s.mem

/-- A step that does not stop. -/
def goesOn (s : State) : Prop := ∃ t, step s = .next t

/-! ## Frames -/

/-- Every byte of memory reads in t as in s. -/
def sameMemory (s t : State) : Prop := ∀ a, Mem.read t.mem a = Mem.read s.mem a

/-- Every byte of memory but the n bytes from offset a upward reads in t as in s. -/
def sameMemoryBut (a n : Nat) (s t : State) : Prop := ∀ b, b < a ∨ a + n ≤ b → Mem.read t.mem b = Mem.read s.mem b

/-- Nothing of the machine but slot k may differ between s and t. -/
def onlySlot (k : Nat) (s t : State) : Prop := { t with slots := s.slots } = s ∧ ∀ j, j ≠ k → t.slot j = s.slot j

/-- Nothing of the machine but core c may differ between s and t. -/
def onlyCore (c : Nat) (s t : State) : Prop := { t with cores := s.cores } = s ∧ ∀ j, j ≠ c → t.core j = s.core j

/-- Nothing of the machine but slot k and core c may differ between s and t. -/
def onlySlotCore (k c : Nat) (s t : State) : Prop :=
  { t with slots := s.slots, cores := s.cores } = s ∧ (∀ j, j ≠ k → t.slot j = s.slot j) ∧
    ∀ j, j ≠ c → t.core j = s.core j

/-- Nothing of the machine but tile k may differ between s and t. -/
def onlyTile (k : Nat) (s t : State) : Prop := { t with tiles := s.tiles } = s ∧ ∀ j, j ≠ k → t.tile j = s.tile j

/-- Nothing of the machine but load l may differ between s and t. -/
def onlyLoad (l : Nat) (s t : State) : Prop := { t with loads := s.loads } = s ∧ ∀ j, j ≠ l → t.load j = s.load j

/-- Nothing of the machine but die d may differ between s and t. -/
def onlyDie (d : Nat) (s t : State) : Prop := { t with dies := s.dies } = s ∧ ∀ j, j ≠ d → t.die j = s.die j

/-- Nothing of the machine but port p and what leaves the package may differ between s and t. -/
def onlyPort (p : Nat) (s t : State) : Prop :=
  { t with ports := s.ports, out := s.out } = s ∧ ∀ j, j ≠ p → t.port j = s.port j

/-- Slot y is slot x but for its general registers and its program counter. -/
def Machine.Slot.sameControl (x y : Slot) : Prop := { y with regs := x.regs, pc := x.pc } = x

/-- Thread k, in its slot or in a load's image, has the trap p pending in t beside all it had pending in s: where it had room
for it. -/
def Machine.State.hears (s t : State) (k : Nat) (p : Pend) : Prop :=
  (s.context k).st ≠ .free → (s.context k).pend.length < 14 →
    p ∈ (t.context k).pend ∧ ∀ q ∈ (s.context k).pend, q ∈ (t.context k).pend

/-! ## Where an access goes -/

/-- An access of the executing thread at an address, of a kind (0 read, 1 write, 2 atomic), reaches an offset of local memory
that carries no poison: it is translated to pa with memory type mt, and nothing refuses it (07 R139, 17 Table 17-1). -/
def Machine.State.touches (s : State) (ea : Word) (acc pa mt off : Nat) : Prop :=
  s.xlate s.cur ea acc = .ok pa mt ∧ s.refused s.cur ea pa mt = false ∧ s.routeOf pa mt = some (.dram off) ∧
    off = offOf pa ∧ s.poisoned pa = false ∧ s.isProtFeed s.cur = false

/-- A read by a command's engine at an address reaches an offset of local memory: nothing refuses it, and no copy at the host
stands in its way (07 R148). -/
def Machine.State.engineReads (s : State) (c : Nat) (m : Cmd) (va : Word) (off : Nat) : Prop :=
  ∃ pa mt, s.engXlate c m va 0 = (s, .ok pa mt) ∧ s.routeOf pa mt = some (.dram off) ∧ off = offOf pa ∧
    s.stackRefused (bits m.asid 0 16) pa = false ∧ s.mustSnoop (lineOf off) false = false ∧ s.poisoned pa = false

/-- A write by an unprotected command's engine at an address reaches an offset of local memory: nothing refuses it, no
load's segment holds the line, and no copy at the host stands in its way (07 R148, 12 R267). -/
def Machine.State.engineWrites (s : State) (c : Nat) (m : Cmd) (va : Word) (off : Nat) : Prop :=
  ∃ pa mt, s.engXlate c m va 1 = (s, .ok pa mt) ∧ s.routeOf pa mt = some (.dram off) ∧ off = offOf pa ∧
    s.protOf m = none ∧ s.stackRefused (bits m.asid 0 16) pa = false ∧ s.conflicts none (lineOf off) = false ∧
    s.mustSnoop (lineOf off) true = false

/-- The executing thread reads the 64-byte block at an address now, as the doublewords ws: nothing refuses the read, and a
block of another package or of the host has come (18 R383; 07 R139). -/
def Machine.State.reads64 (s : State) (va : Word) (ws : List Word) : Prop :=
  aligned va 64 = true ∧ ∃ pa mt r, s.xlate s.cur va 0 = .ok pa mt ∧ s.refused s.cur va pa mt = false ∧
    s.routeOf pa mt = some r ∧
    match r with
    | .ctl _ => False
    | .dram off => s.poisoned pa = false ∧ s.mustSnoop (lineOf off) false = false ∧
        (∀ o ∈ s.me.outs, o.isPf = true ∨ overlap o.key o.size off 64 = false) ∧
        (mt = 2 → s.mt2Clear s.cur s.me.seq = true ∧ s.earlierStore s.cur s.me.seq off 64 = false) ∧
        ws = (splitN 64 (s.view s.cur off 64) 8).map (BitVec.ofNat 64)
    | far => ∃ e, s.gotLine s.myCore (eidSlot (s.cur % 16)) (lineOf far.key) = some e ∧ e.bad = false ∧ e.pois = false ∧
        ws = (splitN 64 e.data 8).map (BitVec.ofNat 64)

/-- The executing thread reads a chain of copy descriptors now: each is within its limits and names the next, the last none
(18 R381). -/
def Machine.State.readsChain (s : State) (va : Word) : List (List Word) → Prop
  | [] => False
  | ws :: r => s.reads64 va ws ∧ copyOk ws s.pkg.pkgNo = true ∧ copyOverlaps ws = false ∧
      (if r = [] then nextOf ws = 0 else nextOf ws ≠ 0 ∧ Machine.State.readsChain s (nextOf ws) r)

/-- In q the executing thread's load of size bytes at ea is on its way and nothing else has happened but that the thread went
on. -/
def Machine.State.loadSent (s q : State) (dst size : Nat) (signed : Bool) (ea : Word) (pa : Nat) : Prop :=
  onlySlot s.cur s q ∧ q.pc = s.pc + 4 ∧ (∀ n, q.rg n = s.rg n) ∧ sameMemory s q ∧
    ∃ e : OutLoad, q.me.outs = s.me.outs ++ [e] ∧ e.dst = dst ∧ e.size = size ∧ e.signed = signed ∧ e.va = ea ∧ e.pa = pa ∧
      e.isPf = false ∧ e.tag = 0

/-- In q the executing thread has completed its instruction with value v for register d: it reads so, no other general
register has changed, and the thread stands at the next word. -/
def Machine.State.completes (s q : State) (d : Nat) (v : Word) : Prop :=
  q.cur = s.cur ∧ q.pc = s.pc + 4 ∧ ∀ n, q.rg n = if n = d ∧ d ≠ 0 then v else s.rg n

end Sys2Proof
end

