-- ==== Sys2Proof/Certificates/Slice0/Obligations.lean ====
section
/-! DEFINITION. Statements for the provers. Each docstring names the rules of spec/ that the statement formalises. -/

open Sys2Proof Sys2Proof.Machine

/-! ## Encoding -/

/-- 15 R312 to R323: no bit of an encoding is dropped: the word of a well-formed instruction decodes to it, with every operand at
every value that the encoding admits. -/
def Obligations.DecodeEncode : Prop :=
  ∀ (i : Instr) (w : Nat), i.wf = true → encode i = some w → decode w = some i

/-- 15 R323: a word that decodes decodes to a well-formed instruction and is the one word of it: a word with a reserved field that is
not 0 decodes to nothing. -/
def Obligations.EncodeDecode : Prop :=
  ∀ (i : Instr) (w : Nat), w < 2 ^ 32 → decode w = some i → i.wf = true ∧ encode i = some w

/-! ## A step runs the decoded instruction -/

/-- 06 R116, 15 R312: a turn of the agenda that issues a slot, in its place in the scan and as one of at most two in its cycle, is exec of the
instruction whose word is ready there; a turn that names an event is exec of the event. (That a step takes its turn from an agenda is the model's choice: log 5.) -/
def Obligations.StepRunsDecoded : Prop :=
  ∀ (s s2 : State) (r : List Turn) (x y z c t w : Nat) (i : Instr),
    let s1 := ({ s with agenda := r, clock := s.clock + 1 } : State).pass x y z
    let q := s1.core c
    let n := q.issuedNow s1.cycle
    let at_ := q.scanNow s1.cycle
    (c < 256 → t < 16 → n < 2 → at_ ≤ q.placeOf t → s1.issuable c at_ (q.placeOf t - at_) = false →
      s.agenda = { core := x, fab := y, net := z, act := .issue c t } :: r →
      s1.ready (slotKey c t) n = (s2, some w) →
      decode w = some i →
      step s = (match exec i s2 with
        | .next u => .next ((u.issuedBy (slotKey c t)).hasIssued s2 (slotKey c t))
        | .fault f => .fault f
        | .refused e => .refused e)) ∧
    (s.agenda = { core := x, fab := y, net := z, act := .event i } :: r →
      step s = exec i s1) ∧
    (c < 256 → t < 16 → 2 ≤ n → s.agenda = { core := x, fab := y, net := z, act := .issue c t } :: r →
      s1.ready (slotKey c t) n = (s2, some w) → decode w = some i →
      ∀ u v, exec i s2 = .next v → u = (v.issuedBy (slotKey c t)).hasIssued s2 (slotKey c t) → (u.core c).issuedNow s1.cycle ≠ n →
        step s = .next s1)

/-- 15 R312 (little-endian words), 07 R147 (machine mode is untranslated), 06 R118 (the line enters the instruction cache): the bytes at the
program counter are the instruction that runs. -/
def Obligations.StepRunsBytesAtPc : Prop :=
  ∀ (s : State) (r : List Turn) (c t w die off : Nat) (i : Instr),
    let k := slotKey c t
    let x := s.slot k
    let q := s.core c
    let n := q.issuedNow s.cycle
    let at_ := q.scanNow s.cycle
    let s0 : State := { s with agenda := r, clock := s.clock + 1 }
    let s1 : State := { s0 with cur := k, pos := n }
    let s2 := s1.setCore c { s1.core c with
      l1i := l1iPut (s1.core c).l1i (lineOf off) { at_ := s1.clock, data := s1.homeLine (lineOf off) } }
    let s3 := s2.setSlot k { x with word := w }
    c < 256 → t < 16 → s.agenda = { core := 0, fab := 0, net := 0, act := .issue c t } :: r →
    n < 2 → at_ ≤ q.placeOf t → s0.issuable c at_ (q.placeOf t - at_) = false →
    x.st = .ready → x.nextAt ≤ s.cycle → x.mode = 2 → x.sync = none → x.fetched = none → x.wait = .none → x.outs = [] → x.pend = [] →
    s.timerDue k = false → s.running = true → s.testing x.load = false →
    s.place (x.pc.toNat % 2 ^ 56) = .dram die off → off = offOf (x.pc.toNat % 2 ^ 56) →
    Tab.get none (s.core c).l1i (lineOf off) = none → s.poisoned (x.pc.toNat % 2 ^ 56) = false →
    s.mustSnoop (lineOf off) false = false →
    w = Mem.readN s.mem off 4 → decode w = some i →
    step s = (match exec i s3 with
      | .next u => .next ((u.issuedBy k).hasIssued s3 k)
      | .fault f => .fault f
      | .refused e => .refused e)

/-- 15 R323: executing an illegal word traps with cause 0x01, and TVAL holds the word zero-extended. -/
def Obligations.IllegalWordTraps : Prop :=
  ∀ (s s2 : State) (k p w : Nat), s.ready k p = (s2, some w) → decode w = none → s2.issues [] [] = true →
    s.issue k p = .next ((s2.raise 0x01 (BitVec.ofNat 64 w)).hasIssued s2 k)

/-! ## Integer, address and branch instructions -/

/-- 16 Table 16-1 (R334, R335): the result that each register-register operation writes, and that it completes. -/
def Obligations.ThreeRegisterResults : Prop :=
  ∀ (s : State) (d a b m : Nat),
    (s.issues [d, a, b] [(5, 0), (0, 1)] = true →
      exec (.add d a b) s = .next (s.wr d (s.rg a + s.rg b)).advance ∧
      exec (.sub d a b) s = .next (s.wr d (s.rg a - s.rg b)).advance ∧
      exec (.and d a b) s = .next (s.wr d (s.rg a &&& s.rg b)).advance ∧
      exec (.or d a b) s = .next (s.wr d (s.rg a ||| s.rg b)).advance ∧
      exec (.xor d a b) s = .next (s.wr d (s.rg a ^^^ s.rg b)).advance ∧
      exec (.andn d a b) s = .next (s.wr d (s.rg a &&& ~~~(s.rg b))).advance ∧
      exec (.orn d a b) s = .next (s.wr d (s.rg a ||| ~~~(s.rg b))).advance ∧
      exec (.min d a b) s = .next (s.wr d (if (s.rg a).slt (s.rg b) then s.rg a else s.rg b)).advance ∧
      exec (.max d a b) s = .next (s.wr d (if (s.rg b).slt (s.rg a) then s.rg a else s.rg b)).advance ∧
      exec (.minu d a b) s = .next (s.wr d (if (s.rg a).toNat < (s.rg b).toNat then s.rg a else s.rg b)).advance ∧
      exec (.maxu d a b) s = .next (s.wr d (if (s.rg a).toNat > (s.rg b).toNat then s.rg a else s.rg b)).advance ∧
      exec (.csel d a b) s = .next (s.wr d (if s.rg d ≠ 0 then s.rg a else s.rg b)).advance ∧
      exec (.lea d a b m) s = .next (s.wr d (s.rg a + s.rg b <<< m)).advance) ∧
    (s.issues [d, a, b] [(5, 0), (1, 1)] = true →
      exec (.sll d a b) s = .next (s.wr d (s.rg a <<< ((s.rg b).toNat % 64))).advance ∧
      exec (.srl d a b) s = .next (s.wr d (s.rg a >>> ((s.rg b).toNat % 64))).advance ∧
      exec (.sra d a b) s = .next (s.wr d ((s.rg a).sshiftRight ((s.rg b).toNat % 64))).advance ∧
      exec (.ror d a b) s = .next (s.wr d ((s.rg a).rotateRight (s.rg b).toNat)).advance) ∧
    (s.issues [d, a, b] [(5, 0), (0, 2)] = true →
      exec (.slt d a b) s = .next (s.wr d (if (s.rg a).slt (s.rg b) then 1 else 0)).advance ∧
      exec (.sltu d a b) s = .next (s.wr d (if (s.rg a).toNat < (s.rg b).toNat then 1 else 0)).advance ∧
      exec (.seq d a b) s = .next (s.wr d (if s.rg a = s.rg b then 1 else 0)).advance ∧
      exec (.sne d a b) s = .next (s.wr d (if s.rg a ≠ s.rg b then 1 else 0)).advance)

/-- 16 Table 16-1: the result that each one-operand operation writes, and that it completes; BitCounts says what the counts are. -/
def Obligations.OneRegisterResults : Prop :=
  ∀ (s : State) (d a : Nat), s.issues [d, a] [(5, 0), (1, 2)] = true →
      exec (.clz d a) s = .next (s.wr d (BitVec.ofNat 64 (clzN (s.rg a).toNat 64))).advance ∧
      exec (.ctz d a) s = .next (s.wr d (BitVec.ofNat 64 (ctzN (s.rg a).toNat 0 64))).advance ∧
      exec (.popc d a) s = .next (s.wr d (BitVec.ofNat 64 (popN (s.rg a).toNat 64))).advance ∧
      exec (.bswap d a) s = .next (s.wr d (BitVec.ofNat 64 (swapN (s.rg a).toNat 8))).advance ∧
      exec (.sextB d a) s = .next (s.wr d (((s.rg a).setWidth 8).signExtend 64)).advance ∧
      exec (.sextH d a) s = .next (s.wr d (((s.rg a).setWidth 16).signExtend 64)).advance ∧
      exec (.sextW d a) s = .next (s.wr d (((s.rg a).setWidth 32).signExtend 64)).advance ∧
      exec (.zextB d a) s = .next (s.wr d (((s.rg a).setWidth 8).setWidth 64)).advance ∧
      exec (.zextH d a) s = .next (s.wr d (((s.rg a).setWidth 16).setWidth 64)).advance ∧
      exec (.zextW d a) s = .next (s.wr d (((s.rg a).setWidth 32).setWidth 64)).advance

/-- 16 Table 16-1, rows clz, ctz, popc and bswap. -/
def Obligations.BitCounts : Prop :=
  ∀ v : Nat, v < 2 ^ 64 →
    clzN 0 64 = 64 ∧ ctzN 0 0 64 = 64 ∧
    (v ≠ 0 → clzN v 64 ≤ 63 ∧ 2 ^ (63 - clzN v 64) ≤ v ∧ v < 2 ^ (64 - clzN v 64)) ∧
    (v ≠ 0 → v % 2 ^ ctzN v 0 64 = 0 ∧ v / 2 ^ ctzN v 0 64 % 2 = 1) ∧
    popN v 64 = ((List.range 64).filter (fun i => v.testBit i)).length ∧
    swapN v 8 < 2 ^ 64 ∧ ∀ i, i < 8 → swapN v 8 / 256 ^ i % 256 = v / 256 ^ (7 - i) % 256

/-- 16 Table 16-4 (R337) and R338. -/
def Obligations.ImmediateResults : Prop :=
  ∀ (s : State) (d a i n : Nat), i < 65536 → n < 64 →
    (s.issues [d, a] [(5, 0), (0, 1)] = true →
      exec (.addi d a i) s = .next (s.wr d (s.rg a + sext64 i 16)).advance ∧
      exec (.andi d a i) s = .next (s.wr d (s.rg a &&& BitVec.ofNat 64 i)).advance ∧
      exec (.ori d a i) s = .next (s.wr d (s.rg a ||| BitVec.ofNat 64 i)).advance ∧
      exec (.xori d a i) s = .next (s.wr d (s.rg a ^^^ BitVec.ofNat 64 i)).advance) ∧
    (s.issues [d, a] [(5, 0), (0, 2)] = true →
      exec (.slti d a i) s = .next (s.wr d (if (s.rg a).slt (sext64 i 16) then 1 else 0)).advance ∧
      exec (.sltiu d a i) s = .next (s.wr d (if (s.rg a).toNat < (sext64 i 16).toNat then 1 else 0)).advance) ∧
    (s.issues [d, a] [(5, 0), (1, 1)] = true →
      exec (.slli d a n) s = .next (s.wr d (s.rg a <<< n)).advance ∧
      exec (.srli d a n) s = .next (s.wr d (s.rg a >>> n)).advance ∧
      exec (.srai d a n) s = .next (s.wr d ((s.rg a).sshiftRight n)).advance ∧
      exec (.rori d a n) s = .next (s.wr d ((s.rg a).rotateRight n)).advance)

/-- 16 R339 (lui), R340 (addpc) and R341 (bit fields), bit by bit. -/
def Obligations.FieldResults : Prop :=
  ∀ (s : State) (d a h i l w : Nat), h < 4 → i < 65536 → l + w < 64 →
    (s.issues [d] [(5, 0), (1, 1)] = true → ∃ v, exec (.lui d h i) s = .next (s.wr d v).advance ∧
      ∀ j, j < 64 → v.getLsbD j = if 16 * h ≤ j ∧ j < 16 * h + 16 then i.testBit (j - 16 * h) else (s.rg d).getLsbD j) ∧
    (s.issues [d] [(4, 1)] = true → exec (.addpc d i) s = .next (s.wr d (s.pc + 4 * sext64 i 16)).advance) ∧
    (s.issues [d, a] [(5, 0), (1, 1)] = true →
      (∃ v, exec (.extru d a l w) s = .next (s.wr d v).advance ∧
        ∀ j, j < 64 → v.getLsbD j = (decide (j ≤ w) && (s.rg a).getLsbD (l + j))) ∧
      (∃ v, exec (.extr d a l w) s = .next (s.wr d v).advance ∧
        ∀ j, j < 64 → v.getLsbD j = (s.rg a).getLsbD (l + min j w)) ∧
      (∃ v, exec (.ins d a l w) s = .next (s.wr d v).advance ∧
        ∀ j, j < 64 → v.getLsbD j = if l ≤ j ∧ j ≤ l + w then (s.rg a).getLsbD (j - l) else (s.rg d).getLsbD j))

/-- 16 Table 16-1, R336 and R347; 06 R117 and Table 06-3. -/
def Obligations.MultiplyDivideIssue : Prop :=
  ∀ (s : State) (d a b : Nat),
    (s.issues [d, a, b] [(5, 0), (2, 1)] = true →
      exec (.mul d a b) s = .next (s.setMe { s.me with muls := s.me.muls ++ [{ dst := d, val := BitVec.ofInt 64 ((s.rg a).toInt * (s.rg b).toInt), done := s.cycle + 3 }] }).advance ∧
      exec (.mulh d a b) s = .next (s.setMe { s.me with muls := s.me.muls ++ [{ dst := d, val := BitVec.ofInt 64 ((s.rg a).toInt * (s.rg b).toInt / 2 ^ 64), done := s.cycle + 3 }] }).advance ∧
      exec (.mulhu d a b) s = .next (s.setMe { s.me with muls := s.me.muls ++ [{ dst := d, val := BitVec.ofNat 64 ((s.rg a).toNat * (s.rg b).toNat / 2 ^ 64), done := s.cycle + 3 }] }).advance) ∧
    (s.issues [d, a, b] [(5, 0), (3, 2)] = true →
      exec (.div d a b) s = .next (s.setMe { s.me with muls := s.me.muls ++ [{ dst := d, val := div64 (s.rg a) (s.rg b), done := s.cycle + divTime (s.rg a) (s.rg b) }] }).advance ∧
      exec (.divu d a b) s = .next (s.setMe { s.me with muls := s.me.muls ++ [{ dst := d, val := divu64 (s.rg a) (s.rg b), done := s.cycle + divuTime (s.rg a) (s.rg b) }] }).advance ∧
      exec (.rem d a b) s = .next (s.setMe { s.me with muls := s.me.muls ++ [{ dst := d, val := rem64 (s.rg a) (s.rg b), done := s.cycle + divTime (s.rg a) (s.rg b) }] }).advance ∧
      exec (.remu d a b) s = .next (s.setMe { s.me with muls := s.me.muls ++ [{ dst := d, val := remu64 (s.rg a) (s.rg b), done := s.cycle + divuTime (s.rg a) (s.rg b) }] }).advance) ∧
    (∀ (core slot : Nat) (m : OutMul) (r : List OutMul), (s.slot (slotKey core slot)).muls = m :: r → m.done ≤ s.cycle →
      (s.slot (slotKey core slot)).sync = none →
      ∃ t, exec (.multiplyOrDivideCompletes core slot) s = .next t ∧ onlySlot (slotKey core slot) s t ∧
        (t.slot (slotKey core slot)).muls = r ∧ (t.slot (slotKey core slot)).pc = (s.slot (slotKey core slot)).pc ∧
        ∀ n, (t.slot (slotKey core slot)).reg n =
          if n = m.dst ∧ m.dst ≠ 0 then m.val else (s.slot (slotKey core slot)).reg n)

/-- 16 R336, whole: the four results in every case, and the latencies. -/
def Obligations.DivisionRules : Prop :=
  ∀ A B : Word,
    div64 A 0 = 0xFFFFFFFFFFFFFFFF ∧ rem64 A 0 = A ∧ divu64 A 0 = 0xFFFFFFFFFFFFFFFF ∧ remu64 A 0 = A ∧
    divTime A 0 = 6 ∧ divuTime A 0 = 6 ∧
    (B ≠ 0 → A.toInt = -2 ^ 63 → B.toInt = -1 → div64 A B = A ∧ rem64 A B = 0 ∧ divTime A B = 6) ∧
    (B ≠ 0 → ¬ (A.toInt = -2 ^ 63 ∧ B.toInt = -1) →
      (div64 A B).toInt = A.toInt.tdiv B.toInt ∧ (rem64 A B).toInt = A.toInt - A.toInt.tdiv B.toInt * B.toInt ∧
      (∀ n, (n = 0 ∧ A.toInt = 0 ∨ 0 < n ∧ 2 ^ (n - 1) ≤ A.toInt.natAbs ∧ A.toInt.natAbs < 2 ^ n) →
        divTime A B = max 6 (2 + (n + 1) / 2))) ∧
    (B ≠ 0 → (divu64 A B).toNat = A.toNat / B.toNat ∧ (remu64 A B).toNat = A.toNat % B.toNat ∧
      (∀ n, (n = 0 ∧ A.toNat = 0 ∨ 0 < n ∧ 2 ^ (n - 1) ≤ A.toNat ∧ A.toNat < 2 ^ n) →
        divuTime A B = max 6 (2 + (n + 1) / 2))) ∧
    ∀ (s : State) (d a b : Nat), s.issues [d, a, b] [(5, 0), (3, 2)] = true → s.rg a = A → s.rg b = B →
      ∃ t u v w, exec (.div d a b) s = .next t ∧ exec (.divu d a b) s = .next u ∧ exec (.rem d a b) s = .next v ∧
        exec (.remu d a b) s = .next w ∧
        t.me.muls = s.me.muls ++ [{ dst := d, val := div64 A B, done := s.cycle + divTime A B }] ∧
        u.me.muls = s.me.muls ++ [{ dst := d, val := divu64 A B, done := s.cycle + divuTime A B }] ∧
        v.me.muls = s.me.muls ++ [{ dst := d, val := rem64 A B, done := s.cycle + divTime A B }] ∧
        w.me.muls = s.me.muls ++ [{ dst := d, val := remu64 A B, done := s.cycle + divuTime A B }]

/-- 16 Table 16-5 (R342), R343 and R344; 06 Table 06-3 (R117). -/
def Obligations.BranchesAndJumps : Prop :=
  ∀ (s : State) (a b o : Nat),
    (s.issues [a, b] [(5, 0), (0, 2), (4, 1)] = true →
      exec (.beq a b o) s = .next (if s.rg a = s.rg b then s.jump (s.pc + 4 * sext64 o 16) else s.advance) ∧
      exec (.bne a b o) s = .next (if s.rg a ≠ s.rg b then s.jump (s.pc + 4 * sext64 o 16) else s.advance) ∧
      exec (.blt a b o) s = .next (if (s.rg a).slt (s.rg b) = true then s.jump (s.pc + 4 * sext64 o 16) else s.advance) ∧
      exec (.bge a b o) s = .next (if (s.rg a).slt (s.rg b) = false then s.jump (s.pc + 4 * sext64 o 16) else s.advance) ∧
      exec (.bltu a b o) s = .next (if (s.rg a).toNat < (s.rg b).toNat then s.jump (s.pc + 4 * sext64 o 16) else s.advance) ∧
      exec (.bgeu a b o) s = .next (if (s.rg b).toNat ≤ (s.rg a).toNat then s.jump (s.pc + 4 * sext64 o 16) else s.advance)) ∧
    (s.issues [31] [(4, 1)] = true → exec (.jal o) s = .next ((s.wr 31 (s.pc + 4)).jump (s.pc + 4 * sext64 o 26))) ∧
    (s.issues [a, 31] [(5, 0), (4, 1)] = true → (s.rg a + 4 * sext64 o 16).toNat % 4 = 0 →
      exec (.jalr a o) s = .next ((s.wr 31 (s.pc + 4)).jump (s.rg a + 4 * sext64 o 16))) ∧
    ∀ v, (s.jump v).pc = v ∧ (s.jump v).me.nextAt = s.cycle + 2

/-- 16 R344: a misaligned target of jalr. -/
def Obligations.JalrMisaligned : Prop :=
  ∀ (s : State) (a o : Nat), s.issues [a, 31] [(5, 0), (4, 1)] = true → (s.rg a + 4 * sext64 o 16).toNat % 4 ≠ 0 →
    exec (.jalr a o) s = .next (s.raise 0x03 (s.rg a + 4 * sext64 o 16))

/-- 16 R334 and 06 R112: an integer instruction writes at most one general register; a write to g0 is discarded. -/
def Obligations.RegisterResultFrame : Prop :=
  ∀ (s : State) (d : Nat) (v p : Word) (m : OutMul),
    (let t := (s.wr d v).advance
     onlySlot s.cur s t ∧ s.me.sameControl t.me ∧ sameMemory s t ∧ t.pc = s.pc + 4 ∧
       ∀ n, t.rg n = if n = d ∧ d ≠ 0 then v else s.rg n) ∧
    (let t := (s.wr d v).setPc p
     onlySlot s.cur s t ∧ s.me.sameControl t.me ∧ sameMemory s t ∧ t.pc = p ∧
       ∀ n, t.rg n = if n = d ∧ d ≠ 0 then v else s.rg n) ∧
    (let t := s.setPc p
     onlySlot s.cur s t ∧ s.me.sameControl t.me ∧ sameMemory s t ∧ t.pc = p ∧ ∀ n, t.rg n = s.rg n) ∧
    (let t := (s.wr d v).jump p
     onlySlot s.cur s t ∧ s.me.sameControl { t.me with nextAt := s.me.nextAt } ∧ sameMemory s t ∧ t.pc = p ∧
       ∀ n, t.rg n = if n = d ∧ d ≠ 0 then v else s.rg n) ∧
    (let t := (s.wrLate d v).advance
     onlySlot s.cur s t ∧ s.me.sameControl { t.me with late := s.me.late } ∧ sameMemory s t ∧ t.pc = s.pc + 4 ∧
       ∀ n, t.rg n = if n = d ∧ d ≠ 0 then v else s.rg n) ∧
    (let t := (s.setMe { s.me with muls := s.me.muls ++ [m] }).advance
     onlySlot s.cur s t ∧ sameMemory s t ∧ t.pc = s.pc + 4 ∧ (∀ n, t.rg n = s.rg n) ∧
       { t.me with muls := s.me.muls, pc := s.pc } = s.me)

/-! ## Memory -/

/-- 17 R350 to R354, 06 R117: a load issues and the thread goes on; the register is written when the data return (LoadReturns). -/
def Obligations.LoadsIssue : Prop :=
  ∀ (s : State) (t b c p o pa mt off dst size : Nat) (signed : Bool) (i : Instr),
    (i, dst, size, signed) ∈
      ([(.ldB t b c p o, t, 1, true),
       (.ldBu t b c p o, t, 1, false),
       (.ldH t b c p o, t, 2, true),
       (.ldHu t b c p o, t, 2, false),
       (.ldW t b c p o, t, 4, true),
       (.ldWu t b c p o, t, 4, false),
       (.ldD t b c p o, t, 8, false),
       (.ldX t b c p o, 2 * t, 16, false)] : List (Instr × Nat × Nat × Bool)) →
    s.issues (if size = 16 then [b, dst, dst + 1] else [b, dst]) [(5, 0), (4, 1), (6, 1)] = true →
    s.outsOfCore s.myCore < 64 →
    (s.rg b + sext64 o 11 * BitVec.ofNat 64 size).toNat % size = 0 →
    s.touches (s.rg b + sext64 o 11 * BitVec.ofNat 64 size) 0 pa mt off →
    ∃ q, exec i s = .next q ∧ s.loadSent q dst size signed (s.rg b + sext64 o 11 * BitVec.ofNat 64 size) pa

/-- 17 R354 and Table 17-2, 11 R230, 06 R117: what a returning load writes. -/
def Obligations.LoadReturns : Prop :=
  ∀ (s : State) (core slot idx d : Nat) (e : OutLoad),
    let k := slotKey core slot
    (s.slot k).outs[idx]? = some e → e.tag = 0 → e.isPf = false → s.earlierLoad k e = false → e.mt ≠ 2 →
    s.place e.pa = .dram d (offOf e.pa) → e.path = 1 → e.fwd = [] → s.mustSnoop (lineOf (offOf e.pa)) false = false →
    (s.slot k).sync = none → k < 4096 →
    (s.poisoned e.pa = true → exec (.loadDataReturn core slot idx) s =
      .next ((s.setSlot k { s.slot k with outs := (s.slot k).outs.erase e }).raiseAt k 0x08 e.va e.epc)) ∧
    (s.poisoned e.pa = false →
    ∃ q, exec (.loadDataReturn core slot idx) s = .next q ∧ sameMemory s q ∧ (∀ j, j ≠ k → q.slot j = s.slot j) ∧
      (q.slot k).pc = (s.slot k).pc ∧ (q.slot k).outs = (s.slot k).outs.erase e ∧
      (e.size ≠ 16 → ∀ n, (q.slot k).reg n = if n = e.dst ∧ e.dst ≠ 0 then
          (if e.signed then sext64 (Mem.readN s.mem (offOf e.pa) e.size) (8 * e.size)
           else zext64 (Mem.readN s.mem (offOf e.pa) e.size) (8 * e.size)) else (s.slot k).reg n) ∧
      (e.size = 16 → ∀ n, (q.slot k).reg n =
        if n = e.dst + 1 then BitVec.ofNat 64 (Mem.readN s.mem (offOf e.pa) 16 / 2 ^ 64)
        else if n = e.dst ∧ e.dst ≠ 0 then BitVec.ofNat 64 (Mem.readN s.mem (offOf e.pa) 16) else (s.slot k).reg n))

/-- 17 R350 and R357, 06 R121 and R122: a store enters the buffer; st.x stores an even register and the next. -/
def Obligations.StoresEnterBuffer : Prop :=
  ∀ (s : State) (t b c p o pa mt off size v : Nat) (i : Instr),
    (i, size, v) ∈
      ([(.stB t b c p o, 1, (s.rg t).toNat % 2 ^ 8),
       (.stH t b c p o, 2, (s.rg t).toNat % 2 ^ 16),
       (.stW t b c p o, 4, (s.rg t).toNat % 2 ^ 32),
       (.stD t b c p o, 8, (s.rg t).toNat % 2 ^ 64),
       (.stX t b c p o, 16, (s.rg (2 * t)).toNat + (s.rg (2 * t + 1)).toNat * 2 ^ 64)] : List (Instr × Nat × Nat)) →
    s.issues (if size = 16 then [b, 2 * t, 2 * t + 1] else [b, t]) [(5, 0), (4, 1), (7, 1)] = true →
    (s.rg b + sext64 o 11 * BitVec.ofNat 64 size).toNat % size = 0 →
    s.touches (s.rg b + sext64 o 11 * BitVec.ofNat 64 size) 1 pa mt off →
    (∀ e ∈ (s.core s.myCore).wcb, e.slot ≠ s.cur) → (s.core s.myCore).wcb.length < 16 →
    ∃ q, exec i s = .next q ∧ onlySlotCore s.cur s.myCore s q ∧ sameMemory s q ∧ q.pc = s.pc + 4 ∧
      (∀ n, q.rg n = s.rg n) ∧
      ∃ e : Wcb, (q.core s.myCore).wcb = (s.core s.myCore).wcb ++ [e] ∧ e.slot = s.cur ∧ e.line = off / 64 ∧
        e.bytes = lineBytes (off % 64) v size ∧ e.phase = 0 ∧ e.tag = 0 ∧ e.load = 0

/-- 06 R121 and R122, 11 R230, 01 R16: where a store lands; the address is the one its entry holds. -/
def Obligations.StorePerforms : Prop :=
  ∀ (s : State) (core idx o n v d a : Nat) (e : Wcb), (s.core core).wcb[idx]? = some e → e.line * 64 < 2 ^ 58 →
    (e.phase = 0 → s.wcbDue e = true → s.wcbMay core idx e = true →
      ∃ q, exec (.wcbDrain core idx) s = .next q ∧ onlyCore core s q ∧ sameMemory s q ∧
        (q.core core).wcb = setNth (s.core core).wcb idx { e with phase := 1 }) ∧
    (e.phase = 1 → e.tag = 0 → s.running = true → placeOf (e.line * 64) = .dram d a → s.conflicts none e.line = false →
      e.load = 0 → s.mustSnoop e.line true = false → e.bytes = lineBytes o v n → o + n ≤ 64 →
      (s.slot e.slot).sync = none →
      ∃ q, exec (.storePerformed core idx) s = .next q ∧ sameMemoryBut (e.line * 64 + o) n s q ∧
        (∀ i, i < n → Mem.read q.mem (e.line * 64 + o + i) = BitVec.ofNat 8 (v / 256 ^ i)) ∧
        (q.core core).wcb = dropNth (s.core core).wcb idx ∧ ∀ j m, (q.slot j).reg m = (s.slot j).reg m)

/-- 17 R358: a prefetch is issued, or dropped where a condition of Table 17-1 holds. -/
def Obligations.PrefetchIssues : Prop :=
  ∀ (s : State) (w b c p o pa mt off : Nat), s.issues [b] [(5, 0), (4, 1)] = true → s.outsOfCore s.myCore < 64 →
    let ea := s.rg b + sext64 o 11 * 64
    let la := ea - BitVec.ofNat 64 (ea.toNat % 64)
    (s.touches la 0 pa mt off → mt ≠ 2 →
      ∃ q, exec (.pf w b c p o) s = .next q ∧ onlySlot s.cur s q ∧ sameMemory s q ∧ q.pc = s.pc + 4 ∧
        (∀ n, q.rg n = s.rg n) ∧
        ∃ e : OutLoad, q.me.outs = s.me.outs ++ [e] ∧ e.isPf = true ∧ e.size = 64 ∧ e.pa = pa ∧ e.va = la) ∧
    (∀ r l, s.xlate s.cur la 0 = .fault r l → exec (.pf w b c p o) s = .next s.advance) ∧
    (s.xlate s.cur la 0 = .miss → (s.die (dieOfSlot s.cur)).walks = [] → s.doWalk (dieOfSlot s.cur) s.me.asidN s.me.ptbase la 0 s.me.mode = (s, .perm) →
      exec (.pf w b c p o) s = .next s.advance)

/-- 17 R359 to R361 and Table 17-6. The bytes stored to are the operand's, from the offset that the address translates to. -/
def Obligations.AtomicsPerform : Prop :=
  ∀ (s : State) (d a b o sc z pa mt off : Nat) (i : Instr) (new : Option Nat),
    let n := if z = 0 then 32 else 64
    let old := Mem.readN s.mem off (n / 8)
    let bv := (s.rg b).toNat % 2 ^ n
    let dv := (s.rg d).toNat % 2 ^ n
    (i, new) ∈
      ([(.amoAdd d a b o sc z, some ((old + bv) % 2 ^ n)),
       (.amoAnd d a b o sc z, some (old &&& bv)),
       (.amoOr d a b o sc z, some (old ||| bv)),
       (.amoXor d a b o sc z, some (old ^^^ bv)),
       (.amoSwap d a b o sc z, some bv),
       (.amoMin d a b o sc z, some (if (BitVec.ofNat n bv).toInt < (BitVec.ofNat n old).toInt then bv else old)),
       (.amoMax d a b o sc z, some (if (BitVec.ofNat n old).toInt < (BitVec.ofNat n bv).toInt then bv else old)),
       (.amoMinu d a b o sc z, some (min bv old)),
       (.amoMaxu d a b o sc z, some (max bv old)),
       (.cas d a b o sc z, if old = dv then some bv else none),
       (.aincb d a b o sc z, if old < bv then some (old + 1) else none),
       (.adecz d a o sc z, if old ≠ 0 then some (old - 1) else none)] : List (Instr × Option Nat)) →
    s.issues [d, a, b] [(5, 0), (4, 1), (7, 1)] = true → s.issues [d, a, 0] [(5, 0), (4, 1), (7, 1)] = true →
    s.me.wait = .none → (s.rg a).toNat % (n / 8) = 0 → s.touches (s.rg a) 2 pa mt off →
    s.allPerformed s.cur (ordRel o && decide (sc ≥ 2)) = true → s.held (lineOf off) = none →
    s.conflicts none (lineOf off) = false →
    ∃ q, exec i s = .next q ∧ s.completes q d (if z = 0 then sext64 old 32 else BitVec.ofNat 64 old) ∧
      sameMemoryBut off (n / 8) s q ∧ (∀ j r, j ≠ s.cur → (q.slot j).reg r = (s.slot j).reg r) ∧
      Mem.readN q.mem off (n / 8) = (match new with | some v => v | none => old)

/-- 17 R362 and R363, 11 R237 and R238, 03 R54: what fences wait for and what they do. -/
def Obligations.FencesComplete : Prop :=
  ∀ (s : State) (sc m core slot : Nat), s.issues [] [] = true →
    let done := fun (q : State) (acq : Bool) =>
      onlySlot s.cur s q ∧ sameMemory s q ∧ q.pc = s.pc + 4 ∧ (∀ n, q.rg n = s.rg n) ∧ q.me.wait = .none ∧
        q.me.acq = (if acq && decide (1 ≤ sc) && decide (sc ≤ 4) then s.clock else s.me.acq)
    (s.me.outs.all (fun o => o.isPf) = true → ∃ q, exec (.fenceAcq sc m) s = .next q ∧ done q true) ∧
    (s.maskedDone s.cur m sc = true →
      (∃ q, exec (.fenceRel sc m) s = .next q ∧ done q false) ∧ (∃ q, exec (.fenceFull sc m) s = .next q ∧ done q true) ∧
      (s.me.wait = .none → s.mt4Done s.cur = true → s.me.dur = 2 ∨ (s.me.dur = 0 ∧ bit s.pkg.persist 0 = false) →
        ∃ q, exec (.fencePersist sc m) s = .next q ∧ done q true) ∧
      (s.me.wait = .none → s.mt4Done s.cur = true → s.me.dur = 0 → bit s.pkg.persist 0 = true →
        exec (.fencePersist sc m) s =
          .next ((s.emit (.hostFlush (bits s.pkg.persist 6 50 * 64))).setMe { s.me with wait := .flush true, dur := 1 })) ∧
      (s.me.wait = .none → s.mt4Done s.cur = true → s.me.dur = 1 →
        exec (.fencePersist sc m) s = .next (s.setMe { s.me with wait := .flush true }))) ∧
    (∀ b, (s.slot (slotKey core slot)).wait = .flush b →
      exec (.persistAck core slot 1) s =
        .next ((s.setSlot (slotKey core slot) { s.slot (slotKey core slot) with dur := 0 }).finishFence
          (slotKey core slot) true (fld (s.slot (slotKey core slot)).word 19 3)) ∧
      exec (.persistAck core slot 0) s =
        .next ((s.setSlot (slotKey core slot) { s.slot (slotKey core slot) with wait := .none, dur := 0 }).raiseAt
          (slotKey core slot) 0x17 0 (s.slot (slotKey core slot)).pc))

/-- 17 R364 and R365, 04 R73. -/
def Obligations.InvalidationsComplete : Prop :=
  ∀ (s : State) (c a pa mt off : Nat),
    (s.issues [] [] = true → ∃ q, exec (.l1inv c) s = .next q ∧ onlySlot s.cur s q ∧ sameMemory s q ∧ q.pc = s.pc + 4 ∧
      (∀ n, q.rg n = s.rg n) ∧ q.me.acq = (if c % 2 = 1 then s.clock else s.me.acq) ∧
      q.me.iacq = (if c / 2 = 1 then s.clock else s.me.iacq)) ∧
    (s.issues [a] [(5, 0), (4, 1)] = true → s.touches (s.rg a) 0 pa mt off → s.allPerformed s.cur false = true →
      ∃ q, exec (.dinv a) s = .next q ∧ sameMemory s q ∧ q.pc = s.pc + 4 ∧ (∀ n, q.rg n = s.rg n) ∧
        ∀ d, d < 4 → Tab.get none (q.die d).dcache (lineOf off) = none ∧
          ∀ j, j ≠ lineOf off → Tab.get none (q.die d).dcache j = Tab.get none (s.die d).dcache j)

/-- 17 R366: waitw.ne and waitw.eq. (The poll after 1,024 core cycles is the bound of R366.) -/
def Obligations.WaitwCompletes : Prop :=
  ∀ (s : State) (d a b z pa mt off core slot line due : Nat) (i : Instr) (eq : Bool),
    let n := if z = 0 then 32 else 64
    let v := s.view s.cur off (n / 8)
    let w := if z = 0 then sext64 v 32 else BitVec.ofNat 64 v
    ((i, eq) ∈ ([(.waitwNe d a b z, false), (.waitwEq d a b z, true)] : List (Instr × Bool)) →
      s.issues [d, a, b] [(5, 0), (4, 1), (6, 1)] = true → s.me.wait = .none → s.me.outs = [] → mt ≠ 2 →
      (s.rg a).toNat % (n / 8) = 0 → s.touches (s.rg a) 0 pa mt off → s.mustSnoop (lineOf off) false = false →
      ((v == (s.rg b).toNat % 2 ^ n) = eq → ∃ q, exec i s = .next q ∧ onlySlot s.cur s q ∧ s.completes q d w ∧
        sameMemory s q ∧ q.me.acq = s.clock ∧ q.me.st = .ready) ∧
      ((v == (s.rg b).toNat % 2 ^ n) ≠ eq → ∃ q, exec i s = .next q ∧ onlySlot s.cur s q ∧ q.pc = s.pc ∧
        (∀ r, q.rg r = s.rg r) ∧ q.me.st = .blockedWait ∧ q.me.wait = .word (lineOf off) (s.cycle + 1024))) ∧
    ((s.slot (slotKey core slot)).st = .blockedWait → (s.slot (slotKey core slot)).wait = .word line due → due ≤ s.cycle →
      exec (.waitwPoll core slot) s =
        .next (s.setSlot (slotKey core slot) { s.slot (slotKey core slot) with st := .ready, wait := .none, nextAt := s.cycle + 1 }))

/-- 17 R351 and Table 17-1: alignment. -/
def Obligations.MisalignedAccessTraps : Prop :=
  ∀ (s : State) (t b c p o size u : Nat) (rs : List Nat) (i : Instr),
    (i, size, rs, u) ∈
      ([(.ldH t b c p o, 2, [b, t], 6),
       (.ldHu t b c p o, 2, [b, t], 6),
       (.ldW t b c p o, 4, [b, t], 6),
       (.ldWu t b c p o, 4, [b, t], 6),
       (.ldD t b c p o, 8, [b, t], 6),
       (.ldX t b c p o, 16, [b, 2 * t, 2 * t + 1], 6),
       (.stH t b c p o, 2, [b, t], 7),
       (.stW t b c p o, 4, [b, t], 7),
       (.stD t b c p o, 8, [b, t], 7),
       (.stX t b c p o, 16, [b, 2 * t, 2 * t + 1], 7)] : List (Instr × Nat × List Nat × Nat)) →
    s.issues rs [(5, 0), (4, 1), (u, 1)] = true → s.outsOfCore s.myCore < 64 →
    (s.rg b + sext64 o 11 * BitVec.ofNat 64 size).toNat % size ≠ 0 →
    exec i s = .next (s.raise 0x03 (s.rg b + sext64 o 11 * BitVec.ofNat 64 size))

/-! ## Traps and system instructions -/

/-- 19 R402, and the bit of R400 that tells an asynchronous trap: the frame, the status and the pc after trap entry; entry changes no general register. -/
def Obligations.TrapEntrySavesState : Prop :=
  ∀ (s : State) (k cause w : Nat) (tval epc : Word) (async : Bool),
    let x := s.slot k
    let c := s.core (k / 16)
    let l := bits x.tstat 8 2
    let f := bits c.tfbase 12 44 * 4096 + 256 * (k % 16) + 64 * l
    let code := field 63 1 (b2n async) ||| field 0 6 cause
    l ≠ 3 → s.inSvc f 64 = true →
    let t := s.enter k cause tval epc async w
    let y := t.slot k
    let rd := fun i => Mem.readD t.mem (offOf f + 8 * i)
    rd 0 = code ∧ rd 1 = epc ∧ rd 2 = tval ∧ rd 3 = x.tstat ∧ rd 4 = x.reg 1 ∧ rd 5 = x.reg 2 ∧ rd 6 = x.reg 30 ∧
      rd 7 = x.reg 31 ∧ sameMemoryBut (offOf f) 64 s t ∧
      y.tcause = code ∧ y.tepc = epc ∧ y.tval = tval ∧
      bits y.tstat 2 2 = bits x.tstat 0 2 ∧ bits y.tstat 5 1 = bits x.tstat 4 1 ∧ bits y.tstat 4 1 = 0 ∧
      bits y.tstat 8 2 = l + 1 ∧ bits y.tstat 16 16 = bits x.tstat 16 16 ∧
      bits y.tstat 0 2 = (if bits x.tstat 0 2 = 2 then 2 else 1) ∧
      y.pc = (if bits x.tstat 0 2 = 2 then c.mtvec else c.tvec) ∧ ∀ j n, (t.slot j).reg n = (s.slot j).reg n

/-- 19 R405, for a trap that could not be entered: what the slot holds, the fault-queue entry, and vector 1. -/
def Obligations.NestedFaultTrapsSlot : Prop :=
  ∀ (s : State) (k cause w : Nat) (tval epc : Word) (async : Bool),
    let x := s.slot k
    let f := bits (s.core (k / 16)).tfbase 12 44 * 4096 + 256 * (k % 16) + 64 * bits x.tstat 8 2
    (bits x.tstat 8 2 = 3 ∨ s.inSvc f 64 = false) →
    let t := s.enter k cause tval epc async w
    let y := t.slot k
    y.st = .trapped ∧ y.tcause = 0x15 ∧ y.tepc = epc ∧ y.tval = tval ∧ y.tstat = x.tstat ∧
      (∀ n, y.reg n = x.reg n) ∧ sameMemory s t ∧
      ((s.die (dieOfSlot k)).fqNet ≠ s.net + 1 → ∃ ws, (t.die (dieOfSlot k)).fqWait = (s.die (dieOfSlot k)).fqWait ++ [((s.die (dieOfSlot k)).fqSeq, ws)] ∧
        bits (ws.headD 0) 12 4 = 6 ∧ bits (ws.headD 0) 8 4 = (if bits x.tstat 8 2 = 3 then 3 else 4)) ∧
      (bit (s.msixD 3) 32 = false → t.out = s.out ++ [.msix 1 (s.msixD 2) (s.msixD 3 &&& 0xFFFFFFFF)]) ∧
      (bit (s.msixD 3) 32 = true → 1 ∈ t.msixP)

/-- 19 R402 and R403 together: a return undoes an entry, over every state and every level. -/
def Obligations.TrapReturnRestores : Prop :=
  ∀ (s : State) (k cause w : Nat) (tval epc : Word) (async : Bool),
    let x := s.slot k
    let f := bits (s.core (k / 16)).tfbase 12 44 * 4096 + 256 * (k % 16) + 64 * bits x.tstat 8 2
    bits x.tstat 8 2 ≠ 3 → s.inSvc f 64 = true → s.drained k = true → bits x.tstat 2 2 ≠ 3 → bits x.tstat 0 2 ≠ 3 →
    let t := (s.enter k cause tval epc async w).leave k
    let y := t.slot k
    y.pc = epc ∧ (∀ n, y.reg n = x.reg n) ∧ bits y.tstat 0 2 = bits x.tstat 0 2 ∧ bits y.tstat 2 2 = bits x.tstat 2 2 ∧
      bits y.tstat 4 1 = bits x.tstat 4 1 ∧ bits y.tstat 5 1 = bits x.tstat 5 1 ∧ bits y.tstat 8 2 = bits x.tstat 8 2 ∧
      bits y.tstat 16 16 = bits x.tstat 16 16 ∧ sameMemoryBut (offOf f) 64 s t

/-- 19 R404 (and R400: TEPC of cause 0x13 is the next instruction's address): trap raises cause 0x13 with TVAL its code, in every mode. -/
def Obligations.SoftwareTrapIsTaken : Prop :=
  ∀ (s : State) (c : Nat), s.issues [] [] = true → s.me.settled = true → s.drained s.cur = true →
    s.mustSnoop (s.frameLine s.cur) true = false → c < 4096 →
    encode (.trap c) = some (0xF0000000 + c) ∧ ∃ w, exec (.trap c) s = .next ((s.setMe { s.me with
      sync := some { cause := 0x13, tval := BitVec.ofNat 64 c, epc := s.pc + 4, word := w }, st := .ready,
      wait := .none }).enter s.cur 0x13 (BitVec.ofNat 64 c) (s.pc + 4) false w)

/-- 19 R403: what eret restores. -/
def Obligations.EretReturns : Prop :=
  ∀ s : State, s.issues [1, 2, 30, 31] [] = true → s.me.mode ≠ 0 → bits s.me.tstat 8 2 ≠ 0 →
    let tf := bits (s.core s.myCore).tfbase 12 44 * 4096 + 256 * (s.cur % 16)
    let f := tf + 64 * (bits s.me.tstat 8 2 - 1)
    s.poisoned f = false → (∀ l ∈ s.eretLines, s.mustSnoop l false = false) →
    ∃ t, exec .eret s = .next t ∧ onlySlot s.cur s t ∧ sameMemory s t ∧ t.pc = s.me.tepc ∧
      bits t.me.tstat 0 2 = bits s.me.tstat 2 2 ∧ bits t.me.tstat 4 1 = bits s.me.tstat 5 1 ∧
      bits t.me.tstat 8 2 = bits (s.viewD s.cur (f + 24)) 8 2 ∧ bits t.me.tstat 16 16 = bits s.me.tstat 16 16 ∧
      (∀ n, t.rg n = if n = 1 then s.viewD s.cur (f + 32) else if n = 2 then s.viewD s.cur (f + 40)
        else if n = 30 then s.viewD s.cur (f + 48) else if n = 31 then s.viewD s.cur (f + 56) else s.rg n) ∧
      (bits t.me.tstat 8 2 ≠ 0 →
        let f0 := tf + 64 * (bits t.me.tstat 8 2 - 1)
        t.me.tcause = s.viewD s.cur f0 &&& 0x800000000000003F ∧ t.me.tepc = s.viewD s.cur (f0 + 8) &&& ~~~3 ∧ t.me.tval = s.viewD s.cur (f0 + 16))

/-- 19 R403, R406 to R409, 07 R158: what each mode may not do. -/
def Obligations.PrivilegedInstructionsTrap : Prop :=
  ∀ (s : State) (a d r k n : Nat),
    (s.me.mode = 0 →
      (s.issues [1, 2, 30, 31] [] = true → exec .eret s = .next (s.raise 0x02 (BitVec.ofNat 64 s.me.word))) ∧
      (s.issues [d, a] [(5, 0)] = true → exec (.tlbinv d a r k) s = .next (s.raise 0x02 (BitVec.ofNat 64 s.me.word))) ∧
      (s.issues [] [] = true → exec .halt s = .next (s.raise 0x02 (BitVec.ofNat 64 s.me.word))) ∧
      (s.issues [a] [(5, 0)] = true → exec (.tresume a) s = .next (s.raise 0x02 (BitVec.ofNat 64 s.me.word)))) ∧
    (bits s.me.tstat 8 2 = 0 → s.issues [1, 2, 30, 31] [] = true →
      exec .eret s = .next (s.raise 0x02 (BitVec.ofNat 64 s.me.word))) ∧
    (s.me.mode ≠ 2 → s.issues [d, a] [(5, 0)] = true →
      exec (.selftest d a) s = .next (s.raise 0x02 (BitVec.ofNat 64 s.me.word))) ∧
    (crAccess n s.me.mode = 0 → s.issues [d, 0] [] = true →
      exec (.crr d n) s = .next (s.raise 0x02 (BitVec.ofNat 64 s.me.word))) ∧
    (crAccess n s.me.mode ≠ 2 →
      (s.issues [a] [(5, 0)] = true → exec (.crw a n) s = .next (s.raise 0x02 (BitVec.ofNat 64 s.me.word))) ∧
      (s.issues [d, a] [(5, 0)] = true →
        exec (.crs d a n) s = .next (s.raise 0x02 (BitVec.ofNat 64 s.me.word)) ∧
        exec (.crc d a n) s = .next (s.raise 0x02 (BitVec.ofNat 64 s.me.word))))

/-- 19 R406, Tables 19-2 to 19-4: the control-register moves, and what a plain register keeps of a write. -/
def Obligations.ControlRegisterMoves : Prop :=
  ∀ (s : State) (d a n : Nat), n < 0x100 →
    (crAccess n s.me.mode ≠ 0 → s.issues [d, 0] [] = true →
      exec (.crr d n) s = .next (s.wrLate d (s.crRead s.cur n)).advance) ∧
    (crAccess n s.me.mode = 2 →
      (s.issues [a] [(5, 0)] = true → exec (.crw a n) s = .next (s.crWrite s.cur n (s.rg a)).advance) ∧
      (s.issues [d, a] [(5, 0)] = true →
        exec (.crs d a n) s =
          .next ((s.crWrite s.cur n ((s.crRead s.cur n ||| s.rg a) &&& ~~~(crKeep n))).wrLate d (s.crRead s.cur n)).advance ∧
        exec (.crc d a n) s =
          .next ((s.crWrite s.cur n (s.crRead s.cur n &&& ~~~(s.rg a) &&& ~~~(crKeep n))).wrLate d (s.crRead s.cur n)).advance)) ∧
    ∀ (k : Nat) (mask v : Word), (n, mask) ∈
      ([(0x001, 0x800000000000003F), (0x002, 0xFFFFFFFFFFFFFFFC), (0x003, 0xFFFFFFFFFFFFFFFF),
        (0x004, 0x00FFFFFFFFFFFFFC), (0x005, 0xFFFFFFFFFFFFFFFF), (0x006, 0x00FFFFFFFFFFF000),
        (0x007, 0x00FFFFFFFFFFFFFC), (0x010, 0xFFFF), (0x011, 0x00FFFFFFFFFFC000), (0x022, 0xFFFFFFFFFFFFFFFF),
        (0x032, 0xFFFFFFFF), (0x033, 0xFFFFFFFF)] : List (Nat × Word)) →
      (s.crWrite k n v).crRead k n = v &&& mask

/-- 07 R145 and 19 R407 (tlbinv), 19 R408 (halt), 18 R396 (yield), 19 R409 (selftest). -/
def Obligations.SystemInstructionsComplete : Prop :=
  ∀ (s : State) (d a k : Nat),
    (s.issues [d, a] [(5, 0)] = true → s.me.mode ≠ 0 → ∀ r, r < 2 →
      let keeps := fun (e : Tlb) => !e.removed k (bits (s.rg d) 0 16) (s.rg a).toNat
      let reached := fun (e : Nat) => r == 1 || e == dieOfSlot s.cur
      let l := s.pendingOf (r == 1) (dieOfSlot s.cur)
      (s.me.wait = .none → ∃ t, exec (.tlbinv d a r k) s = .next t ∧ sameMemory s t ∧ (∀ n, t.rg n = s.rg n) ∧
        (∀ e, e < 4 → (t.die e).tlb2 = if reached e then (s.die e).tlb2.filter keeps else (s.die e).tlb2) ∧
        (∀ c, c < 256 → (t.core c).tlb1 = if reached (c / 64) then (s.core c).tlb1.filter keeps else (s.core c).tlb1) ∧
        (l = [] → t.pc = s.pc + 4 ∧ t.me.wait = .none) ∧ (l ≠ [] → t.pc = s.pc ∧ t.me.wait = .inval l)) ∧
      (∀ w, s.me.wait = .inval w → (∀ p ∈ w, p ∉ s.pendingOf true 0) →
        exec (.tlbinv d a r k) s = .next (s.setMe { s.me with wait := .none }).advance)) ∧
    (s.issues [] [] = true → s.me.mode ≠ 0 →
      ((s.nextPend s.cur).isSome = true → exec .halt s = .next (s.setMe { s.me with wait := .none }).advance) ∧
      (s.nextPend s.cur = none → s.me.wait = .none → exec .halt s = .next (s.setMe { s.me with wait := .halt }))) ∧
    (s.issues [] [] = true → ∃ t, exec .yield s = .next t ∧ onlySlot s.cur s t ∧ t.pc = s.pc + 4 ∧ (∀ n, t.rg n = s.rg n) ∧
      t.me.wait = .yield (s.cycle + 16) (s.otherReady s.cur)) ∧
    (∀ j i, j ∈ s.otherReady i ↔ (s.slot j).st = .ready ∧ j ≠ i ∧ i / 16 * 16 ≤ j ∧ j < i / 16 * 16 + 16) ∧
    (∀ i j u o, (s.slot i).wait = .yield u o →
      ((s.sawIssue j).slot i).wait = .yield u (o.filter (fun x => x != j)) ∧
      (s.cycle < u → (∃ x ∈ o, (s.slot x).st = .ready) → ∀ p, (s.ready i p).2 = none) ∧
      ((u ≤ s.cycle ∨ ∀ x ∈ o, (s.slot x).st ≠ .ready) → s.yields i = false)) ∧
    (s.issues [d, a] [(5, 0)] = true → s.me.mode = 2 → s.me.wait = .none →
      (∀ r, s.testPart (s.rg a) = .inl r → exec (.selftest d a) s = .next (s.wr d (BitVec.ofNat 64 r)).advance) ∧
      (∀ p, s.testPart (s.rg a) = .inr p → ∃ t e, exec (.selftest d a) s = .next t ∧ t.tests = s.tests ++ [e] ∧ e.part = p ∧
        e.slot = some s.cur ∧ t.me.wait = .test e.id ∧ t.pc = s.pc ∧ (∀ n, t.rg n = s.rg n))) ∧
    (∀ j e pass, s.tests.find? (fun t => t.id == e.id) = some e → e.slot = some j → (s.slot j).wait = .test e.id →
      s.running = true → (if e.part.headD 0 = 0 then s.cycle else s.fab) ≥ e.due →
      let d := fld (s.slot j).word 21 5
      ∃ t, exec (.selftestDone e.id pass) s = .next t ∧ (t.slot j).pc = (s.slot j).pc + 4 ∧ (t.slot j).wait = .none ∧
        ∀ n, (t.slot j).reg n = if n = d ∧ d ≠ 0 then (if pass = 1 then 0 else 1) else (s.slot j).reg n)

/-- 19 R401: the event of asynchronous trap entry, that of the timer, and which trap comes first. -/
def Obligations.AsyncTrapsAreTaken : Prop :=
  ∀ (s : State) (core slot : Nat) (p : Pend),
    let k := slotKey core slot
    let x := s.slot k
    (x.st = .ready → x.sync = none → x.wait = .none → x.open_ = true → x.outs = [] → x.muls = [] → s.drained k = true →
      s.mustSnoop (s.frameLine k) true = false → s.nextPend k = some p → p.src = 0 →
      let y : Slot := { x with probed := false, pend := dropPend p x.pend }
      exec (.asyncTrapEntry core slot) s = .next ((s.setSlot k y).enter k p.cause p.tval x.pc true 0) ∧
      (p.cause = 0x14 →
        exec (.timerExpiry core slot) s = .next ((s.setSlot k y).enter k p.cause p.tval x.pc true 0))) ∧
    (s.nextPend k = some p → ∀ q ∈ x.pend, p.cause ≤ q.cause)

/-- 18 R394 (tspawn), R395 (texit), 07 R158 to R160 (tresume, FRESUME). -/
def Obligations.ThreadsStartAndEnd : Prop :=
  ∀ (s : State) (d a b die seq : Nat),
    (s.issues [d, a, b] [(5, 0)] = true → (s.rg a).toNat % 4 = 0 → s.allPerformed s.cur false = true →
      (s.freeSlots s.myCore s.me.asidN = 0 ∨ s.lowSlot s.myCore = none → exec (.tspawn d a b) s = .next (s.wr d 0xFFFFFFFFFFFFFFFF).advance) ∧
      (∀ k, s.freeSlots s.myCore s.me.asidN ≠ 0 → s.lowSlot s.myCore = some k → k ≠ s.cur →
        ∃ t, exec (.tspawn d a b) s = .next t ∧ s.completes t d (BitVec.ofNat 64 (k % 16)) ∧ sameMemory s t ∧
          (t.slot k).st = .ready ∧ (t.slot k).pc = s.rg a ∧ (t.slot k).reg 1 = s.rg b ∧
          (t.slot k).reg 2 = BitVec.ofNat 64 (s.cur % 16) ∧ (t.slot k).mode = s.me.mode ∧ (t.slot k).asid = s.me.asid ∧
          (t.slot k).ptbase = s.me.ptbase)) ∧
    (s.issues [] [] = true → s.me.settled = true → s.drained s.cur = true → s.me.feedOf = 0 → s.owned s.cur = [] →
      exec .texit s = .next (s.freeSlot s.cur) ∧ (s.freeSlot s.cur).me.st = .free) ∧
    (s.issues [a] [(5, 0)] = true → s.me.mode ≠ 0 → s.allPerformed s.cur true = true →
      exec (.tresume a) s =
        .next (s.resumeParty (bits (s.rg a) 32 2) (bits (s.rg a) 0 32) (decide (s.me.mode = 2))).advance) ∧
    (die < 4 → exec (.fresume die seq) s = .next (s.resumeParty die (seq % 2 ^ 32) true)) ∧
    ∀ k, (s.slot k).st = .parked → (s.slot k).parkDie = die → (s.slot k).parkSeq = seq →
      ((s.resumeParty die seq true).slot k).st = .ready

/-! ## Queues -/

/-- 18 R373 and R374: push and clasp. -/
def Obligations.PushesAppend : Prop :=
  ∀ (s : State) (b q t r l g : Nat) (x : Bind) (i : Instr) (w : LW),
    (i, w) ∈ ([(.qpush g b q t r, mkWord (BitVec.ofNat 256 (s.rg b).toNat) (qidVc x.qid) 0 0 (qidRoute x.qid)),
       (.qclasp g q t r l, mkWord 0 (qidVc x.qid) 1 l (qidRoute x.qid))] : List (Instr × LW)) →
    s.issues [g, b] [(5, 0), (7, 1)] = true → s.issues [g] [(7, 1)] = true → s.me.bind q = some x → x.out = true →
    s.me.wait = .none → s.me.st = .ready →
    (s.qFull x.key = false → (r = 1 → s.allPerformed s.cur true = true) →
      ∃ u, exec i s = .next u ∧ (t = 1 → s.completes u g 0) ∧ (t ≠ 1 → s.completes u 0 0) ∧ sameMemory s u ∧
        (u.queue x.key).toks.map (fun e => e.w) = (s.queue x.key).toks.map (fun e => e.w) ++ [w]) ∧
    (s.qFull x.key = true →
      (t = 1 → ∃ u, exec i s = .next u ∧ s.completes u g 1 ∧ sameMemory s u ∧
        (u.queue x.key).toks = (s.queue x.key).toks) ∧
      (t ≠ 1 → bit s.me.qctl (3 * q + 1) = false →
        ∃ u, exec i s = .next u ∧ u.pc = s.pc ∧ (∀ n, u.rg n = s.rg n) ∧ sameMemory s u ∧ u.me.st = .blockedQueue ∧
          u.me.wait = .queue q ∧ (u.queue x.key).toks = (s.queue x.key).toks))

/-- 18 R373, R375 and Table 18-3: pop, peek and branch-pop. -/
def Obligations.PopsTake : Prop :=
  ∀ (s : State) (d c q t a n m : Nat) (x : Bind) (e : QTok),
    s.me.bind q = some x → x.out = false → s.me.wait = .none → s.me.st = .ready →
    (s.tokenFor x.key (bindKey s.cur q) (s.myOrder q) = some m → (s.queue x.key).toks[m]? = some e →
      (e.w.poisoned = true → s.issues [c, d] [(6, 1)] = true → ∀ i ∈ [Instr.qpop d c q t a, .qpeek d c q t a],
        exec i s = .next ((s.setMe { s.me with st := .ready, wait := .none, probed := false }).raise 0x08 (BitVec.ofNat 64 q))) ∧
      (e.w.poisoned = false → e.w.badResid = false →
      (s.issues [c, d] [(6, 1)] = true →
        (∃ u, exec (.qpop d c q t a) s = .next u ∧ u.pc = s.pc + 4 ∧ sameMemory s u ∧
          ((s.queue x.key).mcast = false → (u.queue x.key).toks = dropNth (s.queue x.key).toks m) ∧
          ∀ j, u.rg j = if t = 1 ∧ j = c ∧ c ≠ 0 then e.w.status else if j = d ∧ d ≠ 0 then e.w.value else s.rg j) ∧
        (∃ u, exec (.qpeek d c q t a) s = .next u ∧ u.pc = s.pc + 4 ∧ sameMemory s u ∧
          (u.queue x.key).toks = (s.queue x.key).toks ∧
          ∀ j, u.rg j = if t = 1 ∧ j = c ∧ c ≠ 0 then e.w.status else if j = d ∧ d ≠ 0 then e.w.value else s.rg j)) ∧
      (s.issues [0, d] [(6, 1)] = true → x.branch = true →
        ∃ u, exec (.bqpop d q a n) s = .next u ∧ u.pc = s.pc + 4 * BitVec.ofNat 64 (1 + min e.w.value.toNat n) ∧
          sameMemory s u ∧ ((s.queue x.key).mcast = false → (u.queue x.key).toks = dropNth (s.queue x.key).toks m) ∧
          ∀ j, u.rg j = if j = d ∧ d ≠ 0 then e.w.value else s.rg j))) ∧
    (s.tokenFor x.key (bindKey s.cur q) (s.myOrder q) = none → s.tokenLater x.key (bindKey s.cur q) (s.myOrder q) = false →
      s.issues [c, d] [(6, 1)] = true →
      (∃ u, exec (.qpop d c q 1 a) s = .next u ∧ s.completes u c 1 ∧ (u.queue x.key).toks = (s.queue x.key).toks) ∧
      (∃ u, exec (.qpeek d c q 1 a) s = .next u ∧ s.completes u c 1 ∧ (u.queue x.key).toks = (s.queue x.key).toks))

/-- 18 R370, R371 and R376; 06 R129. -/
def Obligations.QueueBindingsAndCounters : Prop :=
  ∀ (s : State) (d c q b o key : Nat) (x : Bind),
    (s.issues [c] [(5, 0)] = true → s.rg c = 0 → exec (.qbind c q b o) s = .next (s.unbind s.cur q).advance) ∧
    (let id := s.rg c
     let r := s.unbind s.cur q
     let k := queueKey (dieOfSlot s.cur) id (o == 1)
     s.issues [c] [(5, 0)] = true → id ≠ 0 →
      (r.qidFault id false r.me.asidN r.me.feedOf = none →
       (keyIsCircuit k = true ∨ ((r.queue k).live = true ∧ (r.queue k).asid = r.me.asid) ∨
         ((r.queue k).live = false ∧ qidCap id * 64 ≤ r.freeCircuit (dieOfSlot s.cur))) →
      ∃ u y, exec (.qbind c q b o) s = .next u ∧ s.completes u 0 0 ∧ sameMemory s u ∧ u.me.bind q = some y ∧ y.key = k ∧
        y.qid = id ∧ y.out = (o == 1) ∧ y.branch = (b == 1) ∧ (u.queue k).bound = true ∧
        ((r.queue k).bound = false → (u.queue k).live = true ∧ (u.queue k).cap = qidCap id) ∧
        (u.queue k).toks.map (fun t => t.w) = (r.queue k).toks.map (fun t => t.w) ∧
        (o = 1 → (u.queue k).prods = (r.queue k).prods ++ [bindKey s.cur q]) ∧
        (o ≠ 1 → (u.queue k).cons = (r.queue k).cons ++ [bindKey s.cur q])) ∧
      (∀ m n, r.qidFault id false r.me.asidN r.me.feedOf = some (m, n) →
        exec (.qbind c q b o) s = .next (r.raise m (if m = 0x07 then BitVec.ofNat 64 q
          else descTval n (if n = 0x0C then qidLoad id else q))))) ∧
    (s.issues [d] [] = true →
      (s.me.bind q = some x →
        exec (.qstat d q 2) s = .next (s.wr d (BitVec.ofNat 64 (s.queue x.key).toks.length)).advance ∧
        exec (.qstat d q 3) s = .next (s.wr d (BitVec.ofNat 64 (s.queue x.key).lod)).advance ∧
        exec (.qstat d q c) s = .next (s.wr d (BitVec.ofNat 64 (s.qCounter x.key c))).advance) ∧
      (s.me.bind q = none → exec (.qstat d q c) s = .next (s.raise 0x11 (descTval 0x01 q)))) ∧
    (let y := s.queue key
     let w := bits y.decthr 32 32
     let k := y.decBy / 16
     let n := y.decBy % 16
     (y.lowAt ≠ 0 → y.armed = true → w ≤ y.run + (s.cycle + 1 - y.lowAt) → y.lod < 2 ^ 48 - 1 →
      ∃ u, exec (.lossOfDecoupling key) s = .next u ∧ (u.queue key).lod = y.lod + 1 ∧ (u.queue key).armed = false ∧
        (u.queue key).toks = y.toks ∧ sameMemory s u ∧
        (bit (s.slot k).qctl (3 * n + 2) = true → k < 4096 →
          s.hears u k { cause := 0x0E, tval := BitVec.ofNat 64 n, src := 0 }) ∧
        (bit (s.slot k).qctl (3 * n + 2) = false → u.slots = s.slots)) ∧
     (y.lowAt = 0 ∨ y.armed = false ∨ y.run + (s.cycle + 1 - y.lowAt) < w → exec (.lossOfDecoupling key) s = .next s))

/-- 06 Table 06-2 and R131; 13 R286 and R287. -/
def Obligations.BlockedThreadsAndProbes : Prop :=
  ∀ (s : State) (core slot id b : Nat) (p : Probe),
    let k := slotKey core slot
    let x := s.slot k
    ((x.st = .blockedQueue ∨ x.st = .blockedWait) →
      (s.mayWake k = true → exec (.blockedWake core slot) s = .next (s.setSlot k { x with st := .ready, nextAt := s.cycle + 1 })) ∧
      (s.mayWake k = false → exec (.blockedWake core slot) s = .next s)) ∧
    (bits x.blkthr 0 32 ≠ 0 → x.probed = false → x.since + bits x.blkthr 0 32 ≤ s.cycle → ∀ l,
      (x.st = .blockedQueue ∧ x.wait = .queue b ∧ l = [k]) ∨ (x.st = .blockedQueue ∧ x.wait = .engine b ∧ l = [k]) ∨
        (x.st = .blockedWait ∧ x.wait = .cut b ∧ l = s.sinks b) →
      ∃ u e, exec (.probeStart core slot) s = .next u ∧ u.probes = s.probes ++ [e] ∧ e.slot = k ∧ e.hops = 0 ∧
        e.paths = l.map (fun q => [(q, s.mark q)]) ∧ e.back = none ∧ e.since = x.since ∧ e.wait = x.wait ∧
        onlySlot k { s with probes := s.probes ++ [e], nProbe := s.nProbe + 1 } u ∧ (u.slot k).probed = true) ∧
    (s.running = true → s.probes.find? (fun y => y.id == id) = some p → p.at_ ≠ s.net + 1 →
      (p.back = none → p.hops < 4096 → p.paths ≠ [] →
        let others := fun path => p.paths.filter (fun o => o != path)
        (∀ l e r, p.paths = l ++ e :: r → (s.extend p.slot (others e) e).2.1 = true →
          (∀ y ∈ l, (s.extend p.slot (others y) y).2.1 = false) →
          exec (.probeHop id) s = .next (s.setProbe id (some { p with back := some e, at_ := s.net + 1 }))) ∧
        ((∀ e ∈ p.paths, (s.extend p.slot (others e) e).2.1 = false ∧ (s.extend p.slot (others e) e).2.2 = []) →
          exec (.probeHop id) s = .next (s.setProbe id (some { p with
            paths := p.paths.flatMap (fun e => (s.extend p.slot (others e) e).1), hops := p.hops + 1, at_ := s.net + 1 })))) ∧
      (p.back = none → p.hops ≥ 4096 ∨ p.paths = [] → exec (.probeHop id) s = .next (s.setProbe id none)) ∧
      (∀ q m r, p.back = some ((q, m) :: r) →
        (s.mark q = m → s.waitsFor q ≠ [] →
          exec (.probeHop id) s = .next (s.setProbe id (some { p with back := some r, at_ := s.net + 1 }))) ∧
        (s.mark q ≠ m ∨ s.waitsFor q = [] → exec (.probeHop id) s = .next (s.setProbe id none))) ∧
      (p.back = some [] → s.later p = false →
        exec (.probeHop id) s = .next ((s.setProbe id none).confirm p) ∧
        (∀ y z, y = s.slot p.slot → y.since = p.since → y.wait = p.wait → y.st = .blockedQueue → y.wait = .queue b →
          y.bind b = some z →
          (s.setProbe id none).confirm p =
            ((s.setProbe id none).raiseAt p.slot 0x0B (BitVec.ofNat 64 b) y.pc).qSync z.key)))

/-! ## Engines -/

/-- 18 R381, R383 to R386: entering, waiting for, polling and stopping commands. -/
def Obligations.CommandsEnter : Prop :=
  ∀ (s : State) (d a b : Nat),
    let c := s.myCore
    let blk := s.rg a
    let h := s.rg a
    let n1 := (s.core c).numStrm
    let n2 := (s.core c).numCopy
    (s.issues [d, a] [(5, 0), (4, 1), (6, 1)] = true →
      (let blocks := fun (i : Instr) => ∃ u, exec i s = .next u ∧ onlySlot s.cur s u ∧ u.pc = s.pc ∧
         u.me.st = .blockedQueue ∧ u.me.wait = .engine c
       (∀ ws, s.reads64 blk ws →
          (s.streamFault (dieOfCore c) ws s.me.asid s.me.feedOf blk = none → s.engFull c = true → blocks (.strm d a)) ∧
          (s.streamFault (dieOfCore c) ws s.me.asid s.me.feedOf blk = none → s.engFull c = false →
            ∃ u m, exec (.strm d a) s = .next u ∧ s.completes u d (handleOf c 1 n1) ∧ sameMemory s u ∧
              (u.core c).engq = (s.core c).engq ++ [m] ∧ m.kind = 1 ∧ m.num = n1 ∧ m.blk = blk ∧ m.words = [ws] ∧
              m.asid = s.me.asid ∧ m.ptb = s.me.ptbase ∧ m.mode = s.me.mode ∧ m.by_ = s.cur ∧
              (u.core c).numStrm = (n1 + 1) % 2 ^ 32) ∧
          (∀ cause tv, s.streamFault (dieOfCore c) ws s.me.asid s.me.feedOf blk = some (cause, tv) →
            exec (.strm d a) s = .next (s.raise cause tv))) ∧
       (∀ wss, s.readsChain blk wss → wss.length ≤ 64 → (s.engFull c = true → blocks (.copy d a)) ∧ (s.engFull c = false →
          ∃ u m, exec (.copy d a) s = .next u ∧ s.completes u d (handleOf c 2 n2) ∧ sameMemory s u ∧
            (u.core c).engq = (s.core c).engq ++ [m] ∧ m.kind = 2 ∧ m.num = n2 ∧ m.blk = blk ∧ m.words = wss ∧
            m.asid = s.me.asid ∧ m.ptb = s.me.ptbase ∧ m.mode = s.me.mode ∧ m.by_ = s.cur ∧
            (u.core c).numCopy = (n2 + 1) % 2 ^ 32)))) ∧
    (let e := (s.rg b).toNat
     s.issues [a, b] [(5, 0)] = true →
      (e ≥ 256 ∨ s.mappedOut e = true → exec (.renq a b) s = .next (s.raise 0x11 (descTval 0x0C (e % 2 ^ 16)))) ∧
      (e < 256 → s.mappedOut e = false → s.allPerformed s.cur true = true →
        (s.engFull e = true → ∃ u, exec (.renq a b) s = .next u ∧ onlySlot s.cur s u ∧ u.pc = s.pc ∧
          u.me.st = .blockedQueue ∧ u.me.wait = .engine e) ∧
        (s.engFull e = false → ∃ u m, exec (.renq a b) s = .next u ∧ s.completes u 0 0 ∧ sameMemory s u ∧
          (u.core e).engq = (s.core e).engq ++ [m] ∧ m.kind = 0 ∧ m.blk = s.rg a ∧ m.by_ = s.cur ∧ m.asid = s.me.asid))) ∧
    (∀ i k, (i, k) ∈ [(Instr.strmwait a, 1), (.cwait a, 2)] → s.issues [a] [(5, 0)] = true →
      (s.handleOk h [k] = true →
        (s.cmdDone h = true → ∃ u, exec i s = .next u ∧ s.completes u 0 0 ∧ onlySlot s.cur s u) ∧
        (s.cmdDone h = false → ∃ u, exec i s = .next u ∧ onlySlot s.cur s u ∧ u.pc = s.pc ∧
          (∀ n, u.rg n = s.rg n) ∧ u.me.st = .blockedWait ∧ u.me.wait = .command h.toNat)) ∧
      (s.handleOk h [k] = false → exec i s = .next s.badHandle)) ∧
    (s.issues [d, a] [(5, 0)] = true →
      (s.handleOk h [1, 2] = true → exec (.cpoll d a) s =
        .next (s.wr d (BitVec.ofNat 64 (s.cmdState (bits h 40 8) (bits h 32 8) (bits h 0 32)))).advance) ∧
      (s.handleOk h [1, 2] = false → exec (.cpoll d a) s = .next s.badHandle)) ∧
    (s.issues [a] [(5, 0)] = true →
      (s.handleOk h [1] = true → ∃ u, exec (.strmkill a) s = .next u ∧ s.completes u 0 0 ∧ sameMemory s u ∧
        (u.core c).engq = (s.core c).engq.map (fun m =>
          if m.kind = 1 ∧ m.num = bits h 0 32 then { m with dead := true } else m) ∧
        ∀ n x, n < 32 → s.stream c n = some x →
          (x.cmd.num = bits h 0 32 → s.killable c n x = false → u.stream c n = some x) ∧
          (x.cmd.num = bits h 0 32 → s.killable c n x = true →
            ∃ y, u.stream c n = some y ∧ y.st = 3 ∧ y.status = 2 ∧ y.pos = x.pos) ∧
          (x.cmd.num ≠ bits h 0 32 → u.stream c n = some x)) ∧
      (s.handleOk h [1] = false → exec (.strmkill a) s = .next s.badHandle)) ∧
    ∃ v, s.badHandle = ({ s with fresh := s.fresh + 1 } : State).raise 0x11 (descTval 0x0B v)

/-- 06 R125; 18 R382 and R386: starting commands. -/
def Obligations.CommandsStart : Prop :=
  ∀ (s : State) (core i : Nat) (m : Cmd), (s.core core).engq[i]? = some m → s.cmdHeld m = false →
    let told := fun (u : State) => s.hears u m.by_ { cause := 0x16, tval := m.blk, src := cmdTag core m.kind m.num }
    (∀ n, firstOf 1 0 (s.core core).engq = some i → firstFree (s.core core).streams 32 = some n → m.kind = 1 →
      s.startable core m = true →
      ∃ u x, exec (.engineCommandStart core 1) s = .next u ∧ sameMemory s u ∧
        (u.core core).engq = dropNth (s.core core).engq i ∧ u.stream core n = some x ∧ x.cmd = m ∧ x.pos = 0 ∧
        (m.dead = true → x.st = 3 ∧ x.status = 2) ∧
        (m.dead = false → (s.dropCmd core i).joinable core m = true → x.st = 1 ∧
          (qidCfg (m.dw 0 2) = false → bit (m.dw 0 0) 59 = false →
            (x.drain = false → streamKey core n ∈ (u.queue x.key).prods) ∧
            (x.drain = true → streamKey core n ∈ (u.queue x.key).cons))) ∧
        (m.dead = false → (s.dropCmd core i).joinable core m = false → x.st = 3 ∧ x.status = 3 ∧ told u)) ∧
    (∀ n, firstOf 2 0 (s.core core).engq = some i → firstFree (s.core core).copies 128 = some n → m.kind = 2 →
      ∃ u x, exec (.engineCommandStart core 2) s = .next u ∧ onlyCore core s u ∧
        (u.core core).engq = dropNth (s.core core).engq i ∧ u.copy core n = some x ∧ x.cmd = m ∧ x.st = 1 ∧ x.step = 0 ∧
        x.off = 0 ∧ x.bytes = 0) ∧
    (firstOf 0 0 (s.core core).engq = some i → ((s.core core).engq.take i).any (fun p => s.startable core p) = false →
      let becomes := fun (kind : Nat) (wss : List (List Word)) =>
        ∃ u, exec (.engineCommandStart core 0) s = .next u ∧ onlyCore core s u ∧
          (u.core core).engq = setNth (s.core core).engq i { m with kind := kind, words := wss }
      let ends := ∃ u, exec (.engineCommandStart core 0) s = .next u ∧ sameMemory s u ∧
          (u.core core).engq = dropNth (s.core core).engq i ∧ told u
      (aligned m.blk 64 = false → ends) ∧
      (aligned m.blk 64 = true → ∀ v, s.engLine core eidQueue m m.blk = (s, .data v false) →
        let ws := (splitN 64 v 8).map (BitVec.ofNat 64)
        (threadOk ws = true → becomes 3 [ws]) ∧
        (ctypeOf ws = 1 → s.streamFault (dieOfCore core) ws m.asid m.load m.blk = none → becomes 1 [ws]) ∧
        (ctypeOf ws = 1 → s.streamFault (dieOfCore core) ws m.asid m.load m.blk ≠ none → ends) ∧
        (copyOk ws s.pkg.pkgNo = true → copyOverlaps ws = false →
          (nextOf ws = 0 → becomes 2 [ws]) ∧
          (nextOf ws ≠ 0 → ∀ l, s.engChain core m (nextOf ws) [ws] 64 = (s, some (some l)) → becomes 2 l) ∧
          (nextOf ws ≠ 0 → s.engChain core m (nextOf ws) [ws] 64 = (s, some none) → ends)) ∧
        (ctypeOf ws = 2 → copyOk ws s.pkg.pkgNo = false ∨ copyOverlaps ws = true → ends) ∧
        (ctypeOf ws ≠ 1 → ctypeOf ws ≠ 2 → threadOk ws = false → ends))) ∧
    (∀ k, firstOf 3 0 (s.core core).engq = some i → s.running = true → s.freeSlots core (bits m.asid 0 16) ≠ 0 →
      s.lowSlot core = some k →
      ∃ u, exec (.threadCommandStart core) s = .next u ∧ onlySlotCore k core s u ∧
        (u.core core).engq = dropNth (s.core core).engq i ∧ (u.slot k).st = .ready ∧ (u.slot k).mode = 0 ∧
        (u.slot k).pc = m.dw 0 1 &&& ~~~3 ∧ (u.slot k).reg 1 = m.dw 0 2 ∧
        (u.slot k).reg 2 = BitVec.ofNat 64 (m.by_ % 4096) ∧ (u.slot k).asid = m.asid)

/-- 18 R379, R380; 06 R124; 07 R150 and R151: the walk of a stream, its faults and its record. -/
def Obligations.StreamsMove : Prop :=
  ∀ (s : State) (core n : Nat) (x : Stream), s.stream core n = some x → s.testing x.cmd.load = false →
    (∀ e va v, x.drain = false → x.st = 1 → x.drained = false → x.pos ≤ e → e < x.limit →
      (x.gather = true → e < x.idxNext) → x.addrOf e = some va → va.toNat % 64 + x.esz ≤ 64 → Tab.get none x.buf e = none →
      s.mayFetch core n x e = true →
      (e = x.pos ∨ (Tab.get none x.buf (e - 1)).isSome = true ∨
        ∃ w, x.addrOf (e - 1) = some w ∧ lineOf w.toNat ≠ lineOf va.toNat) →
      s.engLine core (eidStream n) x.cmd va = (s, .data v false) → s.askedFor core n x e = false →
      ∃ u y, exec (.streamLineReturn core n e) s = .next u ∧ sameMemory s u ∧ u.stream core n = some y ∧
        y.fetched = x.fetched + 1 ∧ x.pos ≤ y.pos ∧
        (e < y.pos ∨ Tab.get none y.buf e =
          some { val := v / 2 ^ (8 * (va.toNat % 64)) % 2 ^ (8 * x.esz), pois := false })) ∧
    (∀ va v, x.st = 1 → x.drain = false → x.gather = false → qidCfg x.qid = false → x.fault = none → x.drained = false →
      x.total = x.pos + 1 → x.buf = [] → x.lines = [] → x.part = [] → x.outw = [] → x.markPos = [] →
      x.clasps x.pos = [] → va = x.addr x.pos 0 → va.toNat % 64 + x.esz ≤ 64 → s.qFull x.key = false →
      s.engLine core (eidStream n) x.cmd va = (s, .data v false) → s.askedFor core n x x.pos = false →
      ∃ u y, exec (.streamLineReturn core n x.pos) s = .next u ∧ sameMemory s u ∧ u.stream core n = some y ∧
        y.pos = x.pos + 1 ∧ y.fetched = x.fetched + 1 ∧
        (u.queue x.key).toks.map (fun t => t.w) = (s.queue x.key).toks.map (fun t => t.w) ++
          [mkWord (BitVec.ofNat 256 (v / 2 ^ (8 * (va.toNat % 64)) % 2 ^ (8 * x.esz))) (qidVc x.qid) 0 0 (qidRoute x.qid)]) ∧
    (x.drain = true → x.st = 1 → x.fault = none → x.drained = false → x.pos + x.held.length < x.total →
      (∀ m e, x.held = [] ∨ s.fillsLine core n x = true →
        s.tokenFor x.key (streamKey core n) (reqOrder ((if x.emptyAt = 0 then s.cycle + 1 else x.emptyAt) - 1) core (16 + n)) =
          some m →
        (s.queue x.key).toks[m]? = some e →
        (e.w.kind = kNull → x.held = [] →
          ∃ u y, exec (.streamDrainPop core n) s = .next u ∧ sameMemory s u ∧ u.stream core n = some y ∧
            y.pos = min x.total (x.pos + x.perWord) ∧
            ((s.queue x.key).mcast = false → (u.queue x.key).toks = dropNth (s.queue x.key).toks m)) ∧
        (e.w.kind = kData → e.w.poisoned = true ∨ e.w.badResid = false → s.protOf x.cmd = none →
          ∃ u y, exec (.streamDrainPop core n) s = .next u ∧ u.stream core n = some y ∧
            y.pos + y.held.length = x.pos + x.held.length + min x.perWord (x.total - x.pos - x.held.length) ∧
            ((s.queue x.key).mcast = false → (u.queue x.key).toks = dropNth (s.queue x.key).toks m))) ∧
      (∀ e off, x.held = [e] → e.pois = false → s.fillsLine core n x = false →
        Tab.get 0 (s.core core).pendW (eidStream n) = 0 →
        s.engineWrites core x.cmd (x.addr x.pos 0) off → (x.addr x.pos 0).toNat % 64 + x.esz ≤ 64 →
        ∃ u y, exec (.streamDrainPop core n) s = .next u ∧ sameMemoryBut off x.esz s u ∧
          Mem.readN u.mem off x.esz = e.val % 2 ^ (8 * x.esz) ∧ u.stream core n = some y ∧ y.pos = x.pos + 1 ∧
          y.held = [])) ∧
    (∀ f, x.fault = some f → x.st = 1 →
      (s.parks core f = true → (x.drain = true ∨ s.allBefore core n x f.pos x.pos (f.pos - x.pos) = true) →
        ∃ u y, exec (.streamPark core n) s = .next u ∧ sameMemory s u ∧ u.stream core n = some y ∧ y.st = 2 ∧
          y.parkDie = dieOfCore core ∧ y.pos = x.pos ∧
          ((s.die (dieOfCore core)).fqNet ≠ s.net + 1 → y.parkSeq = (s.die (dieOfCore core)).fqSeq) ∧
          (u.die (dieOfCore core)).fqSeq = ((s.die (dieOfCore core)).fqSeq + 1) % 2 ^ 32) ∧
      (s.parks core f = false → (x.drain = true ∨ (x.pos = f.pos ∧ x.outw = [])) →
        ∃ u y, exec (.streamPark core n) s = .next u ∧ sameMemory s u ∧ u.stream core n = some y ∧ y.st = 3 ∧ y.status = 3 ∧
          s.hears u x.cmd.by_ { cause := 0x16, tval := x.cmd.blk, src := cmdTag core x.cmd.kind x.cmd.num })) ∧
    (x.cmd.kind = 1 → Tab.get 0 (s.core core).pendW (eidStream n) = 0 →
      ((s.streamDone core n x = true ∧ x.craddr = 0) ∨ (3 ≤ x.st ∧ (x.craddr = 0 ∨ x.st = 5)) →
        ∃ u e, exec (.streamComplete core n) s = .next u ∧ sameMemory s u ∧ u.stream core n = none ∧
          e ∈ (u.core core).hist ∧ e.kind = 1 ∧ e.num = x.cmd.num ∧
          e.ok = (x.status == 1 || (x.status == 0 && s.streamDone core n x))) ∧
      (∀ u, x.st = 3 → x.craddr ≠ 0 → s.writeRec core (eidStream n) x.cmd (x.marked + 1) (x.craddr + 8)
          [field 0 48 x.consumed, field 0 48 x.late, field 0 48 x.dropped] = (u, .done) →
        exec (.streamComplete core n) s = .next (u.setStream core n (some { x with st := 4 }))) ∧
      (∀ off, x.st = 4 → x.craddr ≠ 0 → s.engineWrites core x.cmd x.craddr off →
        ∃ u y, exec (.streamComplete core n) s = .next u ∧ sameMemoryBut off 8 s u ∧
          Mem.readD u.mem off = field 56 8 x.status ||| field 0 48 x.fetched ∧ u.stream core n = some y ∧ y.st = 5))

/-- 02 R41, R43, R44; 18 R380, R381: copies and collective steps. -/
def Obligations.CopiesMove : Prop :=
  ∀ (s : State) (core n : Nat) (x : CopyEng), s.copy core n = some x →
    (∀ soff ooff doff, x.st = 1 → s.cmdHeld x.cmd = false → x.role = 0 → x.off < x.len →
      s.engineReads core x.cmd (x.d 1 + BitVec.ofNat 64 x.off) soff → soff % 64 = 0 →
      (x.op ≠ 0 → s.engineReads core x.cmd (x.d 3 + BitVec.ofNat 64 x.off) ooff ∧ ooff % 64 = 0) →
      s.engineWrites core x.cmd (x.d 2 + BitVec.ofNat 64 x.off) doff →
      ∃ u, exec (.copyLine core n) s = .next u ∧ sameMemoryBut doff 64 s u ∧
        Mem.readN u.mem doff 64 = (if x.op = 0 then Mem.readN s.mem soff 64
          else combineLine (x.d 0) (Mem.readN s.mem soff 64) (Mem.readN s.mem ooff 64) % 2 ^ 512) ∧
        u.copy core n = some { x with off := x.off + 64, bytes := x.bytes + 64 }) ∧
    (x.st = 1 → s.cmdHeld x.cmd = false → x.role = 0 → x.len ≤ x.off → Tab.get 0 (s.core core).pendW (eidCopy n) = 0 →
      exec (.copyLine core n) s = .next (s.setCopy core n (some x.nextStep))) ∧
    (∀ soff v t, x.st = 1 → s.cmdHeld x.cmd = false → x.role = 1 → x.off < x.len → v = Mem.readN s.mem soff 64 →
      s.engineReads core x.cmd (x.d 1 + BitVec.ofNat 64 x.off) soff → soff % 64 = 0 →
      s.hasAsked core (eidCopy n) (s.engKey core x.cmd (x.d 1 + BitVec.ofNat 64 x.off)) = false →
      t = (if x.off = 0 then s.nStep % 65536 else x.tag) →
      let w := { s with nStep := if x.off = 0 then s.nStep + 1 else s.nStep }
      exec (.copyLine core n) s = .next ((w.send (w.packet x.peerOf 8 x.sslot t x.off (splitN 64 v 8))).setCopy core n
        (some { x with off := x.off + 64, bytes := if x.attempt = 0 then x.bytes + 64 else x.bytes,
                       sentAt := if x.off = 0 then s.cycle + 1 else x.sentAt, tag := t }))) ∧
    (x.st = 1 → s.cmdHeld x.cmd = false → x.role = 2 → x.len ≤ x.recv.length * 64 → Tab.get 0 (s.core core).pendW (eidCopy n) = 0 →
      ∃ u, exec (.copyLine core n) s = .next u ∧ sameMemory s u ∧ u.copy core n = some x.nextStep) ∧
    (∀ p rest ooff doff, x.st = 1 → takeKind 8 s.inbox = some (p, rest) → s.findStep 2 p.src p.circ = some (core, n, x) →
      p.addr < x.len → p.addr % 64 = 0 → p.data.length = 8 →
      (x.op ≠ 0 → s.engineReads core x.cmd (x.d 3 + BitVec.ofNat 64 p.addr) ooff ∧ ooff % 64 = 0) →
      s.engineWrites core x.cmd (x.d 2 + BitVec.ofNat 64 p.addr) doff →
      let y := if x.recv.contains p.addr then { x with tag := p.seq }
        else { x with recv := p.addr :: x.recv, bytes := x.bytes + 64, tag := p.seq }
      ∃ u, exec .stepDataReceive s = .next u ∧ sameMemoryBut doff 64 s u ∧
        Mem.readN u.mem doff 64 = (if x.op = 0 then joinN 64 p.data
          else combineLine (x.d 0) (joinN 64 p.data) (Mem.readN s.mem ooff 64)) % 2 ^ 512 ∧ u.inbox = rest ∧
        (y.recv.length * 64 < x.len → u.copy core n = some y) ∧
        (x.len ≤ y.recv.length * 64 → Tab.get 0 (s.core core).pendW (eidCopy n) = 0 → u.copy core n = some y.nextStep)) ∧
    (∀ p rest, takeKind 9 s.inbox = some (p, rest) → s.findStep 1 p.src p.circ = some (core, n, x) → x.sentAt ≠ 0 →
      (x.len ≤ x.off ∨ x.attempt ≠ 0) →
      exec .stepAckReceive s =
        .next (({ s with inbox := rest } : State).setCopy core n (some { x.nextStep with steps := x.steps + 1 }))) ∧
    ((x.st = 1 ∨ x.st = 2) → x.role = 1 → x.sentAt ≠ 0 → x.sentAt + s.stepTo ≤ s.cycle + 1 →
      (x.attempt < x.retry → exec (.stepTimeout core n) s =
        .next (s.setCopy core n (some { x with attempt := x.attempt + 1, off := 0, sentAt := s.cycle + 1 }))) ∧
      (x.retry ≤ x.attempt →
        ∃ u y, exec (.stepTimeout core n) s = .next u ∧ sameMemory s u ∧ u.copy core n = some y ∧ y.st = 3 ∧
          y.status = 4 ∧ y.peer = x.peerOf ∧
          s.hears u x.cmd.by_ { cause := 0x17, tval := BitVec.ofNat 64 (bits x.blkOf 0 56),
                                src := cmdTag core x.cmd.kind x.cmd.num })) ∧
    (3 ≤ x.st → x.cmd.kind = 2 → Tab.get 0 (s.core core).pendW (eidCopy n) = 0 →
      (x.craddr = 0 ∨ x.st = 5 →
        ∃ u e, exec (.copyComplete core n) s = .next u ∧ sameMemory s u ∧ u.copy core n = none ∧
          e ∈ (u.core core).hist ∧ e.kind = 2 ∧ e.num = x.cmd.num ∧ e.ok = (x.status == 1)) ∧
      (∀ u, x.st = 3 → x.craddr ≠ 0 → s.writeRec core (eidCopy n) x.cmd (s.cmdWave x.cmd) (x.craddr + 8)
          [field 0 48 x.steps, field 0 10 (if x.status = 4 then x.peer else 0), 0] = (u, .done) →
        exec (.copyComplete core n) s = .next (u.setCopy core n (some { x with st := 4 }))) ∧
      (∀ off, x.st = 4 → x.craddr ≠ 0 → s.engineWrites core x.cmd x.craddr off →
        ∃ u y, exec (.copyComplete core n) s = .next u ∧ sameMemoryBut off 8 s u ∧
          Mem.readD u.mem off = field 56 8 x.status ||| field 0 48 x.bytes ∧ u.copy core n = some y ∧ y.st = 5))

/-! ## Tasks and loads -/

/-- 03 R56; 04 R67, R79, R85; 18 R393: how descriptors come to a queue. -/
def Obligations.TaskQueuesTake : Prop :=
  ∀ (s t : State) (q a b die : Nat) (desc : List Nat) (ws : List Word),
    let x := s.tq q
    let room := x.spCount = 0 ∧ x.stored.length < 256 ∧ s.taskPart (q / 1024) < 65536
    let p := x.spAt x.spCount
    (s.refuses q ws = true ↔ s.pkg.devState ≠ 6 ∨ x.en = false ∨ bits (ws.headD 0) 32 8 ≠ 0) ∧
    (s.refuses q ws = true → s.enqueue q ws = (s, .refused)) ∧
    (s.refuses q ws = false →
      (room → ∃ u, s.enqueue q ws = (u, .taken) ∧ sameMemory s u ∧ (u.tq q).stored = x.stored ++ [ws] ∧
        (u.tq q).accept = (x.accept + 1) % 65536 ∧ (u.tq q).drops = x.drops ∧ ∀ j, j ≠ q → u.tq j = s.tq j) ∧
      (¬room → x.spCount < x.spCap → s.localDram x.spBase = true → s.mustSnoop (lineOf (offOf p)) true = false →
        ws.length = 8 →
        ∃ u, s.enqueue q ws = (u, .taken) ∧ sameMemoryBut (offOf p) 64 s u ∧ u.homeDs p 8 = ws ∧
          (u.tq q).stored = x.stored ∧ (u.tq q).spCount = x.spCount + 1 ∧ (u.tq q).accept = (x.accept + 1) % 65536) ∧
      (¬room → x.spCap ≤ x.spCount ∨ s.localDram x.spBase = false → s.enqueue q ws = (s, .full))) ∧
    (q < 4096 → desc.length = 8 → s.pkg.powered = true → ws = desc.map (BitVec.ofNat 64) →
      (s.enqueue q ws = (t, .taken) → exec (.hostAppend q desc) s = .next t) ∧
      ((s.enqueue q ws).2 = .refused ∨ (s.enqueue q ws).2 = .full → exec (.hostAppend q desc) s =
        .next (s.setTq q { x with drops := satAdd x.drops 1 0xFFFF }))) ∧
    (s.issues [a, b] [(5, 0), (4, 1), (6, 1)] = true →
      (bits (s.rg b) 12 52 ≠ 0 → exec (.tqpush a b) s = .next (s.raise 0x11 (descTval 0x04 0))) ∧
      (bits (s.rg b) 12 52 = 0 → q = bits (s.rg b) 0 12 →
        (s.me.asidN ≠ bits x.qcfg 16 16 → exec (.tqpush a b) s = .next (s.raise 0x07 (s.rg a))) ∧
        (s.me.asidN = bits x.qcfg 16 16 → s.allPerformed s.cur true = true → s.reads64 (s.rg a) ws →
          (s.enqueue q ws = (t, .taken) → exec (.tqpush a b) s = .next t.advance) ∧
          ((s.enqueue q ws).2 = .refused ∨ (s.enqueue q ws).2 = .full → exec (.tqpush a b) s =
            .next (s.setTq q { x with drops := satAdd x.drops 1 0xFFFF }).advance)))) ∧
    (∀ r, (s.die die).relBuf = (q, ws) :: r →
      (s.enqueue q ws = (t, .taken) →
        exec (.releaseBufferAppend die) s = .next (t.setDie die { t.die die with relBuf := r })) ∧
      ((s.enqueue q ws).2 = .refused →
        ∃ u, exec (.releaseBufferAppend die) s = .next u ∧ sameMemory s u ∧ (u.die die).relBuf = r ∧
          u.tq q = { x with drops := satAdd x.drops 1 0xFFFF }) ∧
      ((s.enqueue q ws).2 = .full → exec (.releaseBufferAppend die) s = .next s)) ∧
    (x.spCount ≠ 0 → x.stored.length < 256 → s.taskPart (q / 1024) < 65536 →
      s.mustSnoop (lineOf (offOf (x.spAt 0))) false = false →
      ∃ u, exec (.spillRefill q) s = .next u ∧ sameMemory s u ∧ (u.tq q).stored = x.stored ++ [s.homeDs (x.spAt 0) 8] ∧
        (u.tq q).spCount = x.spCount - 1 ∧ ∀ j, j ≠ q → u.tq j = s.tq j) ∧
    (x.stopped = true → ∃ u, exec (.qcfgResume q) s = .next u ∧ sameMemory s u ∧ (u.tq q).stopped = false ∧
      (u.tq q).stored = x.stored) ∧
    (x.stopped = false → exec (.qcfgResume q) s = .next s)

/-- 04 R76 to R82: the pick, the start and the completion of a task; 05 R99. -/
def Obligations.TasksRunAndComplete : Prop :=
  ∀ (s : State) (die q task : Nat),
    (s.mayPick die = true →
      let s0 := s.sweep.retireAll
      let s1 := ((s0.setDie die { s0.die die with pickAt := s0.net + 1 }).dropCompaction).askHeads die
      let s2 := (s1.placeFrom die (s1.waiting die)).1
      (∀ l x r pos, s1.waiting die = (l, x) :: r → s1.blockPrio ≤ x.prio + 1 →
        s1.placesFor 4096 l (bits x.asid 0 16) x.mustdie x.wants = some pos →
        (x.st = .pending → s1.circsFree x.bord = true →
          ∃ u y, exec (.pick die) s = .next u ∧ sameMemory s1 u ∧ u.load l = some y ∧ y.st = .configured ∧
            y.gcycle = s1.cycle) ∧
        (x.st = .restoring → (x.snaps.find? (fun z => z.wave == x.top)).isSome = true →
          ∃ u y, exec (.pick die) s = .next u ∧ sameMemory s1 u ∧ u.load l = some y ∧ y.st = .placed)) ∧
      (∀ ws r s3, (s1.placeFrom die (s1.waiting die)).2 = false → s2.candidates die = q :: r → s2.headOf q = some ws →
        (∀ v, Rd.settle (s2.schedReader q) (s2.checkTask q (s2.schedReader q) ws) = (s3, .ok (none, v)) →
          (taskKind ws = 1 → s2.blockPrio ≤ s2.effPrio q + 1) →
          (taskKind ws = 0 → nthrOf ws ≤ s3.freeThreads (q / 1024) (s2.schedReader q).asid) →
          ∃ u y, exec (.pick die) s = .next u ∧ sameMemory s3 u ∧ u.task s3.nTask = some y ∧ y.q = q ∧ y.desc = ws ∧
            y.asid = (s3.tq q).asid ∧ (u.tq q).depth = (s3.tq q).depth - 1 ∧
            (u.tq q).started = ((s3.tq q).started + 1) % 65536 ∧
            (∀ k, taskKind ws = 0 → nthrOf ws = 1 → s3.pickSlot (q / 1024) (bits (s3.tq q).asid 0 16) = some k →
              (u.slot k).st = .ready ∧ (u.slot k).pc = entryOf ws &&& ~~~3 ∧ (u.slot k).mode = 0 ∧
              (u.slot k).reg 1 = ws.getD 3 0 ∧ (u.slot k).reg 2 = 0 ∧ (u.slot k).reg 3 = 1 ∧ (u.slot k).task = s2.nTask)) ∧
        (∀ h v pos, Rd.settle (s2.schedReader q) (s2.checkTask q (s2.schedReader q) ws) = (s3, .ok (some h, v)) →
          (taskKind ws = 1 → s2.blockPrio ≤ s2.effPrio q + 1) →
          let x := h.load (s3.tq q).asid (s3.tq q).qptb (cgptrOf ws) (entryOf ws) (ws.getD 3 0) (nthrOf ws) false none
            s2.nTask q (s2.effPrio q) s3.cycle
          s3.placesFor q 0 (s2.schedReader q).asid x.mustdie x.wants = some pos →
          badConfig 0 (x.cuts.zip x.cfg) = none →
          ∃ u y, exec (.pick die) s = .next u ∧ sameMemory s3 u ∧ u.load s3.newId = some y ∧ y.st = .configured ∧
            y.task = s2.nTask ∧ y.q = q ∧ (u.tq q).started = ((s3.tq q).started + 1) % 65536))) ∧
    (∀ x : Task, s.task task = some x → s.running = true →
      let r : Reader := { s.schedReader x.q with asid := bits x.asid 0 16, ptb := x.ptb, eid := 2048 + task }
      (x.phase = 0 → s.taskQuiet task x = true →
        (x.fault = false → exec (.taskComplete task) s = .next (s.setTask task (some { x with phase := 1 }))) ∧
        (x.fault = true → exec (.taskComplete task) s = .next (s.taskEnds task x))) ∧
      (Tab.get 0 (s.core r.core).pendW r.eid = 0 →
        (x.phase = 1 → sigEn x.desc = false →
          exec (.taskComplete task) s = .next (s.setTask task (some { x with phase := 2 }))) ∧
        (∀ pa mt, x.phase = 1 → sigEn x.desc = true → s.rdXlate r (sigAddr x.desc) 1 = (s, .ok (pa, mt)) →
          (∀ off, s.routeOf pa mt = some (.dram off) → off = offOf pa → s.stackRefused r.asid pa = false →
            s.mustSnoop (lineOf off) true = false →
            ∃ u, exec (.taskComplete task) s = .next u ∧ sameMemoryBut off 8 s u ∧
              Mem.readD u.mem off = x.desc.getD 5 0 ∧ u.task task = some { x with phase := 2 }) ∧
          (∀ h, s.routeOf pa mt = some (.host h) ∨ (s.routeOf pa mt = some (.remote h) ∧ s.reachable (h / 2 ^ 46 % 1024) = true) →
            ∃ u, exec (.taskComplete task) s = .next u ∧ sameMemory s u ∧ u.task task = some { x with phase := 2 } ∧
              Tab.get 0 (u.core r.core).pendW r.eid = 1)) ∧
        (x.phase = 2 → (s.die r.die).relBuf.length < 64 →
          (∀ t l, x.succ = none →
            Rd.settle r (s.rdTable r (succPtr x.desc + 16 * BitVec.ofNat 64 x.entries.1) x.entries.2) = (t, .ok l) →
            exec (.taskComplete task) s =
              .next (t.setTask task (some { x with succ := some l, first := x.entries.1, next := x.entries.1 }))) ∧
          (∀ l, x.succ = some l → l[x.next - x.first]? = none →
            exec (.taskComplete task) s = .next (s.setTask task (some { x with phase := 3 }))) ∧
          (∀ l e, x.succ = some l → l[x.next - x.first]? = some e →
            (succOk e = false → exec (.taskComplete task) s =
              .next (s.taskFails task x 6 (succPtr x.desc + 16 * BitVec.ofNat 64 x.next))) ∧
            (∀ t v, succOk e = true → Rd.settle r (s.releaseOne r task x e) = (t, .ok v) →
              exec (.taskComplete task) s =
                .next (t.setTask task (some { x with next := x.next + 1, dec := 0, old := 0 }))))) ∧
        (x.phase ≠ 0 → x.phase ≠ 1 → x.phase ≠ 2 →
          ∃ u, exec (.taskComplete task) s = .next u ∧ sameMemory s u ∧ u.task task = none ∧
            (u.tq x.q).done = ((s.tq x.q).done + 1) % 65536)) ∧
      (∀ va pa mt off, x.dec = 0 → s.rdXlate r va 2 = (s, .ok (pa, mt)) → s.routeOf pa mt = some (.dram off) →
        s.stackRefused r.asid pa = false → s.poisoned pa = false → s.mustSnoop (lineOf off) true = false →
        let old := s.homeD pa
        ∃ t, s.decrement r task x va = (t, .ok old) ∧ sameMemoryBut (offOf pa) 8 s t ∧
          t.homeD pa = (if bits old 32 8 = 0 then old else old - 0x100000000)))

/-- 18 R387 to R391; 08 R180; 05 R104: a load from place to release. -/
def Obligations.LoadsStartAndEnd : Prop :=
  ∀ (s : State) (d a b l : Nat),
    (∀ (t : State), s.issues [d, a] [(5, 0), (4, 1), (6, 1)] = true →
      (∀ h : Header, Rd.settle s.placeReader (s.rdHeader s.placeReader (s.rg a)) = (t, .ok h) →
        (h.cuts.any (fun c => c.nthr != 0 && c.entry == 0) = true →
          exec (.place d a) s = .next (t.raise 0x11 (descTval 0x11 (s.rg a).toNat))) ∧
        (h.cuts.any (fun c => c.nthr != 0 && c.entry == 0) = false →
          (∀ v, badConfig 0 (h.cuts.zip h.cfg) = some v → exec (.place d a) s = .next (t.raise 0x10 v)) ∧
          (badConfig 0 (h.cuts.zip h.cfg) = none →
            ∃ u x, exec (.place d a) s = .next u ∧ t.completes u d (BitVec.ofNat 64 t.newId) ∧ sameMemory t u ∧
              u.load t.newId = some x ∧ x.st = .pending ∧ x.byPlace = true ∧ x.owner = some t.cur ∧ x.asid = t.me.asid ∧
              x.cgptr = s.rg a ∧ ∀ j, j ≠ t.newId → u.load j = t.load j))) ∧
      (∀ c va, Rd.settle s.placeReader (s.rdHeader s.placeReader (s.rg a)) = (t, .bad c va) →
        exec (.place d a) s = .next (t.raise 0x11 (descTval (0x10 + c) va.toNat)))) ∧
    (s.issues [a, b] [(5, 0)] = true → l = bits (s.rg a) 48 16 →
      (s.load l = none → exec (.sect a b) s = .next (s.raise 0x11 (descTval 0x0C l))) ∧
      (∀ x n sec, s.load l = some x → sec = bits (s.rg a) 0 8 → n = bits (s.rg b) 0 32 →
        (bits x.asid 0 16 ≠ s.me.asidN → exec (.sect a b) s = .next (s.raise 0x07 (s.rg a))) ∧
        (bits x.asid 0 16 = s.me.asidN →
          (sec = 0 ∨ n = 0 ∨ x.st ∈ [.finished, .killing, .killed] → exec (.sect a b) s = .next s.advance) ∧
          (sec ≠ 0 → n ≠ 0 →
            (x.st = .running ∨ x.st = .draining →
              ∃ u, exec (.sect a b) s = .next u ∧ s.completes u 0 0 ∧ sameMemory s u ∧
                ∀ k, (x.elems.filter (fun e => e.2.2 == k)).length = 1 → (s.tileOr k).kind = 1 → (s.tileOr k).sectId = sec →
                  (u.tile k).mat.remain = satAdd (s.tileOr k).mat.remain n (2 ^ 32 - 1)) ∧
            (x.st ∈ [.pending, .configured, .saved, .restoring, .placed] → exec (.sect a b) s =
              .next (s.setLoad l { x with arms := x.arms ++ [(sec, n)] }).advance))))) ∧
    (s.issues [d] [] = true →
      (s.isProtFeed s.cur = false → exec (.mark d) s = .next (s.wr d 0).advance) ∧
      (∀ x, s.isProtFeed s.cur = true → s.load s.me.load = some x → s.me.marks ≤ x.wave + 1 →
        (∀ o ∈ s.me.outs, o.isPf = true) → s.me.muls = [] →
          ∃ u, exec (.mark d) s = .next u ∧ s.completes u d 0 ∧ sameMemory s u ∧ u.me.marks = s.me.marks + 1)) ∧
    (s.issues [a] [(5, 0)] = true → l = bits (s.rg a) 0 16 →
      (s.load l = none → s.me.wait ≠ .cut 0 →
        exec (.cutwait a) s = .next (s.raise 0x11 (descTval 0x0C l))) ∧
      (s.load l = none → exec (.release a) s = .next (s.raise 0x11 (descTval 0x0C l))) ∧
      (∀ x, s.load l = some x →
        (x.st = .finished ∨ x.st = .killed ∨ s.me.wait = .cut 0 →
          ∃ u, exec (.cutwait a) s = .next u ∧ s.completes u 0 0 ∧ onlySlot s.cur s u ∧ u.me.acq = s.clock ∧
            u.me.wait = .none ∧ u.me.st = .ready) ∧
        (x.st ≠ .finished → x.st ≠ .killed → s.me.wait ≠ .cut 0 →
          ∃ u, exec (.cutwait a) s = .next u ∧ onlySlot s.cur s u ∧ u.pc = s.pc ∧ (∀ n, u.rg n = s.rg n) ∧
            u.me.st = .blockedWait ∧ u.me.wait = .cut l) ∧
        (x.byPlace = false ∨ x.owner ≠ some s.cur →
          exec (.release a) s = .next (s.raise 0x11 (descTval 0x0C l))) ∧
        (x.byPlace = true → x.owner = some s.cur →
          (x.st = .pending ∨ x.st = .finished ∨ x.st = .killed →
            ∃ u, exec (.release a) s = .next u ∧ s.completes u 0 0 ∧ sameMemory s u ∧ u.load l = none) ∧
          (x.st ∈ [.configured, .running, .draining, .placed, .killing] →
            ∃ u y, exec (.release a) s = .next u ∧ s.completes u 0 0 ∧ sameMemory s u ∧ u.load l = some y ∧ y.st = .killing) ∧
          (x.st = .saved ∨ x.st = .restoring →
            ∃ u y, exec (.release a) s = .next u ∧ s.completes u 0 0 ∧ sameMemory s u ∧ u.load l = some y ∧
              y.st = .killed)))) ∧
    (∀ x, s.load l = some x → s.running = true →
      (x.st = .configured → s.awaitsConfig l = false →
        ∃ u y, exec (.startToken l) s = .next u ∧ sameMemory s u ∧ u.load l = some y ∧ y.st = .running ∧ y.arms = [] ∧
          ∀ e ∈ x.elems, (u.tile e.2.2).started = true) ∧
      (s.finishes l x = true →
        ∃ u y, exec (.loadFinish l) s = .next u ∧ sameMemory s u ∧ u.load l = some y ∧ y.st = .finished) ∧
      (x.st = .finished → x.byPlace = false →
        (s.task x.task = none ∨ ∃ t, s.task x.task = some t ∧ (resAddr t.desc = 0 ∨ x.result = none) ∧
          Tab.get 0 (s.core (match x.cuts.head? with | some c => 64 * c.die | none => (s.schedReader x.q).core)).pendW
            (4096 + x.task) = 0) →
        ∃ u, exec (.loadFinish l) s = .next u ∧ sameMemory s u ∧ u.load l = none)) ∧
    (∀ x, l < 65536 → s.load l = some x → x.st = .pending ∨ x.st = .restoring → x.told = false →
      x.pendAt + 2000 * max 1 (if x.byPlace then x.pltime else (s.die (x.q / 1024)).plto) ≤ s.cycle →
      let m := s.blockMask (bits x.asid 0 16) x.mustdie x.wants
      let t := s.setLoad l { x with told := true }
      (x.byPlace = true → ∀ k, x.owner = some k → exec (.placementTimeout l) s =
        .next (t.pend k 0x11 (descTval (0x20 + m) x.cgptr.toNat) (loadSrc l))) ∧
      (x.byPlace = false → exec (.placementTimeout l) s = .next (t.faultEntry (x.q / 1024) 4 (bits x.asid 0 16) 0 0 0
        [0, x.cgptr, 0, field 16 3 m ||| field 0 12 x.q, 0, 0, 0]))) ∧
    (∀ q ws t h, q < 4096 → (s.tq q).pend = true → (s.tq q).told = false →
      (s.tq q).pendAt + 2000 * max 1 (s.die (q / 1024)).plto ≤ s.cycle → s.headOf q = some ws →
      Rd.settle (s.schedReader q) (s.rdHeader (s.schedReader q) (cgptrOf ws)) = (t, .ok h) →
      ∃ u, exec (.placementTimeout (65536 + q)) s = .next u ∧ sameMemory t u ∧ (u.tq q).told = true ∧
        (u.die (q / 1024)).fqSeq = ((t.die (q / 1024)).fqSeq + 1) % 2 ^ 32)

/-- 13 R271, R274, R277, R278, R280, R282; 12 R268; 18 R379. -/
def Obligations.LoadsDrainAndCommit : Prop :=
  ∀ (s : State) (l die core n : Nat) (x : Load),
    (die < 4 → s.noLoad l = true →
      ∀ i ∈ [Instr.loadctlPreempt die l, .loadctlRestore die l, .loadctlKill die l],
        exec i s = .next (s.loadStat die l 1 0 false)) ∧
    (s.load l = some x →
      (die < 4 → s.noLoad l = false →
        (x.redrain = true ∨ (x.st ≠ .running ∧ x.st ≠ .configured) →
          exec (.loadctlPreempt die l) s = .next (s.loadStat die l 2 x.st.code false)) ∧
        (x.redrain = false → x.st = .running ∨ x.st = .configured →
          (s.poolFits x = false → exec (.loadctlPreempt die l) s = .next (s.loadStat die l 2 x.st.code true)) ∧
          (s.poolFits x = true → x.st = .configured ∨ s.tested' l = true →
            exec (.loadctlPreempt die l) s = .next (((s.reserve x.image x.die0).setLoad l { s.withImage x with
              redrain := true, why := 1, cmdDie := some die }).loadStat die l 0 1 false)) ∧
          (s.poolFits x = true → x.st = .running → s.tested' l = false →
            ∃ u y, exec (.loadctlPreempt die l) s = .next u ∧ sameMemory s u ∧ u.load l = some y ∧ y.st = .draining ∧
              (u.die die).loadstat = field 48 16 l ||| field 4 1 0 ||| field 2 2 0 ||| field 0 2 1)) ∧
        (x.st ≠ .saved ∨ x.why ≠ 1 →
          exec (.loadctlRestore die l) s = .next (s.loadStat die l 2 x.st.code false)) ∧
        (x.st = .saved → x.why = 1 →
          ∃ u y, exec (.loadctlRestore die l) s = .next u ∧ sameMemory s u ∧ u.load l = some y ∧ y.st = .restoring ∧
            y.snaps = x.snaps ∧
            (u.die die).loadstat = field 48 16 l ||| field 4 1 0 ||| field 2 2 0 ||| field 0 2 2) ∧
        (x.st = .killing → exec (.loadctlKill die l) s = .next (s.loadStat die l 2 3 false)) ∧
        (x.st ≠ .killing →
          ∃ u y, exec (.loadctlKill die l) s = .next u ∧ sameMemory s u ∧ u.load l = some y ∧
            y.st = (if x.st.holds then .killing else .killed) ∧
            (u.die die).loadstat = field 48 16 l ||| field 4 1 0 ||| field 2 2 0 ||| field 0 2 3)) ∧
      (∀ z, x.st = .draining → s.tested' l = false → (s.stopFeeds l).load l = some z →
        (s.stopFeeds l).drained' l z = true → z.quiet = true → z.count = 0 →
        (∀ e ∈ (s.stopFeeds l).blockLines l z, (s.stopFeeds l).mustSnoop e.1 true = false) →
        ∃ u y, exec (.drainSave l) s = .next u ∧ u.load l = some y ∧ y.st = (if z.why = 3 then .restoring else .saved) ∧
          (∀ k, z.hasTile k = true → u.tile k = Tile.empty) ∧
          (∀ a, (∀ e ∈ (s.stopFeeds l).blockLines l z, ∀ o ∈ e.2, a ≠ e.1 * 64 + o.1) →
            Mem.read u.mem a = Mem.read s.mem a)) ∧
      (x.st = .placed → s.running = true → s.awaitsConfig l = false →
        ∃ u y, exec (.resumeToken l) s = .next u ∧ sameMemory s u ∧ u.load l = some y ∧ y.st = .running ∧ y.img = []) ∧
      (s.loads = [(l, some x)] → s.running = true → s.sweepAt ≠ s.fab / 64 + 1 →
        (x.st ≠ .killing → x.st ≠ .killed → x.byPlace = false ∨ x.owner ≠ none →
          exec .occupancySweep s = .next (State.setLoad { s with sweepAt := s.fab / 64 + 1 } l
            { x with quiet := x.zero && (s.items l x == 0) && x.count == 0, zero := s.items l x == 0, count := 0 })) ∧
        (x.st = .killing → s.tested' l = false → x.zero = true → s.items l x = 0 → x.count = 0 → x.byPlace = true →
          x.retire = false →
          ∃ u y, exec .occupancySweep s = .next u ∧ sameMemory s u ∧ u.load l = some y ∧ y.st = .killed)) ∧
      (x.prot = true → x.st = .running ∨ x.st = .draining → s.testing l = false →
        (s.commitReady l (x.wave + 1) x = true → s.snoopList ((s.commitLines l (x.wave + 1)).map (fun p => p.line)) true = [] →
          (∀ p ∈ s.commitLines l (x.wave + 1), ∀ e ∈ p.bytes, e.1 < 64) →
          ∃ u y, exec (.segmentCommit l) s = .next u ∧ u.load l = some y ∧ y.wave = x.wave + 1 ∧
            (∀ a, (∀ p ∈ s.commitLines l (x.wave + 1), p.line ≠ a / 64) → Mem.read u.mem a = Mem.read s.mem a) ∧
            (∀ p o k v, s.commitLines l (x.wave + 1) = [p] → p.bytes = lineBytes o v k → o + k ≤ 64 → p.line * 64 < 2 ^ 58 →
              ∀ i, i < k → Mem.read u.mem (p.line * 64 + o + i) = BitVec.ofNat 8 (v / 256 ^ i))) ∧
        (s.commitReady l (x.wave + 1) x = false → s.lastReady l x = true →
          s.snoopList ((s.commitLines l (s.clock + (x.wave + 1))).map (fun p => p.line)) true = [] →
          ∃ u y, exec (.segmentCommit l) s = .next u ∧ u.load l = some y ∧ y.wave = x.wave + 1 ∧
            ∀ p ∈ u.prov, p.load ≠ l))) ∧
    exec .occupancySweep s = .next s.sweep ∧ (s.running = false ∨ s.sweepAt = s.fab / 64 + 1 → s.sweep = s) ∧
    (∀ (y : Stream) (c : Cut), s.stream core n = some y → qidCfg y.qid = true → y.st = 1 → y.total ≤ y.pos →
      s.running = true → s.load (qidLoad y.qid) = some x → x.st ∈ [.running, .configured, .placed, .finished] → y.status = 0 →
      x.cuts[qidCut y.qid]? = some c →
      (qidVc y.qid = 0 ∨ x.portUsed (qidCut y.qid) (qidFac y.qid) (qidPort y.qid) = true) →
      let r := runCfg s.fab c.uses c.lsNeed (decide (x.st ≠ .configured))
        (c.elems.map (fun e => (e, s.tileOr (c.tileAt e)))) y.config
      (∀ ts, r = .inr ts →
        ∃ u z, exec (.configStreamApply core n) s = .next u ∧ sameMemory s u ∧ u.stream core n = some z ∧
          (qidVc y.qid = 0 → z.status = 1) ∧ (qidVc y.qid ≠ 0 → z.status = 1 ∨ z.status = 6) ∧
          z.config = [] ∧ ∀ k, u.tile k = (s.putCut c ts).tile k) ∧
      (∀ e, r = .inl e →
        ∃ u z, exec (.configStreamApply core n) s = .next u ∧ sameMemory s u ∧ u.stream core n = some z ∧ z.status = 5 ∧
          (∀ k, u.tile k = s.tile k) ∧
          s.hears u y.cmd.by_ { cause := 0x10, tval := cutTval (qidCut y.qid) e, src := cmdTag core y.cmd.kind y.cmd.num }))

/-! ## The fabric -/

/-- 08 R166 to R168, R163; 12 R250: what a switch does with a word. -/
def Obligations.WordsRoute : Prop :=
  ∀ (s : State) (key p vc l : Nat) (x : Load) (h : ChTok) (rest : List ChTok),
    let s0 := if p = 4 then s.pull l key vc else s
    let t := s0.tileOr key
    let gone := s0.setTile key (t.dropHead s0.fab p vc)
    s.liveTile key = some (l, x) → p ≤ 4 → vc < 32 → t.ch p vc = h :: rest → h.at_ ≤ s0.fab →
    (h.met = true → exec (.switchRoute key p vc) s = .next (s0.forwardHead l key p vc)) ∧
    (h.met = false → h.w.badPar = true → exec (.switchRoute key p vc) s = .next (gone.tileCheck key 0 0 0xFF 3 true false 0)) ∧
    (h.met = false → h.w.badPar = false →
      (∀ r cut e, t.dropReason p h.w = some r → x.elemOn key = some (cut, e) →
        exec (.switchRoute key p vc) s =
          .next (gone.reportDrop l (tileSrc l key) 0x18 (tileDie key) (mismatchTval l cut e key p r h.w)) ∧
        (∀ k y, s0.load l = some y → y.owner = some k → y.reports.find? (fun q => q.src == tileSrc l key) = none →
          ∃ u, exec (.switchRoute key p vc) s = .next u ∧ sameMemory s0 u ∧ (u.tile key).ch p vc = rest ∧
            s0.hears u k { cause := 0x18, tval := withDrops 0x18 (mismatchTval l cut e key p r h.w) 1, src := tileSrc l key })) ∧
      (∀ v, t.dropReason p h.w = none → t.routeOf p h.w.route = some v →
        (v.testBit 22 = false → fld v 23 5 = 0 → exec (.switchRoute key p vc) s = .next gone) ∧
        (v.testBit 22 = true → fld v 23 5 = 0 →
          ∃ u, exec (.switchRoute key p vc) s = .next u ∧ sameMemory s0 u ∧ onlyTile key s0 u ∧
            (u.tile key).ch p vc = { h with met := true, local_ := true, fwd := 0 } :: rest) ∧
        (fld v 23 5 ≠ 0 → exec (.switchRoute key p vc) s = .next ((s0.setTile key (t.setCh p vc
            ({ h with met := true, local_ := v.testBit 22, fwd := fld v 23 5 } :: rest))).forwardHead l key p vc)) ∧
        (∀ y q n, fld v 23 5 = 2 ^ q → q < 4 → s0.load l = some y → neighbour key q = some n → n ≠ key →
          y.sameCut key n = true → t.holdsFor q h.w.vc = false → t.linkFree q s0.fab = true →
          (s0.tile n).hasCredit s0.fab ((q + 2) % 4) h.w.vc = true →
          ∃ u e, exec (.switchRoute key p vc) s = .next u ∧ sameMemory s0 u ∧
            (u.tile key).ch p vc = (if v.testBit 22 then { h with met := true, local_ := true, fwd := 0 } :: rest else rest) ∧
            (u.tile n).ch ((q + 2) % 4) h.w.vc = (s0.tileOr n).ch ((q + 2) % 4) h.w.vc ++ [e] ∧ e.w = h.w ∧
            e.at_ = s0.fab + 1 ∧ e.met = false)))

/-- 08 R174 to R177, R184, R185, R188 to R190; 12 R250, R258; 20 R414; 21 R436; 13 R275, R276. -/
def Obligations.SlotsFire : Prop :=
  ∀ (s : State) (key n l : Nat) (x : Load), s.liveTile key = some (l, x) →
    let t := s.tile key
    let s0 := s.sendHeld l key
    (n < 16 → t.firesNow = true → Tab.get 0 t.pipeAt (n % 4) ≠ s.fab + 1 → t.startAt ≤ s.fab →
      (t.pipeOrder (n % 4)).find? (fun j => t.fireable s.fab j) = some n →
      (t.firing s.fab n = .misalign → exec (.fire key n) s = .next (s.misalign l key n)) ∧
      (t.firing s.fab n = .poison → exec (.fire key n) s = .next (s.tileCheck key n 0 (t.ctx n).op 5 false false 0)) ∧
      (∀ f, t.firing s.fab n = .fire f →
        let bad := (f.take.filterMap (fun i => t.head s.fab n i)).find? (fun h => h.1.kind == 0 && h.1.badResid)
        let data := t.dataFiring s.fab n f.take = true ∧ f.toks.all (fun m => m.kind != 6) = true
        (∀ h, bad = some h → exec (.fire key n) s = .next (s.tileCheck key n h.1.badLane (t.ctx n).op 0 true false 0)) ∧
        (∀ cut e, bad = none → x.elemOn key = some (cut, e) →
          (∀ k lane, data → s.armedElem l cut e n 0 = some (k, lane) → exec (.fire key n) s = .next ((s.fired k).tileCheck key n
            (if (t.ctx n).w = 64 then lane / 2 * 2 else lane) (t.ctx n).op (opSrc (t.ctx n).op) true true 0)) ∧
          ((data → s.armedElem l cut e n 0 = none) →
            ∃ u fl, exec (.fire key n) s = .next u ∧ sameMemory s u ∧ ((u.tile key).slot n).flight = [fl] ∧
              fl.due = s.fab + t.slotLatency false n ∧ fl.toks = f.toks.map (t.outTok n) ∧
              ((u.tile key).slot n).st = f.st ∧ ((u.tile key).slot n).fired = (t.slot n).fired + 1 ∧
              Tab.get 0 (u.tile key).pipeAt (n % 4) = s.fab + 1)))) ∧
    (∀ f r o rest, (t.slot n).flight = f :: r → f.due ≤ s.fab → f.toks = o :: rest →
      let t1 := t.lsPut s.fab f.ls o.w
      exec (.resultEntersOutputRegister key n) s = .next ((s.setTile key ((t1.setSlot n { t.slot n with
        flight := r, out := t.nextPath n o :: rest, outAt := s.fab }).tidyOut s.fab n)).sendOut l key n) ∧
      (o.ports = 0 → o.paths = [] → o.takes ≠ [] →
        ∃ u, exec (.resultEntersOutputRegister key n) s = .next u ∧ sameMemory s u ∧
          ((u.tile key).slot n).out = o :: rest ∧ ((u.tile key).slot n).flight = r ∧
          (f.ls < 64 → o.w.kind = 0 → Tab.get Row.zero (u.tile key).ls f.ls =
            { v := o.w.pay, kind := 0, level := 0, pois := o.w.poisoned }))) ∧
    (let y := t.slot n
     let c := t.ctx n
     let j := y.st.j
     n < 16 → t.firesNow = true → t.pending n = true → y.free = true → t.owes n = false →
      (j < y.st.n → (∀ cut e, x.elemOn key = some (cut, e) → s.armedElem l cut e n 0 = none) →
        (t.outPorts n ≠ 0 ∨ t.namers n ≠ []) →
        ∃ u, exec (.csrcEmit key n) s = .next u ∧ sameMemory s u ∧ ((u.tile key).slot n).out = [t.outTok n (Made.data (c.pack
            ((List.range c.n).map (fun i =>
              ((sintOf c.imm 32 + ((j * c.n + i : Nat) : Int)) % (2 ^ c.w : Nat)).toNat))))] ∧
          ((u.tile key).slot n).st = if j + 1 < y.st.n ∨ c.xop % 8 ≠ 0 then { y.st with j := j + 1 } else OpSt.zero) ∧
      (∀ cut e k lane, j < y.st.n → x.elemOn key = some (cut, e) → s.armedElem l cut e n 0 = some (k, lane) →
        exec (.csrcEmit key n) s = .next ((s.fired k).tileCheck key n lane c.op (opSrc c.op) true true 0)) ∧
      (y.st.n ≤ j → c.xop % 8 ≠ 0 → (t.outPorts n ≠ 0 ∨ t.namers n ≠ []) →
        ∃ u, exec (.csrcEmit key n) s = .next u ∧ sameMemory s u ∧
          ((u.tile key).slot n).out = [t.outTok n (Made.clasp (c.xop % 8))] ∧ ((u.tile key).slot n).st = OpSt.zero) ∧
      (y.st.n ≤ j → c.xop % 8 = 0 →
        exec (.csrcEmit key n) s = .next (s.setTile key (t.setSlot n { y with st := OpSt.zero })))) ∧
    (t.kind = 0 → t.started = true → t.aligned = false → t.field 0 % 2 = 1 → t.halted = false → t.tickAt ≠ s.fab + 1 →
      t.startAt ≤ s.fab →
      let g := s.timedGroup x key
      let s1 := g.foldl (fun s k => s.timedClasp l k) s
      let t1 := { s1.tile key with tickAt := s1.fab + 1 }
      (g.any (fun k => s1.timedBlocked l k) = true →
        ∃ u, exec (.timedTick key) s = .next u ∧ sameMemory s1 u ∧ ∀ k ∈ g, (s.tile k).tickAt ≠ s.fab + 1 →
          (u.tile k).frozen = satAdd (s.tile k).frozen 1 (2 ^ 48 - 1) ∧ (u.tile k).tick = (s.tile k).tick) ∧
      (g = [key] → s1.timedBlocked l key = false →
        (t1.tick = 0 ∧ (t1.misEnd = true ∨ t1.uneven s1.fab = true) →
          ∃ u, exec (.timedTick key) s = .next u ∧ sameMemory s1 u ∧ (u.tile key).halted = true) ∧
        (¬(t1.tick = 0 ∧ (t1.misEnd = true ∨ t1.uneven s1.fab = true)) → t1.landing = [] →
          (t1.dueOps = [] →
            ∃ u, exec (.timedTick key) s = .next u ∧ sameMemory s1 u ∧ (u.tile key).frozen = t.frozen ∧
              (u.tile key).tick = if t.tick + 1 ≥ t.field 3 then 0 else t.tick + 1) ∧
          (∀ m y cut e, t1.dueOps = [m] → s1.tileLoad key = some (l, y) → y.elemOn key = some (cut, e) →
            ((t1.readEntry s1.fab m).1.filterMap id).all (fun w => w.kind == 0 && !w.poisoned && !w.badResid) = true →
            s1.armedElem l cut e m 0 = none →
            let p := fun (i : Nat) => match (t1.readEntry s1.fab m).1.getD i none with | some w => w.pay.toNat | none => 0
            ∃ u a b, exec (.timedTick key) s = .next u ∧ sameMemory s1 u ∧
              (u.tile key).tick = (if t.tick + 1 ≥ t.field 3 then 0 else t.tick + 1) ∧
              (u.tile key).flights = a ++ [(t.tick + t.slotLatency false m, b,
                { w := mkWord (BitVec.ofNat 256 ((t.ctx m).timed (p 0) (p 1) (p 2) ((t.usedIns false m).getD 1 false)))
                    (t.outVc m) 0 0 (t.outRoute m), ports := t.outPorts m, takes := [], paths := [] })])))) ∧
    (let t := s0.tile key
     let c := t.field 0
     t.started = true → t.aligned = false → t.startAt ≤ s0.fab →
      (∀ w, fld c 8 3 ≠ 7 → t.headOf s0.fab (fld c 8 3) (fld c 11 5) = some w → w.kind = 2 → t.quiet s0.fab = true →
        t.awaited.all (fun c => t.headKind s0.fab c == some 2) = true →
        (t.isTimed = true → t.allPops = [] ∨ t.swapsNow s0.fab = true) →
        ∃ u, exec (.bankSwap key) s = .next u ∧ sameMemory s0 u ∧ (u.tile key).bank = !t.bank ∧ (u.tile key).slots = [] ∧
          (u.tile key).startAt = s0.fab + 1 ∧ (fld c 16 5 ≠ 0 → (u.tile key).sendq =
            [(s0.fab + 1, mkWord 0 (fld c 21 5) 2 w.level (t.field 6 % 512), fld c 16 5, 0)])) ∧
      (fld c 8 3 = 7 →
        let cs := (t.chans.map (fun e => (e.1 / 32, e.1 % 32))).filter (fun c =>
          t.headKind s0.fab c == some 2 && (!t.pops c || t.swapsNow s0.fab))
        (cs = [] → exec (.bankSwap key) s = .next s0) ∧
        (cs ≠ [] → exec (.bankSwap key) s = .next (s0.setTile key (cs.foldl (fun t c => t.takeHead s0.fab c.1 c.2) t))))) ∧
    (let t := s0.tileOr key
     t.started = true → t.saved = false → t.startAt ≤ s0.fab →
      (t.aligned = false →
        let v := t.dropStale s0.fab
        (s0.alignKind l x v = none → exec (.elementAlign key) s = .next (s0.setTile key v)) ∧
        (∀ k, s0.alignKind l x v = some k → ((v.align s0.fab k (v.wave + 1)).keep s0.fab).complete = false →
          ∃ u, exec (.elementAlign key) s = .next u ∧ sameMemory s0 u ∧ (u.tile key).aligned = true ∧
            (u.tile key).akind = k)) ∧
      (t.aligned = true → (t.keep s0.fab).complete = false →
        exec (.elementAlign key) s = .next (s0.setTile key (t.keep s0.fab))) ∧
      (∀ cut e, t.aligned = true → x.elemOn key = some (cut, e) → (t.keep s0.fab).complete = true →
        ∃ u y z, exec (.elementAlign key) s = .next u ∧ sameMemory s0 u ∧ u.load l = some y ∧
          y.snaps.find? (fun z => z.wave == t.wave + 1) = some z ∧
          Tab.get Tile.empty z.tiles (elemKey cut e) = (t.keep s0.fab).image ∧ (u.tile key).wave = t.wave + 1 ∧
          (u.tile key).aligned = false ∧ (u.tile key).saved = decide (t.akind = 4)))

/-- 09 R195, R200 to R206: ports, blocks, column groups and readout. -/
def Obligations.MatrixTilesAdvance : Prop :=
  ∀ (s : State) (key g l : Nat) (x : Load) (w : LW), s.liveTile key = some (l, x) →
    let t := s.tile key
    let m := t.mat
    let clean := w.poisoned = false ∧ w.badResid = false
    let taken := fun (v : LW) => (w.kind = 0 ∧ clean ∧ v = w) ∨ (w.kind = 6 ∧ v = mkWord 0 0 0 0 0)
    let special := fun (i : Instr) (n : Nat) (pv : Nat × Nat) =>
      (w.kind = 1 → exec i s = .next (s.setTile key
        { t.takeHead s.fab pv.1 pv.2 with pipeAt := Tab.set 0 t.pipeAt n (s.fab + 1) })) ∧
      (w.kind = 5 → ∃ u, exec i s = .next u ∧ sameMemory s u ∧ (u.tile key).mat.stop = true) ∧
      (w.kind = 0 → w.poisoned = true → exec i s = .next (s.tileCheck key 0 0 0xF0 5 false false 2)) ∧
      (w.kind = 0 → w.poisoned = false → w.badResid = true →
        exec i s = .next (s.tileCheck key 0 w.badLane 0xF0 0 true false 2))
    (t.armed = true → t.rowsHeld < 8 → Tab.get 0 t.pipeAt 8 ≠ s.fab + 1 → t.headOf s.fab t.aPort.1 t.aPort.2 = some w →
      special (.aPortTake key) 8 t.aPort ∧
      ∀ v, taken v → ∃ u, exec (.aPortTake key) s = .next u ∧ sameMemory s u ∧ (u.tile key).mat.aWords = m.aWords ++ [v] ∧
        (u.tile key).chans = (t.takeHead s.fab t.aPort.1 t.aPort.2).chans) ∧
    (∀ i, t.armed = true → m.loading = some i →
      let b := m.blocks.getD i { words := [], full := false, due := 0, ready := false }
      g = (if (t.bPort 1).1 ≠ 7 then b.words.length % 2 else 0) → Tab.get 0 t.pipeAt (9 + g) ≠ s.fab + 1 →
      t.headOf s.fab (t.bPort g).1 (t.bPort g).2 = some w →
      special (.bPortTake key g) (9 + g) (t.bPort g) ∧
      ∀ v, taken v → ∃ u c, exec (.bPortTake key g) s = .next u ∧ sameMemory s u ∧ (u.tile key).mat.blocks[i]? = some c ∧
        c.words = b.words ++ [{ v with route := t.bFmt + 64 * t.tcap }] ∧ c.due = s.fab + 4 ∧ c.ready = false ∧
        c.full = decide (b.words.length + 1 ≥ wordsFor ((c.words.headD v).route % 64) 64)) ∧
    (∀ i b, m.blocks.findIdx? (fun b => b.full && !b.ready && decide (b.due ≤ s.fab)) = some i → m.blocks[i]? = some b →
      exec (.blockReady key) s = .next (s.setTile key { t with mat := { m with
        blocks := setNth m.blocks i { b with ready := true } } })) ∧
    (let y := m.group g
     let stalls := exec (.groupAdvance key g) s = .next (s.setTile key { t with mat := m.addStall t.cen s.fab })
     g < 8 → t.armed = true → y.last ≠ s.fab + 1 →
      (t.held s.fab = true → stalls) ∧
      (t.held s.fab = false → y.chunk < m.outBase + t.kch →
        (y.chunk < m.base → stalls) ∧ (m.base ≤ y.chunk → m.blocks[y.chunk - m.base]? = none → stalls) ∧
        (∀ b, m.base ≤ y.chunk → m.blocks[y.chunk - m.base]? = some b →
          let T := ((List.range 8).map (fun j => b.colTerms (8 * g + j))).foldl max 0
          let p := if T = 0 then y.p else min (y.p + 32) (T * min (t.avail y.chunk) (y.d + 2))
          let nd := if T = 0 then y.d + 1 else min (y.d + 1) (p / T)
          (b.ready = false ∨ t.avail y.chunk ≤ y.d → stalls) ∧
          (∀ cut e, b.ready = true → y.d < t.avail y.chunk → y.ret < m.lag s.fab + 4 → x.elemOn key = some (cut, e) →
            (∀ k lane, T ≠ 0 → s.armedElem l cut e g 1 = some (k, lane) →
              exec (.groupAdvance key g) s = .next ((s.fired k).tileCheck key g lane 0xF0 1 true true 2)) ∧
            ((T ≠ 0 → s.armedElem l cut e g 1 = none) →
              (∀ k lane, y.d < nd → s.armedElem l cut e g 2 = some (k, lane) →
                exec (.groupAdvance key g) s = .next ((s.fired k).tileCheck key g lane 0xF1 1 true true 2)) ∧
              ((y.d < nd → s.armedElem l cut e g 2 = none) →
                ∃ u z, exec (.groupAdvance key g) s = .next u ∧ sameMemory s u ∧ (u.tile key).mat.group g = z ∧
                  z.ret = y.ret + (nd - y.d) ∧ (nd ≠ 32 → z.chunk = y.chunk ∧ z.d = nd ∧ z.p = p) ∧
                  (nd = 32 → z.chunk = y.chunk + 1 ∧ z.d = 0 ∧ z.p = 0) ∧
                  (nd ≤ y.d → (u.tile key).mat.acc = m.acc) ∧
                  (y.d < nd → (u.tile key).mat.acc =
                    (t.accRow g y.d (rowElems t.aFmt (t.aChunk y.chunk) y.d) b).mat.acc))))))) ∧
    (t.kind = 1 → m.due ≠ 0 → m.due ≤ s.fab + 1 → m.stop = false →
      (m.stage ≠ [] → exec (.outputMove key) s = .next (s.setTile key { t with mat := m.addStall t.cen s.fab })) ∧
      (m.stage = [] → ∃ u, exec (.outputMove key) s = .next u ∧ sameMemory s u ∧ (u.tile key).mat.remain = m.remain - 1 ∧
        (u.tile key).mat.due = 0 ∧ (u.tile key).mat.outBase = m.outBase + t.kch ∧
        (u.tile key).mat.acc = (if (t.field 1).testBit 16 then m.acc else []) ∧
        ∃ r, (u.tile key).mat.stage = (List.range 32).flatMap (fun i => (t.outRow i).1) ++ r ∧
          (1 < m.remain → r = []) ∧ (m.remain = 1 → r.map (fun v => v.kind) = [1]))) ∧
    (∀ r, t.kind = 1 → t.aligned = false → t.saved = false → m.stage = w :: r → Tab.get 0 t.pipeAt 20 ≠ s.fab + 1 →
      let q := s.sendPorts l key w m.left
      (q.2 ≠ 0 → ∃ u, exec (.stagingSend key) s = .next u ∧ sameMemory s u ∧ (u.tile key).mat.left = q.2 ∧
        (u.tile key).mat.stage = w :: r) ∧
      (q.2 = 0 → ∃ u, exec (.stagingSend key) s = .next u ∧ sameMemory s u ∧ (u.tile key).mat.stage = r ∧
        (u.tile key).mat.left = t.oports) ∧
      (∀ d n, s.load l = some x → d < 4 → m.left = 2 ^ d → neighbour key d = some n → n ≠ key → x.sameCut key n = true →
        t.holdsFor d w.vc = false → t.linkFree d s.fab = true → (s.tile n).hasCredit s.fab ((d + 2) % 4) w.vc = true →
        ∃ u e, exec (.stagingSend key) s = .next u ∧ sameMemory s u ∧ (u.tile key).mat.stage = r ∧
          (u.tile n).ch ((d + 2) % 4) w.vc = (s.tileOr n).ch ((d + 2) % 4) w.vc ++ [e] ∧ e.w = w ∧ e.at_ = s.fab + 1))

/-- 10 R212, R216 to R223; 12 R250: what each mode does with a token. -/
def Obligations.MemoryModesRun : Prop :=
  ∀ (s : State) (key g l : Nat) (t : Tile) (w : LW),
    let s0 := s.flushed key
    let heads := [t.inHead s0.fab 0, t.inHead s0.fab 1].filterMap id
    let good := heads.find? (fun w => w.kind == 0 && w.badResid) = none
    let free := fun (r : Nat) => t.bankFree r s0.fab = true
    let m := t.mem
    let runs := fun (i : Instr) (f : Tile → Prop) => ∃ u, exec i s = .next u ∧ sameMemory s0 u ∧ f (u.tile key)
    let only := fun (r : Nat) (v : Row) (u : Tile) => ∀ j, u.mem.row j = if j = r then v else m.row j
    let stops := fun (i : Instr) => runs i (fun u => u.mem.stop = true ∧ u.mem.rows = m.rows)
    let mode := t.field 43
    let sends := fun (at_ : Nat) (v : LW) (u : Tile) =>
      mode % 32 ≠ 0 → (at_, v.through (fld mode 5 5) (fld mode 10 9), mode % 32, 0) ∈ u.sendq
    (∀ i d, (i, d) ∈ [(Instr.tstoreWrite key, 1), (.generatorStep key g, 1), (.fifoTake key, 2), (.fifoEmit key, 2),
        (.lbufTake key, 3), (.rptCapture key, 4), (.cdownScan key, 5), (.cdownDecrement key, 5), (.ltabLookup key, 6)] →
      s0.memTile key d = some (l, t) → heads.find? (fun w => w.kind == 0 && w.badResid) = some w →
      exec i s = .next (s0.tileCheck key 0 w.badLane (0xF8 + d) 0 true false 3)) ∧
    (s0.memTile key 1 = some (l, t) → good →
      (t.hasWriter = false → t.inHead s0.fab 0 = some w → m.buf m.wbuf ≠ 2 →
        (w.kind = 1 → runs (.tstoreWrite key) (fun u => u.mem.rows = m.rows ∧ u.mem.woff = m.woff)) ∧
        (w.kind = 5 → stops (.tstoreWrite key)) ∧
        (let row := t.rbase + m.wbuf * t.bsize + m.woff
         w.kind ≠ 1 → w.kind ≠ 5 → free row → runs (.tstoreWrite key) (fun u => only row (Row.ofData w) u ∧
          (m.woff + 1 < t.bsize → u.mem.woff = m.woff + 1 ∧ u.mem.wbuf = m.wbuf ∧ u.mem.buf m.wbuf = 1) ∧
          (t.bsize ≤ m.woff + 1 → u.mem.woff = 0 ∧ u.mem.wbuf = (m.wbuf + 1) % t.nbuf ∧ u.mem.buf m.wbuf = 2)))) ∧
      (let f := t.genw g 6
       let row := t.genRow g
       let next := t.genNext g
       let ended := next.2 &&& (t.genw g 5 % 16)
       g < 4 →
        (t.reads g = true → t.genReady s0.fab g = true → free row → t.writeBank s0.fab ≠ some (row % 4) →
          (t.gensBefore g).any (fun i => t.reads i && t.genReady s0.fab i && t.genRow i % 4 == row % 4) = false →
          runs (.generatorStep key g) (fun u => u.mem.rows = m.rows ∧ u.mem.gen g = next.1 ∧
            (f % 32 ≠ 0 → (s0.fab + 1, (m.row row).word (fld f 5 5) (fld f 10 9), f % 32, 2 ^ (20 + g)) ∈ u.sendq ∧
              (ended ≠ 0 → (s0.fab + 1, mkWord 0 (fld f 5 5) 1 (Nat.log2 ended + 1) (fld f 10 9), f % 32, 2 ^ (20 + g)) ∈
                u.sendq)))) ∧
        (t.genOn g = true → t.genWr g = true → t.genDone g = false → m.buf m.wbuf ≠ 2 → t.inHead s0.fab 0 = some w →
          (w.kind = 1 → runs (.generatorStep key g) (fun u => u.mem.rows = m.rows ∧ u.mem.gen g = m.gen g)) ∧
          (w.kind = 5 → stops (.generatorStep key g)) ∧
          (w.kind ≠ 1 → w.kind ≠ 5 → Tab.get 0 t.pipeAt (40 + g) ≠ s0.fab + 1 → free row →
            runs (.generatorStep key g) (fun u => only row (Row.ofData w) u ∧ u.mem.gen g = next.1 ∧
              u.mem.buf m.wbuf = if next.2 = 15 then 2 else 1))))) ∧
    (s0.memTile key 2 = some (l, t) → good →
      (let row := t.rbase + (m.head + m.count) % t.rsize
       t.inHead s0.fab 0 = some w → m.count + t.unsent < t.rsize → free row →
        runs (.fifoTake key) (fun u => only row (Row.ofWord w) u ∧ u.mem.count = m.count + 1)) ∧
      (let at_ := max (s0.fab + 1) (m.ages.headD 0 + 2)
       m.count ≠ 0 → t.outRoom s0.fab = true → Tab.get 0 t.pipeAt 62 ≠ s0.fab + 1 → m.ages.headD 0 + 1 ≤ s0.fab →
        free (t.rbase + m.head) →
        runs (.fifoEmit key) (fun u => u.mem.rows = m.rows ∧ u.mem.count = m.count - 1 ∧
          u.mem.head = (m.head + 1) % t.rsize ∧ sends at_ ((m.row (t.rbase + m.head)).token 0 0) u))) ∧
    (s0.memTile key 3 = some (l, t) → good →
      (let i := m.rpos - 1
       let row := t.pixRow (m.y + 1 - t.wh + i / t.ww) (m.x + 1 - t.ww + i % t.ww)
       m.rpos ≠ 0 → t.outRoom s0.fab = true → Tab.get 0 t.pipeAt 62 ≠ s0.fab + 1 → free row →
        runs (.lbufTake key) (fun u => u.mem.rows = m.rows ∧ sends (s0.fab + 1) ((m.row row).word 0 0) u ∧
          u.mem.rpos = if i + 1 = t.wh * t.ww then 0 else m.rpos + 1)) ∧
      (m.rpos = 0 → t.unsent = 0 → t.inHead s0.fab 0 = some w →
        (w.kind = 5 ∨ (w.kind = 1 ∧ m.x ≠ 0) → stops (.lbufTake key)) ∧
        (w.kind = 1 → m.x = 0 → t.outRoom s0.fab = true →
          runs (.lbufTake key) (fun u => u.mem.rows = m.rows ∧ u.mem.y = 0 ∧ sends (s0.fab + 1) (claspWord w.level) u)) ∧
        (w.kind ≠ 1 → w.kind ≠ 5 → free (t.pixRow m.y m.x) →
          runs (.lbufTake key) (fun u => only (t.pixRow m.y m.x) (Row.ofData w) u ∧
            u.mem.rpos = if m.y + 1 ≥ t.wh ∧ m.x + 1 ≥ t.ww then 1 else 0)))) ∧
    (s0.memTile key 4 = some (l, t) → good →
      (m.rst = 0 → t.unsent = 0 → t.inHead s0.fab 1 = some w →
        (w.kind = 5 → stops (.rptCapture key)) ∧
        (w.kind = 1 → runs (.rptCapture key) (fun u => u.mem.rst = 0 ∧ u.mem.rows = m.rows)) ∧
        (w.kind ≠ 1 → w.kind ≠ 5 → runs (.rptCapture key) (fun u => u.mem.rst = 1 ∧ u.mem.count = 0 ∧ u.mem.rows = m.rows ∧
          u.mem.rn = if w.kind = 6 then 0 else w.pay.toNat % 2 ^ 32))) ∧
      (m.rst = 1 → t.inHead s0.fab 0 = some w → (m.rn = 0 ∨ t.outRoom s0.fab = true) →
        (w.kind = 5 → stops (.rptCapture key)) ∧
        (w.kind = 1 → t.field 4 ≤ w.level → runs (.rptCapture key) (fun u => u.mem.rows = m.rows ∧
          u.mem.rst = (if m.rpass < m.rn then 2 else 0) ∧ (m.rn ≠ 0 → sends (s0.fab + 1) (claspWord w.level) u))) ∧
        (w.kind ≠ 5 → ¬(w.kind = 1 ∧ t.field 4 ≤ w.level) → t.rsize ≤ m.count → stops (.rptCapture key)) ∧
        (w.kind ≠ 5 → ¬(w.kind = 1 ∧ t.field 4 ≤ w.level) → m.count < t.rsize → free (t.rbase + m.count) →
          runs (.rptCapture key) (fun u => only (t.rbase + m.count) (Row.ofWord w) u ∧ u.mem.count = m.count + 1 ∧
            (m.rn ≠ 0 → sends (s0.fab + 1) w u)))) ∧
      (m.rst ≠ 0 → m.rst ≠ 1 → t.outRoom s0.fab = true → Tab.get 0 t.pipeAt 62 ≠ s0.fab + 1 →
        (m.count ≤ m.rpos → runs (.rptCapture key) (fun u => u.mem.rows = m.rows ∧
          sends (s0.fab + 1) (claspWord m.y) u ∧ u.mem.rst = if m.rpass < m.rn then 2 else 0)) ∧
        (m.rpos < m.count → free (t.rbase + m.rpos) → runs (.rptCapture key) (fun u => u.mem.rows = m.rows ∧
          u.mem.rpos = m.rpos + 1 ∧ sends (s0.fab + 1) ((m.row (t.rbase + m.rpos)).token 0 0) u)))) ∧
    (s0.memTile key 5 = some (l, t) → good →
      (m.scan < t.field 4 → m.scanAt + m.scan + 1 ≤ s0.fab → Tab.get 0 t.pipeAt 62 ≠ s0.fab + 1 → t.outRoom s0.fab = true →
        free (t.cdRow m.scan) →
        runs (.cdownScan key) (fun u => u.mem.scan = m.scan + 1 ∧ u.mem.rows = m.rows ∧
          u.mem.emitw = if t.cdGet m.scan = 0 then satAdd m.emitw 1 (2 ^ 48 - 1) else m.emitw)) ∧
      (t.field 4 ≤ m.scan → t.inHead s0.fab 1 = some w → t.outRoom s0.fab = true →
        (w.kind = 5 → stops (.cdownDecrement key)) ∧
        (w.kind = 1 → runs (.cdownDecrement key) (fun u => u.mem.rows = m.rows ∧ sends (s0.fab + 2) (claspWord w.level) u)) ∧
        (w.kind = 6 → runs (.cdownDecrement key) (fun u => u.mem.rows = m.rows ∧ u.mem.disc = m.disc)) ∧
        (∀ i, w.kind ≠ 1 → w.kind ≠ 5 → w.kind ≠ 6 → i = w.pay.toNat % 65536 →
          (t.field 4 ≤ i ∨ (free (t.cdRow i) ∧ t.cdGet i = 0) → runs (.cdownDecrement key) (fun u =>
            u.mem.rows = m.rows ∧ u.mem.disc = satAdd m.disc 1 (2 ^ 48 - 1))) ∧
          (i < t.field 4 → free (t.cdRow i) → t.cdGet i ≠ 0 → runs (.cdownDecrement key) (fun u =>
            only (t.cdRow i) { m.row (t.cdRow i) with
              v := (m.row (t.cdRow i)).v - BitVec.ofNat 256 (2 ^ (16 * (i % 16))) } u ∧
            (t.cdGet i = 1 → sends (s0.fab + 2) (idxWord i) u) ∧ (t.cdGet i ≠ 1 → u.mem.emitw = m.emitw)))))) ∧
    (let ix := splitN 32 w.pay.toNat 8
     let c := bankLoad (t.ltRows ix)
     s0.memTile key 6 = some (l, t) → good → m.takeAt ≤ s0.fab → t.outRoom s0.fab = true → t.inHead s0.fab 1 = some w →
      (w.kind = 5 → stops (.ltabLookup key)) ∧
      (w.kind = 1 → runs (.ltabLookup key) (fun u => u.mem.rows = m.rows ∧ sends (s0.fab + 2) (claspWord w.level) u)) ∧
      (w.kind = 6 → runs (.ltabLookup key) (fun u => u.mem.rows = m.rows ∧ sends (s0.fab + 2) (mkWord 0 0 6 0 0) u)) ∧
      (w.kind ≠ 1 → w.kind ≠ 5 → w.kind ≠ 6 → (t.ltRows ix).any (fun r => !t.bankFree r s0.fab) = false →
        (w.poisoned = true ∨ (t.ltRows ix).any (fun r => (m.row r).pois) = true →
          exec (.ltabLookup key) s = .next ((s0.tileCheck key 0 0 0xFE 5 false false 3).flushed key)) ∧
        (w.poisoned = false → (t.ltRows ix).any (fun r => (m.row r).pois) = false →
          runs (.ltabLookup key) (fun u => u.mem.rows = m.rows ∧ u.mem.takeAt = s0.fab + c ∧
            sends (s0.fab + c + 1) (mkWord (BitVec.ofNat 256 (joinN 32 (ix.map (fun i =>
              if i < t.field 4 then t.entGet i else 0)))) 0 0 0 0) u))))

/-! ## Faults, registers and repair -/

/-- 07 R143, R149, R154 to R156; 06 R134; 03 R47; 12 R259, R260, R264. -/
def Obligations.FaultsAndRegisters : Prop :=
  ∀ (s : State) (die idx mon v line test : Nat),
    (∀ w : Walk, idx < 32 → (s.die die).walks[idx]? = some w →
      let y := s.slot w.slot
      let own := decide (w.slot < 4096)
      let r := s.doWalk die (if own then y.asidN else w.asid) (if own then y.ptbase else w.ptb) w.va w.acc
        (if own then y.mode else w.mode)
      let t := r.1.setDie die { r.1.die die with walks := dropNth (r.1.die die).walks idx }
      let v := t.setSlot w.slot { t.slot w.slot with wait := .none }
      (∀ l, r.2 = .held l → exec (.walkDone die idx) s = .next r.1) ∧
      ((∀ l, r.2 ≠ .held l) → own = false ∨ y.wait ≠ .walk → exec (.walkDone die idx) s = .next t) ∧
      (own = true → y.wait = .walk →
        (∀ pa mt, r.2 = .ok pa mt →
          ∃ u, exec (.walkDone die idx) s = .next u ∧ (u.slot w.slot).wait = .none ∧ (u.slot w.slot).pc = y.pc ∧
            (u.slot w.slot).regs = y.regs ∧ u.mem = r.1.mem ∧ (u.die die).walks = dropNth (s.die die).walks idx ∧
            ∀ e, (r.1.die die).tlb2.head? = some e →
              (u.core (w.slot / 16)).tlb1 = tlbPut 64 0 e (r.1.core (w.slot / 16)).tlb1) ∧
        (r.2 = .perm → exec (.walkDone die idx) s = .next (v.raiseAt w.slot 0x07 w.va y.pc)) ∧
        (∀ rs lv, r.2 = .fault rs lv →
          exec (.walkDone die idx) s = .next (v.xfault w.slot w.va rs lv w.acc) ∧
          (y.mode = 0 → v.fqPark (dieOfSlot w.slot) = true →
            ∃ u, exec (.walkDone die idx) s = .next u ∧ sameMemory r.1 u ∧ (u.slot w.slot).st = .parked ∧
              (u.slot w.slot).parkDie = dieOfSlot w.slot ∧ (u.slot w.slot).pc = y.pc ∧
              ((v.die (dieOfSlot w.slot)).fqNet ≠ v.net + 1 →
                (u.slot w.slot).parkSeq = (v.die (dieOfSlot w.slot)).fqSeq))))) ∧
    (∀ e rest, let x := s.die die
      x.fqWait = e :: rest → e.2.length = 8 → s.running = true → s.fqOn die = true → s.numbering die e.1 = false →
      (x.fqtail + 2 ^ 32 - x.fqhead) % 2 ^ 32 < x.ringSize → s.mustSnoop (lineOf (offOf x.tailAt)) true = false →
      ∃ u, exec (.faultEntryWrite die) s = .next u ∧ sameMemoryBut (offOf x.tailAt) 64 s u ∧
        u.homeDs x.tailAt 8 = e.2 ∧ ((∀ p ∈ s.prov, p.line ≠ lineOf (offOf x.tailAt)) → (u.die die).fqWait = rest) ∧
        (u.die die).fqtail = (x.fqtail + 1) % 2 ^ 32 ∧
        (u.die die).fqhead = x.fqhead ∧
        (x.fqtail = x.fqhead → die < 4 → bit (s.msixD (2 * (2 + die) + 1)) 32 = false →
          Out.msix (2 + die) (s.msixD (2 * (2 + die))) (s.msixD (2 * (2 + die) + 1) &&& 0xFFFFFFFF) ∈ u.out)) ∧
    (die < 4 → s.pkg.powered = true →
      (∃ u, exec (.fqbaseWrite die v) s = .next u ∧ onlyDie die s u ∧
        (bit (s.die die).fqbase 0 = true → v % 2 = 1 → bits (u.die die).fqbase 12 44 = bits (s.die die).fqbase 12 44 ∧
          bits (u.die die).fqbase 4 4 = bits (s.die die).fqbase 4 4 ∧ (u.die die).fqhead = (s.die die).fqhead) ∧
        (bit (s.die die).fqbase 0 = false → v % 2 = 1 → (u.die die).fqhead = 0 ∧ (u.die die).fqtail = 0 ∧
          bits (u.die die).fqbase 12 44 = bits (s.die die).fqbase 12 44) ∧
        (v % 2 = 0 → bits (u.die die).fqbase 12 44 = v / 2 ^ 12 % 2 ^ 44 ∧ bits (u.die die).fqbase 4 4 = v / 2 ^ 4 % 2 ^ 4)) ∧
      (∃ u, exec (.fqheadWrite die v) s = .next u ∧ onlyDie die s u ∧
        (((s.die die).fqtail + 2 ^ 32 - v % 2 ^ 32) % 2 ^ 32 ≤ (s.die die).ringSize → (u.die die).fqhead = v % 2 ^ 32) ∧
        ((s.die die).ringSize < ((s.die die).fqtail + 2 ^ 32 - v % 2 ^ 32) % 2 ^ 32 → u = s))) ∧
    (die < 4 → mon < 16 → s.running = true →
      let m := Tab.get Monitor.reset (s.die die).mons mon
      ∃ u n, exec (.monselClear die mon v) s = .next u ∧ onlyDie die s u ∧ Tab.get Monitor.reset (u.die die).mons mon = n ∧
        bits n.sel 16 8 = v / 2 ^ 16 % 2 ^ 8 ∧ bits n.sel 32 16 = v / 2 ^ 32 % 2 ^ 16 ∧
        (v / 4 % 2 = 1 ∨ bits n.sel 16 8 ≠ bits m.sel 16 8 ∨ bits n.sel 32 16 ≠ bits m.sel 32 16 →
          n.cnt = 0 ∧ n.sum = 0 ∧ n.max_ = 0 ∧ n.min_ = 0xFFFFFFFFFFFFFFFF ∧ n.hist = []) ∧
        (v / 4 % 2 = 0 → bits n.sel 16 8 = bits m.sel 16 8 → bits n.sel 32 16 = bits m.sel 32 16 →
          n.cnt = m.cnt ∧ n.sum = m.sum ∧ n.max_ = m.max_ ∧ n.min_ = m.min_ ∧ n.hist = m.hist)) ∧
    (∀ off size, s.pkg.powered = true → off < 2 ^ 40 →
      let a := 0x3F0000000000 + off
      ((size = 4 ∨ size = 8) → off % size = 0 →
        (s.ctlSnoop 3 a size v = none → exec (.registerWrite off size v) s = .next (s.ctlWrite 3 a size v)) ∧
        (∀ l, s.ctlSnoop 3 a size v = some l → exec (.registerWrite off size v) s = .next (s.askHost l))) ∧
      ((size ≠ 4 ∧ size ≠ 8) ∨ off % size ≠ 0 →
        (0x100000000 ≤ off ∧ off < 0x101000000 ∧ off % 0x1000 < 0x40 →
          exec (.registerWrite off size v) s = .next (s.qpageWrite (off - 0x100000000) 0)) ∧
        (¬(0x100000000 ≤ off ∧ off < 0x101000000 ∧ off % 0x1000 < 0x40) →
          exec (.registerWrite off size v) s = .next { s with pkg := { s.pkg with hostUr := satAdd s.pkg.hostUr 1 0xFFFF } })) ∧
      (∃ u, exec (.registerWrite 0x18 8 v) s = .next u ∧ u.pkg.rootArg = BitVec.ofNat 64 v ∧ u.mem = s.mem ∧
        u.slots = s.slots ∧ u.pkg.rootPc = s.pkg.rootPc ∧ u.pkg.rootCtl = s.pkg.rootCtl)) ∧
    (∀ (t : Test) c k n pass, s.tests.find? (fun t => t.id == test) = some t → s.running = true → t.part = [0, c, k, n] →
      let ok := pass == 1
      (s.cycle < t.due → exec (.selftestDone test pass) s = .next s) ∧
      (t.due ≤ s.cycle →
        ∃ u, exec (.selftestDone test pass) s = .next u ∧ sameMemory s u ∧ u.tests = s.tests.filter (fun u => u.id != test) ∧
          (∀ h, t.slot = some h → (u.core c).retired = ((s.core c).retired || !ok) ∧
            ((s.slot h).wait = .test test → (u.slot h).wait = .none ∧ (u.slot h).pc = (s.slot h).pc + 4 ∧
              ∀ g, g = fld (s.slot h).word 21 5 → g ≠ 0 → (u.slot h).reg g = if ok then 0 else 1)) ∧
          (t.slot = none → (u.core c).retired = ((s.core c).retired || decide ((s.verdict t ok).1 ≥ 2)) ∧
            u.pkg.trans = (s.verdict t ok).2))) ∧
    (∀ d, dieOfLine line = some d → s.running = true →
      (Tab.get false s.poison line = false →
        (∃ u, exec (.scrubVisit line 2) s = .next u ∧ sameMemory s u ∧ Tab.get false u.poison line = true) ∧
        exec (.scrubVisit line 0) s = .next s ∧ exec (.scrubVisit line 1) s = .next s) ∧
      (s.mustSnoop line true = true →
        exec (.scrubClear line) s = .next (s.askHost line) ∧ exec (.scrubPoison line) s = .next (s.askHost line)) ∧
      (s.mustSnoop line true = false →
        (∃ u, exec (.scrubClear line) s = .next u ∧ sameMemoryBut (line * 64) 64 s u ∧
          Mem.readN u.mem (line * 64) 64 = 0 ∧ Tab.get false u.poison line = false) ∧
        (∃ u, exec (.scrubPoison line) s = .next u ∧ sameMemory s u ∧ Tab.get false u.poison line = true)))

/-! ## The package -/

/-- 01 R23, R25, R26 and Table 01-6; 03 R61, R62, R66. -/
def Obligations.PackageEvents : Prop :=
  ∀ (s : State) (watts tj amps v : Nat),
    (s.running = true →
      (∀ c, s.pkg.causes watts tj amps = [c] → 0x1C < s.pkg.fclk →
        ∃ u, exec (.governorEvaluation watts tj amps) s = .next u ∧ sameMemory s u ∧ u.slots = s.slots ∧
          u.pkg.fclk = s.pkg.fclk - 1 ∧ u.pkg.pcause = c ∧ u.pkg.steps = satAdd s.pkg.steps 1 0xFFFF ∧ u.pkg.quiet = 0) ∧
      (∀ c d r, s.pkg.causes watts tj amps = c :: d :: r → 0x1C < s.pkg.fclk →
        ∃ u, exec (.governorEvaluation watts tj amps) s = .next u ∧ sameMemory s u ∧ u.slots = s.slots ∧
          u.pkg.fclk = s.pkg.fclk - 1 ∧ u.pkg.pcause ∈ c :: d :: r ∧ u.pkg.steps = satAdd s.pkg.steps 1 0xFFFF ∧
          u.pkg.quiet = 0) ∧
      (s.pkg.causes watts tj amps ≠ [] → s.pkg.fclk ≤ 0x1C →
        ∃ u, exec (.governorEvaluation watts tj amps) s = .next u ∧ sameMemory s u ∧ u.pkg.fclk = s.pkg.fclk ∧
          u.pkg.steps = s.pkg.steps ∧ u.pkg.quiet = 0) ∧
      (s.pkg.causes watts tj amps = [] → s.pkg.below watts tj amps = false →
        ∃ u, exec (.governorEvaluation watts tj amps) s = .next u ∧ sameMemory s u ∧ u.pkg.fclk = s.pkg.fclk ∧
          u.pkg.quiet = 0) ∧
      (s.pkg.causes watts tj amps = [] → s.pkg.below watts tj amps = true →
        ∃ u, exec (.governorEvaluation watts tj amps) s = .next u ∧ sameMemory s u ∧ u.pkg.steps = s.pkg.steps ∧
          (s.pkg.quiet < 9 → u.pkg.fclk = s.pkg.fclk ∧ u.pkg.quiet = s.pkg.quiet + 1) ∧
          (0x34 ≤ s.pkg.fclk → u.pkg.fclk = s.pkg.fclk) ∧
          (9 ≤ s.pkg.quiet → s.pkg.fclk < 0x34 → u.pkg.fclk = s.pkg.fclk + 1 ∧ u.pkg.quiet = 0)) ∧
      (115 ≤ tj → ∃ u, exec (.thermalStop tj) s = .next u ∧ sameMemory s u ∧ u.pkg.devState = 8 ∧ u.running = false ∧
        Out.thermal ∈ u.out) ∧
      (tj < 115 → exec (.thermalStop tj) s = .next s)) ∧
    (s.pkg.powered = true → s.pkg.devState = 8 →
      (exec .warmReset s = .next { s with pkg := { s.pkg with warmWait := true } }) ∧
      (s.pkg.warmWait = true → tj < 95 → exec (.thermalRestart tj) s = .next s.warm) ∧
      (95 ≤ tj → exec (.thermalRestart tj) s = .next s)) ∧
    (∃ u, exec .coldReset s = .next u ∧ (∀ a, Mem.read u.mem a = 0) ∧ u.slots = [] ∧ u.loads = [] ∧ u.tasks = [] ∧
      u.cycle = 0 ∧ u.pkg.powered = true ∧
      let f := s.pkg.facts
      let fails := fun (code : Nat) => u.pkg.devState = 7 ∧ u.pkg.errCode = code
      let described := f.cfgOk = true ∧ f.domain = true ∧ f.longest ≤ 3 ∧ f.pkg < 1024
      (f.image = none → fails 1) ∧
      (∀ n i, f.image = some (n, i) →
        (i.svn < f.minSvn → fails 2) ∧
        (f.minSvn ≤ i.svn → f.puf = false → fails 3) ∧
        (f.minSvn ≤ i.svn → f.puf = true → f.fatal = true → fails 4) ∧
        (f.minSvn ≤ i.svn → f.puf = true → f.fatal = false → f.memOk = false → fails 5) ∧
        (f.minSvn ≤ i.svn → f.puf = true → f.fatal = false → f.memOk = true →
          (¬described → fails 6) ∧
          (described → u.pkg.devState = 6 ∧ u.pkg.pkgNo = f.pkg ∧ u.pkg.svn = i.svn)))) ∧
    (s.pkg.powered = true → s.pkg.devState ≠ 8 →
      (∃ u, exec .warmReset s = .next u ∧ sameMemory s u ∧ u.poison = s.poison ∧ u.slots = [] ∧ u.loads = [] ∧
        u.tasks = [] ∧ u.prov = [] ∧ u.cycle = 0) ∧
      (s.pkg.devState = 6 → ∃ u, exec .functionReset s = .next u ∧ sameMemory s u ∧ u.slots = [] ∧ u.loads = [] ∧
        u.tasks = [] ∧ u.pkg.devState = 6 ∧ u.pkg.rootPc = 0 ∧ u.pkg.svcBase = s.pkg.svcBase ∧
        u.pkg.pkgNo = s.pkg.pkgNo)) ∧
    (s.pkg.powered = false ∨ s.pkg.devState ≠ 6 → exec .functionReset s = .next s) ∧
    (s.pkg.powered = false → exec .warmReset s = .next s) ∧
    (v % 2 = 1 → v / 256 % 256 = 0xA5 → exec (.resetctlWarm v) s = exec .warmReset s) ∧
    (v % 2 = 0 ∨ v / 256 % 256 ≠ 0xA5 → exec (.resetctlWarm v) s = .next s) ∧
    (s.pkg.powered = true →
      let k := slotKey (v / 2 ^ 24 % 256) (v / 2 ^ 20 % 16)
      (v % 2 = 1 → s.pkg.devState = 6 → (s.core (k / 16)).retired = false → (s.slot k).st = .free →
        ∃ u, exec (.rootctlGo v) s = .next u ∧ sameMemory s u ∧ (u.slot k).st = .ready ∧ (u.slot k).mode = 2 ∧
          (u.slot k).pc = s.pkg.rootPc ∧ (u.slot k).reg 1 = s.pkg.rootArg ∧ (∀ n, n ≠ 1 → (u.slot k).reg n = 0) ∧
          ∀ j, j ≠ k → u.slot j = s.slot j) ∧
      (v % 2 = 1 → s.pkg.devState ≠ 6 ∨ (s.core (k / 16)).retired = true ∨ (s.slot k).st ≠ .free →
        ∃ u, exec (.rootctlGo v) s = .next u ∧ u.slots = s.slots ∧ sameMemory s u ∧ bit u.pkg.rootCtl 2 = true) ∧
      (v % 2 = 0 → ∃ u, exec (.rootctlGo v) s = .next u ∧ u.slots = s.slots ∧ sameMemory s u)) ∧
    (∃ u, exec .powerOff s = .next u ∧ u.pkg.powered = false ∧ u.running = false ∧ sameMemory s u)

/-! ## The host -/

/-- 03 R48 to R53, R55, R58. -/
def Obligations.HostAccesses : Prop :=
  ∀ (s : State) (range off cache mask line vec : Nat) (data : List Nat),
    (s.pkg.powered = true → s.pkg.hostUp = true →
      (s.hdmUp = true → ∀ a, hdmOffset range off = some a →
        (cache = 0 ∨ (s.held (lineOf a)).isSome = true ∨ (s.heldOn ((dieOfLine (lineOf a)).getD 0)).length < snoopSize →
          ∃ u, exec (.hostMemRead range off cache) s = .next u ∧ sameMemory s u ∧
            u.out = s.out ++ [.memData range off (splitN 64 (s.homeLine (lineOf a)).toNat 8)
              (Tab.get false s.poison (lineOf a)) false] ∧
            (cache = 0 → u.snoop = s.snoop) ∧ (cache ≠ 0 → (u.held (lineOf a)).isSome = true)) ∧
        (∀ l m r, cache ≠ 0 → (s.held (lineOf a)).isSome = false → s.heldOn ((dieOfLine (lineOf a)).getD 0) = (l, m) :: r →
          snoopSize ≤ r.length + 1 → s.snooped.contains l = false →
          ∃ u, exec (.hostMemRead range off cache) s = .next u ∧ sameMemory s u ∧ u.out = s.out ++ [.snoop l] ∧
            u.snooped.contains l = true ∧ u.pkg.sfInv = (s.pkg.sfInv + 1) % 65536) ∧
        (∃ u, exec (.hostMemWrite range off mask data) s = .next u ∧
          (∀ i, i < 64 → Mem.read u.mem (lineOf a * 64 + i) =
            if mask.testBit i then BitVec.ofNat 8 (joinN 64 data / 256 ^ i) else Mem.read s.mem (lineOf a * 64 + i)) ∧
          sameMemoryBut (lineOf a * 64) 64 s u ∧ .memDone range off false ∈ u.out)) ∧
      (s.holdsMem = true →
        exec (.hostMemRead range off cache) s = .next { s with memHeld := s.memHeld ++ [.hostMemRead range off cache] } ∧
        exec (.hostMemWrite range off mask data) s =
          .next { s with memHeld := s.memHeld ++ [.hostMemWrite range off mask data] }) ∧
      (s.holdsMem = false → s.hdmUp = false ∨ hdmOffset range off = none →
        (∃ u, exec (.hostMemRead range off cache) s = .next u ∧ sameMemory s u ∧
          u.pkg.hostUr = satAdd s.pkg.hostUr 1 0xFFFF ∧ u.out = s.out ++ [.memData range off [] false true]) ∧
        (∃ u, exec (.hostMemWrite range off mask data) s = .next u ∧ sameMemory s u ∧
          u.pkg.hostUr = satAdd s.pkg.hostUr 1 0xFFFF))) ∧
    (s.snooped.contains line = true → s.running = true →
      ∃ u, exec (.snoopResponse line mask data) s = .next u ∧ sameMemoryBut (line * 64) 64 s u ∧
        u.snooped.contains line = false ∧ u.held line = none ∧
        ∀ i, i < 64 → Mem.read u.mem (line * 64 + i) =
          if mask.testBit i then BitVec.ofNat 8 (joinN 64 data / 256 ^ i) else Mem.read s.mem (line * 64 + i)) ∧
    (∀ id status (r : HostReq) (o : OutLoad), Tab.get none s.hostRq id = some r → s.running = true → s.pkg.hostUp = true →
      let q := { s with hostRq := Tab.set none s.hostRq id none }
      r.kind = 0 → (s.slot r.a).outs.find? (fun o => o.seq == r.b && o.tag == id + 1) = some o →
      (s.slot r.a).outs.find? (fun o => o.seq == r.b && o.tag == id + 1 && decide (3 ≤ o.mt) == true) = some o →
      (status ≠ 0 → exec (.hostAccessCompletion id data status) s = .next ((q.setSlot r.a { s.slot r.a with
        outs := (s.slot r.a).outs.erase o }).raiseAt r.a (if status = 2 then 0x08 else 0x17) o.va o.epc)) ∧
      (o.isPf = false → o.fwd = [] → o.size < 16 → (s.slot r.a).sync = none →
      ∃ u, exec (.hostAccessCompletion id data 0) s = .next u ∧ sameMemory s u ∧ Tab.get none u.hostRq id = none ∧
        let v := joinN 64 data / 2 ^ (8 * (r.addr % 64)) % 2 ^ (8 * o.size)
        ∀ n, (u.slot r.a).reg n = if n = o.dst ∧ o.dst ≠ 0 then
          (if o.signed then sext64 v (8 * o.size) else zext64 v (8 * o.size)) else (s.slot r.a).reg n)) ∧
    (s.pkg.powered = true → s.pkg.hostUp = true →
      ∃ u, exec .hostLinkDown s = .next u ∧ u.pkg.hostUp = false ∧ bit u.pkg.persist 0 = false ∧
        ((∀ e ∈ s.slots, ∀ a, e.2.wait ≠ .flush a) → sameMemory s u ∧ u.slots = s.slots)) ∧
    (s.pkg.powered = true → vec < 2048 → s.msixP.contains vec = false →
      ∃ u, exec (.msixUnmask vec) s = .next u ∧ sameMemory s u ∧ bit (u.msixD (2 * vec + 1)) 32 = false ∧ u.out = s.out) ∧
    (s.pkg.powered = true → vec < 2048 → s.msixP.contains vec = true →
      ∃ u d, exec (.msixUnmask vec) s = .next u ∧ sameMemory s u ∧ bit (u.msixD (2 * vec + 1)) 32 = false ∧
        u.msixP.contains vec = false ∧ u.out = s.out ++ [.msix vec (s.msixD (2 * vec)) d])

/-! ## Management and attestation -/

/-- 03 R65, R66, Table 03-11; 01 R23. The content of an answer beyond the registers is the free value of log 12, and the codes are those of log 24. -/
def Obligations.ManagementAnswers : Prop :=
  ∀ (s : State) (ver asym hash chain off len index cmd arg watts key image svn good : Nat) (nonce : List Nat),
    (s.firmware = true →
      exec .getVersion s = .next ({ s with pkg := { s.pkg with spdmVer := 0, spdmNeg := false } }.emit (.spdm 0x04 [0x12, 0x13])) ∧
      (ver = 0x12 ∨ ver = 0x13 → ∃ u, exec (.getCapabilities ver) s = .next u ∧ u.pkg.spdmVer = ver ∧
        u.pkg.spdmNeg = false ∧ u.mem = s.mem ∧ u.slots = s.slots ∧ u.out = s.out ++ [.spdm 0x61 (Config.answer 0x61 [ver])]) ∧
      (ver ≠ 0x12 → ver ≠ 0x13 → exec (.getCapabilities ver) s = .next (s.emit (.spdm 0x7F [0x41]))) ∧
      (s.pkg.spdmVer = 0 → exec (.negotiateAlgorithms asym hash) s = .next (s.emit (.spdm 0x7F [0x04]))) ∧
      (s.pkg.spdmVer ≠ 0 →
        (asym = 1 → hash = 1 → ∃ u, exec (.negotiateAlgorithms asym hash) s = .next u ∧ u.pkg.spdmNeg = true ∧
          u.mem = s.mem ∧ u.slots = s.slots ∧ u.out = s.out ++ [.spdm 0x63 [1, 1]]) ∧
        (asym ≠ 1 ∨ hash ≠ 1 → exec (.negotiateAlgorithms asym hash) s = .next (s.emit (.spdm 0x7F [0x01])))) ∧
      (s.pkg.spdmNeg = true →
        exec .getDigests s = .next (s.emit (.spdm 0x01 (Config.answer 0x01 [s.pkg.spdmVer, s.pkg.cert]))) ∧
        exec (.getCertificate chain off len) s =
          .next (s.emit (.spdm 0x02 (Config.answer 0x02 [s.pkg.spdmVer, chain, off, len, s.pkg.cert]))) ∧
        exec (.challenge chain nonce) s = .next (s.emit (.spdm 0x03 (Config.answer 0x03
          (s.pkg.spdmVer :: chain :: Config.sign s.pkg.aliasKey (chain :: nonce) :: nonce)))) ∧
        (index ≤ 5 ∨ index = 255 →
          let m := if index = 255 then s.pkg.meas else if index = 0 then [] else (s.pkg.meas.drop (index - 1)).take 1
          exec (.getMeasurements index nonce) s = .next (s.emit (.spdm 0x60 (Config.answer 0x60
            (s.pkg.spdmVer :: index :: Config.sign s.pkg.aliasKey (m ++ nonce) :: (m ++ nonce))))))) ∧
      (5 < index → index ≠ 255 → exec (.getMeasurements index nonce) s = .next (s.emit (.spdm 0x7F [0x01]))) ∧
      (s.pkg.spdmNeg = false → ∀ i ∈ [Instr.getDigests, .getCertificate chain off len, .challenge chain nonce],
        exec i s = .next (s.emit (.spdm 0x7F [0x04]))) ∧
      (s.pkg.spdmNeg = false → index ≤ 5 ∨ index = 255 →
        exec (.getMeasurements index nonce) s = .next (s.emit (.spdm 0x7F [0x04])))) ∧
    (s.firmware = false → ∀ i ∈ [Instr.getVersion, .getCapabilities ver, .negotiateAlgorithms asym hash, .getDigests,
        .getCertificate chain off len, .challenge chain nonce, .getMeasurements index nonce], exec i s = .next s) ∧
    (s.verified = true →
      ∃ u, exec (.mgmtFirmwareUpdate image svn good) s = .next u ∧ u.mem = s.mem ∧ u.slots = s.slots ∧
        (s.pkg.bootSlot = 0 → u.pkg.facts.imageA = s.pkg.facts.imageA ∧
          u.pkg.facts.imageB = { good := good == 1, svn := svn, id := image, key := good != 2 }) ∧
        (s.pkg.bootSlot ≠ 0 → u.pkg.facts.imageB = s.pkg.facts.imageB ∧
          u.pkg.facts.imageA = { good := good == 1, svn := svn, id := image, key := good != 2 })) ∧
    (s.running = true →
      exec (.mctpControl cmd arg) s = .next (s.emit (.mctp cmd (Config.answer cmd [arg]))) ∧
      (∃ u, exec (.mgmtSetPowerCap watts) s = .next u ∧ u.pkg.cap = some watts ∧ u.mem = s.mem ∧ u.slots = s.slots) ∧
      (∃ u, exec .mgmtClearPowerCap s = .next u ∧ u.pkg.cap = none ∧ u.mem = s.mem ∧ u.slots = s.slots)) ∧
    (s.pkg.powered = true →
      exec .mgmtReadStatus s = .next (s.emit (.mctp 256 (s.devstat.toNat :: s.pwrstat.toNat ::
        (List.range 24).map (fun p => (s.port p).stat.toNat)))) ∧
      (key = 0xA5 → exec (.mgmtWarmReset key) s = exec .warmReset (s.emit (.mctp 259 []))) ∧
      (key ≠ 0xA5 → exec (.mgmtWarmReset key) s = .next s))

/-! ## Links and other packages -/

/-- 02 R29, R32 to R36, R38 to R40, R45; log 84 for a second copy and a response of the wrong kind. -/
def Obligations.LinksAndPackets : Prop :=
  ∀ (s : State) (p : Nat),
    let x := s.port p
    (s.portUp p = true →
      (∀ seq ack nak, ∃ u, exec (.flitReceive p seq ack 0 nak) s = .next u ∧ onlyPort p s u ∧ (u.port p).rxBad = true ∧
        (u.port p).rxNext = x.rxNext ∧ (u.port p).rxq = x.rxq ∧ (u.port p).wire = x.wire.drop 1 ∧
        (x.rxBad = true → u.out = s.out) ∧ (x.rxBad = false → u.out = s.out ++ [.linkNak p x.rxNext])) ∧
      (∀ seq ack ok nak, 0 < ok →
        ∃ u, exec (.flitReceive p seq ack ok nak) s = .next u ∧ onlyPort p s u ∧ (u.port p).st = 2 ∧
          (u.port p).corr = satAdd x.corr (ok - 1) 0xFFFF ∧ (u.port p).unack = x.unack.filter (fun f => decide (ack ≤ f.1)) ∧
          (x.wire = [] → (u.port p).rxNext = x.rxNext ∧ (u.port p).rxq = x.rxq) ∧
          (∀ part pkt r, x.wire = (part, pkt) :: r → (u.port p).wire = r ∧
            (seq = x.rxNext → (u.port p).rxNext = x.rxNext + 1 ∧ Out.linkAck p (x.rxNext + 1) ∈ u.out ∧
              (u.port p).rxq = if part + 1 = flitsOf pkt then x.rxq ++ [pkt] else x.rxq) ∧
            (seq < x.rxNext → (u.port p).rxNext = x.rxNext ∧ Out.linkAck p x.rxNext ∈ u.out ∧ (u.port p).rxq = x.rxq) ∧
            (x.rxNext < seq → (u.port p).rxNext = x.rxNext ∧ (u.port p).rxBad = true ∧ (u.port p).rxq = x.rxq))) ∧
      (∀ why, (why = 0 → 16 ≤ x.resent) → (why = 1 → x.unack ≠ [] ∧ x.ackAt + 2000000 ≤ s.cycle) → why ≤ 2 →
        ∃ u, exec (.portFailure p why) s = .next u ∧ sameMemory s u ∧ (u.port p).st = 1 ∧ (u.port p).unack = [] ∧
          (u.port p).downs = if x.failed then x.downs else satAdd x.downs 1 0xFF)) ∧
    (∀ (k : Packet) r, x.rxq = k :: r → s.running = true →
      let t := s.setPort p { x with rxq := r }
      (packetOk k = false → exec (.packetReceive p k) s = .next (s.setPort p { x with rxq := r, drops := satAdd x.drops 1 0xFF })) ∧
      (packetOk k = true →
        (k.dst = s.pkg.pkgNo → exec (.packetReceive p k) s = .next { t with inbox := s.inbox ++ [(p, k)] }) ∧
        (k.dst ≠ s.pkg.pkgNo → s.reachable k.dst = true → exec (.packetReceive p k) s = .next (t.send k)) ∧
        (k.dst ≠ s.pkg.pkgNo → s.reachable k.dst = false →
          exec (.packetReceive p k) s = .next (s.setPort p { x with rxq := r, drops := satAdd x.drops 1 0xFF })))) ∧
    (p < 24 → s.running = true →
      (x.st = 1 →
        (∃ u, exec (.portTrainingDone p 1) s = .next u ∧ sameMemory s u ∧ (u.port p).st = 2 ∧ (u.port p).tries = 0 ∧
          (u.port p).unack = x.unack ∧ (u.port p).failed = false) ∧
        (∀ ok, ok ≠ 1 →
          (x.tries < 2 → exec (.portTrainingDone p ok) s = .next (s.setPort p { x with tries := x.tries + 1 })) ∧
          (2 ≤ x.tries → ∃ u, exec (.portTrainingDone p ok) s = .next u ∧ sameMemory s u ∧ (u.port p).st = 3 ∧
            (u.port p).unack = []))) ∧
      (x.en = true →
        exec (.lnkctlRetrain p) s = .next (s.setPort p { x with st := 1, tries := 0 }) ∧
        exec (.portEnable p) s = .next s ∧
        ∃ u, exec (.portDisable p) s = .next u ∧ sameMemory s u ∧ (u.port p).st = 0 ∧ (u.port p).en = false ∧
          (u.port p).unack = []) ∧
      (x.en = false → exec (.lnkctlRetrain p) s = .next s ∧ exec (.portDisable p) s = .next s ∧
        ∃ u, exec (.portEnable p) s = .next u ∧ onlyPort p s u ∧ (u.port p).st = 1 ∧ (u.port p).en = true)) ∧
    (s.running = true → ∀ port (k : Packet) (rest : List (Nat × Packet)),
      (∀ d off, takeFrom (fun n => n == 0 || n == 2 || n == 3) s.inbox = some (port, k, rest) →
        s.place k.addr = .dram d off → off = offOf k.addr →
        (k.kind = 0 → s.mustSnoop (lineOf off) false = false →
          let n := min 64 (k.data.headD 0)
          exec .remoteRequest s = .next ({ s with inbox := rest }.send (s.packet k.src 1 0 k.seq k.addr
            (b2n (s.poisoned k.addr) * 2 :: splitN 64 (Mem.readN s.mem off n) ((n + 7) / 8))))) ∧
        (k.kind = 2 → s.conflicts none (lineOf off) = true →
          exec .remoteRequest s = .next ({ s with inbox := rest }.send (s.packet k.src 5 0 k.seq k.addr [1]))) ∧
        (∀ v, k.kind = 3 →
          (servedKeep k.src k.seq s.served).find? (fun e => e.1 == k.src && e.2.1 == k.seq) = none →
          s.poisoned k.addr = false → s.mustSnoop (lineOf off) true = false → s.conflicts none (lineOf off) = false →
          let n := k.data.getD 0 0 / 16 % 16
          atomNew (k.data.getD 0 0 % 16) (8 * n) (Mem.readN s.mem off n) (k.data.getD 1 0) (k.data.getD 2 0) = some v →
          ∃ u, exec .remoteRequest s = .next u ∧ sameMemoryBut off n s u ∧ u.inbox = rest ∧
            Mem.readN u.mem off n = v % 2 ^ (8 * n)) ∧
        (∀ e, k.kind = 3 → (servedKeep k.src k.seq s.served).find? (fun e => e.1 == k.src && e.2.1 == k.seq) = some e →
          exec .remoteRequest s = .next ({ s with inbox := rest }.send e.2.2)) ∧
        (k.kind = 2 → s.conflicts none (lineOf off) = false → s.mustSnoop (lineOf off) true = false →
          let n := min 64 (k.data.headD 0 % 256)
          ∃ u, exec .remoteRequest s = .next u ∧ sameMemoryBut off n s u ∧ u.inbox = rest ∧
            Mem.readN u.mem off n = joinN 64 (k.data.drop 1) % 2 ^ (8 * n))) ∧
      (takeFrom (fun n => n == 1 || n == 4 || n == 5) s.inbox = some (port, k, rest) →
        ((∀ r, Tab.get none s.remotes k.seq = some r → k.kind ≠ answerKind r.pkt.kind) → ∃ u, exec .remoteResponse s = .next u ∧ sameMemory s u ∧ u.inbox = rest ∧
          (u.port port).late = satAdd (s.port port).late 1 0xFF) ∧
        (∀ (r : Remote) (o : OutLoad), Tab.get none s.remotes k.seq = some r → k.kind = answerKind r.pkt.kind → r.who = 0 →
          k.data.headD 0 = 0 →
          (s.slot r.a).outs.find? (fun o => o.seq == r.b && o.tag == k.seq + 1 && decide (3 ≤ o.mt) == false) = some o →
          o.isPf = false → o.fwd = [] → o.size < 16 → (s.slot r.a).sync = none →
          ∃ u, exec .remoteResponse s = .next u ∧ sameMemory s u ∧ u.inbox = rest ∧ Tab.get none u.remotes k.seq = none ∧
            let v := joinN 64 (k.data.drop 1) % 2 ^ (8 * o.size)
            ∀ n, (u.slot r.a).reg n = if n = o.dst ∧ o.dst ≠ 0 then
              (if o.signed then sext64 v (8 * o.size) else zext64 v (8 * o.size)) else (s.slot r.a).reg n)) ∧
      (takeFrom (fun n => n == 6) s.inbox = some (port, k, rest) →
        let n := borderKey k.circ true
        let y := s.port port
        let drops := exec .circuitDataReceive s =
          .next ({ s with inbox := rest }.setPort port { y with drops := satAdd y.drops 1 0xFF })
        (Tab.get none s.borders n = none →
          (inWindow k.seq 0 = false → drops) ∧
          (inWindow k.seq 0 = true → s.early.any (fun e => e.1 == k.circ && e.2.1 == k.seq) = false →
            exec .circuitDataReceive s =
              .next { s with inbox := rest, early := s.early ++ [(k.circ, k.seq, k.src, wordsOf k.data)] })) ∧
        (∀ b, Tab.get none s.borders n = some b →
          (inWindow k.seq b.seq = false → drops) ∧
          (inWindow k.seq b.seq = true → b.held.any (fun h => h.1 == k.seq) = true →
            exec .circuitDataReceive s = .next { s with inbox := rest }) ∧
          (inWindow k.seq b.seq = true → b.held.any (fun h => h.1 == k.seq) = false →
            (b.words ≠ [] → ∃ u, exec .circuitDataReceive s = .next u ∧ sameMemory s u ∧ u.inbox = rest ∧
              Tab.get none u.borders n = some { b with held := b.held ++ [(k.seq, k.src, wordsOf k.data)] }) ∧
            (∀ z, b.words = [] → s.load b.load = some z → z.st = .running → k.seq = b.seq →
              ∃ u, exec .circuitDataReceive s = .next u ∧ sameMemory s u ∧ u.inbox = rest ∧
                Tab.get none u.borders n = some { b with words := wordsOf k.data, seq := (b.seq + 1) % 65536 })))) ∧
      (∀ b n, takeFrom (fun n => n == 7) s.inbox = some (port, k, rest) → Tab.get none s.borders n = some b →
        ∃ u, exec .circuitCreditReceive s = .next u ∧ sameMemory s u ∧ u.inbox = rest ∧
          Tab.get none u.borders n = some (if bit b.entry 25 = false ∧ bits b.entry 50 10 = k.src ∧ bits b.entry 38 12 = k.circ
            then { b with open_ := b.open_.filter (fun m => m != k.seq) } else b))) ∧
    (∀ tag r, Tab.get none s.remotes tag = some r → s.running = true → r.sent + s.reqTo ≤ s.cycle →
      let new := { s with remotes := Tab.set none s.remotes tag none }.newTag
      (r.tries = 0 → ∃ u q, exec (.requestTimeout tag) s = .next u ∧ sameMemory s u ∧
        (new ≠ tag → Tab.get none u.remotes tag = none) ∧ Tab.get none u.remotes new = some q ∧ q.tries = 1 ∧
        q.sent = s.cycle ∧ q.who = r.who ∧ q.a = r.a ∧ q.b = r.b ∧ q.pkt.addr = r.pkt.addr ∧ q.pkt.kind = r.pkt.kind ∧
        q.pkt.data = r.pkt.data) ∧
      (r.tries ≠ 0 → r.who = 1 → ∀ i e, (s.core r.a).wcb.findIdx? (fun e => e.tag == tag + 1 &&
          decide (2 ^ 59 ≤ e.line * 64) == false) = some i → (s.core r.a).wcb[i]? = some e → (s.slot e.slot).sync = none →
        ∃ u, exec (.requestTimeout tag) s = .next u ∧ sameMemory s u ∧ Tab.get none u.remotes tag = none ∧
          (u.core r.a).wcb = dropNth (s.core r.a).wcb i ∧
          s.hears u e.slot { cause := 0x17, tval := e.va, src := 0 }))

/-! ## Reset, invariants and words -/

/-- 15 R312 to R323: words that the spec writes out, one or more of every format, and illegal words of Table 15-9. -/
def Obligations.DecodesSpecWords : Prop :=
  decode 0x04642800 = some (.add 3 4 5) ∧ decode 0x10C6FFFF = some (.addi 6 6 0xFFFF) ∧
    decode 0x2CA189AB = some (.lui 5 1 0x89AB) ∧ decode 0x34C50C1C = some (.extr 6 5 12 7) ∧
    decode 0x44C0FFFC = some (.bne 6 0 0xFFFC) ∧ decode 0x58000002 = some (.jal 2) ∧ decode 0x5C1F0000 = some (.jalr 31 0) ∧
    decode 0x78A44002 = some (.ldD 5 4 2 0 2) ∧ decode 0x7CC40001 = some (.ldX 3 4 0 0 1) ∧
    decode 0x8C282000 = some (.stD 1 8 1 0 0) ∧ decode 0x94242001 = some (.pf 1 4 1 0 1) ∧
    decode 0x9865202B = some (.amoAdd 3 5 4 1 2 1) ∧ decode 0x9865058B = some (.adecz 3 5 0 2 1) ∧
    decode 0x9C104800 = some (.fenceAcq 2 9) ∧ decode 0xA0000003 = some (.l1inv 3) ∧
    decode 0xA4853002 = some (.waitwNe 4 5 6 0) ∧ decode 0xB0053080 = some (.qpush 0 5 3 0 1) ∧
    decode 0xB0E01A83 = some (.bqpop 7 1 1 3) ∧ decode 0xC40C6810 = some (.sect 12 13) ∧
    decode 0xC8642820 = some (.tspawn 3 4 5) ∧ decode 0xF0000005 = some (.trap 5) ∧
    decode 0xF0C74000 = some (.crs 6 7 0) ∧ decode 0xF0856008 = some (.tlbinv 4 5 1 0) ∧
    decode 0 = none ∧ decode 0xB0000E00 = none ∧ decode 0x70C71800 = none

/-- Reset values that the spec gives (01 R26 and Tables 01-5, 01-6; 03 R59, Table 03-10; 04 Tables 04-1 to 04-6; 05 Tables 05-4, 05-6; 06 Tables 06-1,
06-9, 06-10; 07 Table 07-9; 12 Table 12-2; 19 Table 19-4), and that the invariants of the two statements below hold. -/
def Obligations.ResetState : Prop :=
  let s := State.reset
  memoryLegal s = true ∧ modesLegal s = true ∧ (∀ a, Mem.read s.mem a = 0) ∧ (∀ l, Tab.get false s.poison l = false) ∧
    s.prov = [] ∧ (∀ l, s.load l = none) ∧ (∀ n, s.task n = none) ∧ s.cycle = 0 ∧
    (∀ k, (s.slot k).st = .free ∧ (s.slot k).tstat = 0 ∧ (s.slot k).tcause = 0 ∧ (s.slot k).tepc = 0 ∧ (s.slot k).tval = 0 ∧
      (s.slot k).tscratch = 0 ∧ (s.slot k).asid = 0 ∧ (s.slot k).ptbase = 0 ∧ (s.slot k).timecmp = 0xFFFFFFFFFFFFFFFF ∧
      (s.slot k).qctl = 0 ∧ (s.slot k).decthr = 0 ∧ (s.slot k).blkthr = 0x100000 ∧ (s.slot k).pltimeout = 0x3E8 ∧
      (s.slot k).errinj = 0 ∧ (s.slot k).pend = [] ∧ ∀ q, (s.slot k).bind q = none) ∧
    (∀ c, (s.core c).tvec = 0 ∧ (s.core c).mtvec = 0 ∧ (s.core c).tfbase = 0 ∧ (s.core c).wcb = [] ∧ (s.core c).engq = [] ∧
      ∀ n, s.stream c n = none ∧ s.copy c n = none) ∧
    (∀ q, (s.tq q).qcfg = 0 ∧ (s.tq q).qspill = 0 ∧ (s.tq q).qptb = 0 ∧ (s.tq q).qerr = 0 ∧ (s.tq q).started = 0 ∧
      (s.tq q).done = 0 ∧ (s.tq q).stored = [] ∧ (s.tq q).drops = 0 ∧ (s.tq q).accept = 0) ∧
    (∀ d, (s.die d).ageint = 0x32 ∧ (s.die d).compen = true ∧ (s.die d).plto = 0x3E8 ∧ (s.die d).sepcore = false ∧
      (s.die d).tenhbm = 0xFFFFFFFFFFFF ∧ (s.die d).fqbase = 0 ∧ (s.die d).fqhead = 0 ∧ (s.die d).fqtail = 0 ∧
      (s.die d).fqlost = 0 ∧ (s.die d).total = 0 ∧ (s.die d).loadstat = 0 ∧
      ∀ m, (Tab.get Monitor.reset (s.die d).mons m).sel = 0 ∧
        (Tab.get Monitor.reset (s.die d).mons m).min_ = 0xFFFFFFFFFFFFFFFF) ∧
    s.pkg.devState = 0 ∧ s.pkg.errCode = 0 ∧ s.pkg.rootCtl = 0 ∧ s.pkg.persist = 0 ∧ s.pkg.hostUr = 0 ∧ s.pkg.fclk = 0x34 ∧
    s.pkg.steps = 0 ∧ s.pkg.pcause = 0

/-- An invariant of the model: whatever the turn, the step leaves memory in its canonical form, so that equal memories are equal data. (The form
is the model's; 01 R16 to R18 and 06 R121 give what the bytes are.) -/
def Obligations.MemoryStaysCanonical : Prop :=
  ∀ s t : State, memoryLegal s = true → step s = .next t → memoryLegal t = true

/-- 19 Table 19-4 (MODE and PMODE are 0, 1 or 2) and R402, R403, R406: no step, a trap, a return, a control-register write, a spawn, a rollback and a restore among
them, gives a thread a mode that does not exist. (That a saved PMODE of 3 leaves PMODE is the model's reading: log 18.) -/
def Obligations.ModesStayLegal : Prop :=
  ∀ s t : State, modesLegal s = true → step s = .next t → modesLegal t = true
end

