-- ==== Sys2Proof/Laws/Decode.lean ====
section
/-! SUPPORT. Reading a field of a packed word: what a proof that decoding inverts encoding cites. -/

namespace Sys2Proof

theorem pack_cons (v w : Nat) (r : List (Nat × Nat)) : pack ((v, w) :: r) = v % 2 ^ w + 2 ^ w * pack r := rfl

/-- A field above the first packed one is a field of the rest. -/
theorem fld_pack_skip (v w lo n : Nat) (r : List (Nat × Nat)) (h : w ≤ lo) :
    fld (pack ((v, w) :: r)) lo n = fld (pack r) (lo - w) n := by
  obtain ⟨k, rfl⟩ := Nat.exists_eq_add_of_le h
  have hw : 0 < 2 ^ w := Nat.two_pow_pos w
  rw [pack_cons, fld, fld, Nat.pow_add, ← Nat.div_div_eq_div_mul, Nat.add_mul_div_left _ _ hw,
    Nat.div_eq_of_lt (Nat.mod_lt _ hw), Nat.zero_add, Nat.add_sub_cancel_left]

/-- The first packed field, read whole. -/
theorem fld_pack_head (v w : Nat) (r : List (Nat × Nat)) : fld (pack ((v, w) :: r)) 0 w = v % 2 ^ w := by
  rw [pack_cons, fld]
  simp [Nat.add_mul_mod_self_left]

/-- A field within the first packed one. -/
theorem fld_pack_inside (v w lo n : Nat) (r : List (Nat × Nat)) (h : lo + n ≤ w) :
    fld (pack ((v, w) :: r)) lo n = fld v lo n := by
  obtain ⟨k, rfl⟩ := Nat.exists_eq_add_of_le h
  have e : v % 2 ^ (lo + n + k) + 2 ^ (lo + n + k) * pack r
      = v % 2 ^ (lo + n + k) + 2 ^ lo * (2 ^ n * (2 ^ k * pack r)) := by
    simp [Nat.pow_add, Nat.mul_assoc]
  rw [pack_cons, fld, fld, e, Nat.add_mul_div_left _ _ (Nat.two_pow_pos lo), Nat.add_mul_mod_self_left,
    show lo + n + k = lo + (n + k) by omega, Nat.pow_add, Nat.mod_mul_right_div_self, Nat.pow_add,
    Nat.mod_mul_right_mod]

/-- A field that takes in the first packed one and goes on. -/
theorem fld_pack_split (v w n : Nat) (r : List (Nat × Nat)) (h : w ≤ n) :
    fld (pack ((v, w) :: r)) 0 n = v % 2 ^ w + 2 ^ w * fld (pack r) 0 (n - w) := by
  obtain ⟨k, rfl⟩ := Nat.exists_eq_add_of_le h
  have hw : 0 < 2 ^ w := Nat.two_pow_pos w
  rw [pack_cons, fld, fld]
  simp only [Nat.pow_zero, Nat.div_one, Nat.add_sub_cancel_left, Nat.pow_add, Nat.mod_mul,
    Nat.add_mul_mod_self_left, Nat.mod_mod]
  rw [Nat.add_mul_div_left _ _ hw, Nat.div_eq_of_lt (Nat.mod_lt _ hw), Nat.zero_add]

end Sys2Proof
end

