-- ==== Sys2Proof/Laws/Tab.lean ====
section
/-! SUPPORT. Sparse tables and memory: what a key reads as after a write, and that every operation keeps the canonical
form. -/

namespace Sys2Proof.Machine

/-! ## Reading after a write -/

theorem Tab.get_del_same {α : Type} (d : α) (t : Tab α) (k : Nat) : Tab.get d (Tab.del t k) k = d := by
  induction t with
  | nil => rfl
  | cons e r ih =>
    obtain ⟨k', v⟩ := e
    by_cases h : k' = k <;> simp [Tab.del, Tab.get, h, ih]

theorem Tab.get_del_ne {α : Type} (d : α) (t : Tab α) {k j : Nat} (h : j ≠ k) :
    Tab.get d (Tab.del t k) j = Tab.get d t j := by
  induction t with
  | nil => rfl
  | cons e r ih =>
    obtain ⟨k', v⟩ := e
    by_cases hk : k' = k
    · subst hk
      simp [Tab.del, Tab.get, ih, Ne.symm h]
    · simp only [Tab.del, Tab.get, hk, if_false, ih]

theorem Tab.get_ins_same {α : Type} (d : α) (t : Tab α) (k : Nat) (v : α) :
    Tab.get d (Tab.ins (Tab.del t k) k v) k = v := by
  induction t with
  | nil => simp [Tab.del, Tab.ins, Tab.get]
  | cons e r ih =>
    obtain ⟨k', w⟩ := e
    by_cases hk : k' = k
    · simp only [Tab.del, hk, if_true, ih]
    · simp only [Tab.del, hk, if_false, Tab.ins]
      split
      · simp [Tab.get]
      · simp only [Tab.get, hk, if_false, ih]

theorem Tab.get_ins_ne {α : Type} (d : α) (t : Tab α) {k j : Nat} (v : α) (h : j ≠ k) :
    Tab.get d (Tab.ins t k v) j = Tab.get d t j := by
  induction t with
  | nil => simp [Tab.ins, Tab.get, Ne.symm h]
  | cons e r ih =>
    obtain ⟨k', w⟩ := e
    simp only [Tab.ins]
    split
    · simp [Tab.get, Ne.symm h]
    · simp only [Tab.get, ih]

/-- A key reads as what was last written to it. -/
theorem Tab.get_set_same {α : Type} [DecidableEq α] (d : α) (t : Tab α) (k : Nat) (v : α) :
    Tab.get d (Tab.set d t k v) k = v := by
  unfold Tab.set
  split
  · next h => rw [Tab.get_del_same, h]
  · rw [Tab.get_ins_same]

/-- A write of a key leaves every other key alone. -/
theorem Tab.get_set_ne {α : Type} [DecidableEq α] (d : α) (t : Tab α) {k j : Nat} (v : α) (h : j ≠ k) :
    Tab.get d (Tab.set d t k v) j = Tab.get d t j := by
  unfold Tab.set
  split
  · rw [Tab.get_del_ne d t h]
  · rw [Tab.get_ins_ne d _ v h, Tab.get_del_ne d t h]

/-- Both at once. -/
theorem Tab.get_set {α : Type} [DecidableEq α] (d : α) (t : Tab α) (k j : Nat) (v : α) :
    Tab.get d (Tab.set d t k v) j = if j = k then v else Tab.get d t j := by
  split
  · next h => rw [h, Tab.get_set_same]
  · next h => rw [Tab.get_set_ne d t v h]

/-! ## The canonical form -/

theorem Tab.wfFrom_weaken {α : Type} [DecidableEq α] (d : α) (t : Tab α) {lo lo' : Nat} (h : lo' ≤ lo)
    (w : Tab.wfFrom d lo t = true) : Tab.wfFrom d lo' t = true := by
  cases t with
  | nil => rfl
  | cons e r =>
    obtain ⟨k, v⟩ := e
    simp only [Tab.wfFrom, Bool.and_eq_true, decide_eq_true_eq] at w ⊢
    exact ⟨⟨Nat.le_trans h w.1.1, w.1.2⟩, w.2⟩

/-- A canonical table above k does not list k. -/
theorem Tab.del_above {α : Type} [DecidableEq α] (d : α) (t : Tab α) {lo k : Nat} (h : k < lo)
    (w : Tab.wfFrom d lo t = true) : Tab.del t k = t := by
  induction t generalizing lo with
  | nil => rfl
  | cons e r ih =>
    obtain ⟨k', v⟩ := e
    simp only [Tab.wfFrom, Bool.and_eq_true, decide_eq_true_eq] at w
    have hk : k' ≠ k := by omega
    simp only [Tab.del, hk, if_false, ih (by omega : k < k' + 1) w.2]

theorem Tab.wfFrom_del {α : Type} [DecidableEq α] (d : α) (t : Tab α) (k lo : Nat)
    (w : Tab.wfFrom d lo t = true) : Tab.wfFrom d lo (Tab.del t k) = true := by
  induction t generalizing lo with
  | nil => rfl
  | cons e r ih =>
    obtain ⟨k', v⟩ := e
    simp only [Tab.wfFrom, Bool.and_eq_true, decide_eq_true_eq] at w
    simp only [Tab.del]
    split
    · exact Tab.wfFrom_weaken d _ (by omega) (ih _ w.2)
    · simp only [Tab.wfFrom, Bool.and_eq_true, decide_eq_true_eq]
      exact ⟨w.1, ih _ w.2⟩

theorem Tab.wfFrom_ins {α : Type} [DecidableEq α] (d : α) (t : Tab α) (k lo : Nat) (v : α) (hv : v ≠ d) (hk : lo ≤ k)
    (w : Tab.wfFrom d lo t = true) : Tab.wfFrom d lo (Tab.ins (Tab.del t k) k v) = true := by
  induction t generalizing lo with
  | nil => simp [Tab.del, Tab.ins, Tab.wfFrom, hv, hk]
  | cons e r ih =>
    obtain ⟨k', u⟩ := e
    simp only [Tab.wfFrom, Bool.and_eq_true, decide_eq_true_eq] at w
    simp only [Tab.del]
    split
    · next h => exact ih lo hk (Tab.wfFrom_weaken d _ (by omega) w.2)
    · next h =>
      simp only [Tab.ins]
      split
      · next hlt =>
        rw [Tab.del_above d r (Nat.lt_succ_of_lt hlt) w.2]
        simp only [Tab.wfFrom, Bool.and_eq_true, decide_eq_true_eq]
        exact ⟨⟨hk, by simp [hv]⟩, ⟨by omega, w.1.2⟩, w.2⟩
      · next hlt =>
        simp only [Tab.wfFrom, Bool.and_eq_true, decide_eq_true_eq]
        exact ⟨w.1, ih _ (by omega) w.2⟩

/-- A write keeps the canonical form of a table. -/
theorem Tab.wf_set {α : Type} [DecidableEq α] (d : α) (t : Tab α) (k : Nat) (v : α) (w : Tab.wf d t = true) :
    Tab.wf d (Tab.set d t k v) = true := by
  unfold Tab.wf Tab.set at *
  split
  · exact Tab.wfFrom_del d t k 0 w
  · next h => exact Tab.wfFrom_ins d t k 0 v h (Nat.zero_le k) w

/-! ## Memory -/

theorem Mem.read_write (m : Mem) (a b : Nat) (v : Byte) :
    Mem.read (Mem.write m a v) b = if b = a then v else Mem.read m b := Tab.get_set 0 m a b v

theorem Mem.wf_write (m : Mem) (a : Nat) (v : Byte) (w : Mem.wf m = true) : Mem.wf (Mem.write m a v) = true :=
  Tab.wf_set 0 m a v w

theorem Mem.wf_writeN (m : Mem) (a n v : Nat) (w : Mem.wf m = true) : Mem.wf (Mem.writeN m a n v) = true := by
  induction n generalizing m a v with
  | zero => exact w
  | succ n ih => exact ih _ _ _ (Mem.wf_write m a _ w)

/-- A byte outside a wide write reads as before. -/
theorem Mem.read_writeN_out (m : Mem) (a n v b : Nat) (h : b < a ∨ a + n ≤ b) :
    Mem.read (Mem.writeN m a n v) b = Mem.read m b := by
  induction n generalizing m a v with
  | zero => rfl
  | succ n ih =>
    rw [Mem.writeN, ih _ _ _ (by omega), Mem.read_write, if_neg (by omega)]

/-- A byte of a wide write reads as its byte of the value. -/
theorem Mem.read_writeN_in (m : Mem) (a n v i : Nat) (h : i < n) :
    Mem.read (Mem.writeN m a n v) (a + i) = BitVec.ofNat 8 (v / 256 ^ i) := by
  induction n generalizing m a v i with
  | zero => omega
  | succ n ih =>
    cases i with
    | zero => rw [Mem.writeN, Mem.read_writeN_out _ _ _ _ _ (by omega), Mem.read_write]; simp
    | succ i =>
      rw [Mem.writeN, show a + (i + 1) = a + 1 + i by omega, ih _ _ _ _ (by omega), Nat.pow_succ, Nat.mul_comm,
        Nat.div_div_eq_div_mul]

/-- A wide read after a wide write of the same bytes gives the value. -/
theorem Mem.readN_writeN (m : Mem) (a n v : Nat) : Mem.readN (Mem.writeN m a n v) a n = v % 256 ^ n := by
  induction n generalizing m a v with
  | zero => simp [Mem.readN, Nat.mod_one]
  | succ n ih =>
    rw [Mem.readN, Mem.writeN, Mem.read_writeN_out _ _ _ _ _ (by omega), ih, Mem.read_write, if_pos rfl,
      BitVec.toNat_ofNat, show (2 : Nat) ^ 8 = 256 from rfl, Nat.pow_succ, Nat.mul_comm (256 ^ n), Nat.mod_mul]

theorem Mem.wf_writeD (m : Mem) (a : Nat) (v : Word) (w : Mem.wf m = true) : Mem.wf (Mem.writeD m a v) = true :=
  Mem.wf_writeN m a 8 _ w

theorem Mem.readD_writeD (m : Mem) (a : Nat) (v : Word) : Mem.readD (Mem.writeD m a v) a = v := by
  unfold Mem.readD Mem.writeD
  rw [Mem.readN_writeN]
  apply BitVec.eq_of_toNat_eq
  have h : v.toNat % 256 ^ 8 = v.toNat := Nat.mod_eq_of_lt (Nat.lt_of_lt_of_le v.isLt (by decide))
  rw [BitVec.toNat_ofNat, h, Nat.mod_eq_of_lt v.isLt]

end Sys2Proof.Machine
end

