-- ==== Sys2Proof/Laws/State.lean ====
section
/-! SUPPORT. One lemma for each field of the state and each update of it, and what the entry that an update writes reads
as. -/

namespace Sys2Proof.Machine

/-! ## setSlot -/

@[simp] theorem State.setSlot_agenda (s : State) (k : Nat) (x : Slot) : (s.setSlot k x).agenda = s.agenda := rfl
@[simp] theorem State.setSlot_cur (s : State) (k : Nat) (x : Slot) : (s.setSlot k x).cur = s.cur := rfl
@[simp] theorem State.setSlot_pos (s : State) (k : Nat) (x : Slot) : (s.setSlot k x).pos = s.pos := rfl
@[simp] theorem State.setSlot_clock (s : State) (k : Nat) (x : Slot) : (s.setSlot k x).clock = s.clock := rfl
@[simp] theorem State.setSlot_cycle (s : State) (k : Nat) (x : Slot) : (s.setSlot k x).cycle = s.cycle := rfl
@[simp] theorem State.setSlot_fab (s : State) (k : Nat) (x : Slot) : (s.setSlot k x).fab = s.fab := rfl
@[simp] theorem State.setSlot_net (s : State) (k : Nat) (x : Slot) : (s.setSlot k x).net = s.net := rfl
@[simp] theorem State.setSlot_fabPh (s : State) (k : Nat) (x : Slot) : (s.setSlot k x).fabPh = s.fabPh := rfl
@[simp] theorem State.setSlot_netPh (s : State) (k : Nat) (x : Slot) : (s.setSlot k x).netPh = s.netPh := rfl
@[simp] theorem State.setSlot_pkg (s : State) (k : Nat) (x : Slot) : (s.setSlot k x).pkg = s.pkg := rfl
@[simp] theorem State.setSlot_mem (s : State) (k : Nat) (x : Slot) : (s.setSlot k x).mem = s.mem := rfl
@[simp] theorem State.setSlot_poison (s : State) (k : Nat) (x : Slot) : (s.setSlot k x).poison = s.poison := rfl
@[simp] theorem State.setSlot_prov (s : State) (k : Nat) (x : Slot) : (s.setSlot k x).prov = s.prov := rfl
@[simp] theorem State.setSlot_cores (s : State) (k : Nat) (x : Slot) : (s.setSlot k x).cores = s.cores := rfl
@[simp] theorem State.setSlot_dies (s : State) (k : Nat) (x : Slot) : (s.setSlot k x).dies = s.dies := rfl
@[simp] theorem State.setSlot_tqs (s : State) (k : Nat) (x : Slot) : (s.setSlot k x).tqs = s.tqs := rfl
@[simp] theorem State.setSlot_tasks (s : State) (k : Nat) (x : Slot) : (s.setSlot k x).tasks = s.tasks := rfl
@[simp] theorem State.setSlot_nTask (s : State) (k : Nat) (x : Slot) : (s.setSlot k x).nTask = s.nTask := rfl
@[simp] theorem State.setSlot_queues (s : State) (k : Nat) (x : Slot) : (s.setSlot k x).queues = s.queues := rfl
@[simp] theorem State.setSlot_loads (s : State) (k : Nat) (x : Slot) : (s.setSlot k x).loads = s.loads := rfl
@[simp] theorem State.setSlot_tiles (s : State) (k : Nat) (x : Slot) : (s.setSlot k x).tiles = s.tiles := rfl
@[simp] theorem State.setSlot_ports (s : State) (k : Nat) (x : Slot) : (s.setSlot k x).ports = s.ports := rfl
@[simp] theorem State.setSlot_droute (s : State) (k : Nat) (x : Slot) : (s.setSlot k x).droute = s.droute := rfl
@[simp] theorem State.setSlot_msix (s : State) (k : Nat) (x : Slot) : (s.setSlot k x).msix = s.msix := rfl
@[simp] theorem State.setSlot_msixP (s : State) (k : Nat) (x : Slot) : (s.setSlot k x).msixP = s.msixP := rfl
@[simp] theorem State.setSlot_inbox (s : State) (k : Nat) (x : Slot) : (s.setSlot k x).inbox = s.inbox := rfl
@[simp] theorem State.setSlot_remotes (s : State) (k : Nat) (x : Slot) : (s.setSlot k x).remotes = s.remotes := rfl
@[simp] theorem State.setSlot_nTag (s : State) (k : Nat) (x : Slot) : (s.setSlot k x).nTag = s.nTag := rfl
@[simp] theorem State.setSlot_nStep (s : State) (k : Nat) (x : Slot) : (s.setSlot k x).nStep = s.nStep := rfl
@[simp] theorem State.setSlot_served (s : State) (k : Nat) (x : Slot) : (s.setSlot k x).served = s.served := rfl
@[simp] theorem State.setSlot_hostRq (s : State) (k : Nat) (x : Slot) : (s.setSlot k x).hostRq = s.hostRq := rfl
@[simp] theorem State.setSlot_nHost (s : State) (k : Nat) (x : Slot) : (s.setSlot k x).nHost = s.nHost := rfl
@[simp] theorem State.setSlot_snoop (s : State) (k : Nat) (x : Slot) : (s.setSlot k x).snoop = s.snoop := rfl
@[simp] theorem State.setSlot_snooped (s : State) (k : Nat) (x : Slot) : (s.setSlot k x).snooped = s.snooped := rfl
@[simp] theorem State.setSlot_borders (s : State) (k : Nat) (x : Slot) : (s.setSlot k x).borders = s.borders := rfl
@[simp] theorem State.setSlot_early (s : State) (k : Nat) (x : Slot) : (s.setSlot k x).early = s.early := rfl
@[simp] theorem State.setSlot_tests (s : State) (k : Nat) (x : Slot) : (s.setSlot k x).tests = s.tests := rfl
@[simp] theorem State.setSlot_upsets (s : State) (k : Nat) (x : Slot) : (s.setSlot k x).upsets = s.upsets := rfl
@[simp] theorem State.setSlot_memHeld (s : State) (k : Nat) (x : Slot) : (s.setSlot k x).memHeld = s.memHeld := rfl
@[simp] theorem State.setSlot_nTest (s : State) (k : Nat) (x : Slot) : (s.setSlot k x).nTest = s.nTest := rfl
@[simp] theorem State.setSlot_probes (s : State) (k : Nat) (x : Slot) : (s.setSlot k x).probes = s.probes := rfl
@[simp] theorem State.setSlot_nProbe (s : State) (k : Nat) (x : Slot) : (s.setSlot k x).nProbe = s.nProbe := rfl
@[simp] theorem State.setSlot_compact (s : State) (k : Nat) (x : Slot) : (s.setSlot k x).compact = s.compact := rfl
@[simp] theorem State.setSlot_sweepAt (s : State) (k : Nat) (x : Slot) : (s.setSlot k x).sweepAt = s.sweepAt := rfl
@[simp] theorem State.setSlot_fresh (s : State) (k : Nat) (x : Slot) : (s.setSlot k x).fresh = s.fresh := rfl
@[simp] theorem State.setSlot_out (s : State) (k : Nat) (x : Slot) : (s.setSlot k x).out = s.out := rfl
@[simp] theorem State.setSlot_core_at (s : State) (k : Nat) (x : Slot) (i : Nat) : (s.setSlot k x).core i = s.core i := rfl
@[simp] theorem State.setSlot_die_at (s : State) (k : Nat) (x : Slot) (i : Nat) : (s.setSlot k x).die i = s.die i := rfl
@[simp] theorem State.setSlot_tq_at (s : State) (k : Nat) (x : Slot) (i : Nat) : (s.setSlot k x).tq i = s.tq i := rfl
@[simp] theorem State.setSlot_queue_at (s : State) (k : Nat) (x : Slot) (i : Nat) : (s.setSlot k x).queue i = s.queue i := rfl
@[simp] theorem State.setSlot_tile_at (s : State) (k : Nat) (x : Slot) (i : Nat) : (s.setSlot k x).tile i = s.tile i := rfl
@[simp] theorem State.setSlot_port_at (s : State) (k : Nat) (x : Slot) (i : Nat) : (s.setSlot k x).port i = s.port i := rfl
@[simp] theorem State.setSlot_load_at (s : State) (k : Nat) (x : Slot) (i : Nat) : (s.setSlot k x).load i = s.load i := rfl
@[simp] theorem State.setSlot_task_at (s : State) (k : Nat) (x : Slot) (i : Nat) : (s.setSlot k x).task i = s.task i := rfl

/-! ## setCore -/

@[simp] theorem State.setCore_agenda (s : State) (c : Nat) (x : Core) : (s.setCore c x).agenda = s.agenda := rfl
@[simp] theorem State.setCore_cur (s : State) (c : Nat) (x : Core) : (s.setCore c x).cur = s.cur := rfl
@[simp] theorem State.setCore_pos (s : State) (c : Nat) (x : Core) : (s.setCore c x).pos = s.pos := rfl
@[simp] theorem State.setCore_clock (s : State) (c : Nat) (x : Core) : (s.setCore c x).clock = s.clock := rfl
@[simp] theorem State.setCore_cycle (s : State) (c : Nat) (x : Core) : (s.setCore c x).cycle = s.cycle := rfl
@[simp] theorem State.setCore_fab (s : State) (c : Nat) (x : Core) : (s.setCore c x).fab = s.fab := rfl
@[simp] theorem State.setCore_net (s : State) (c : Nat) (x : Core) : (s.setCore c x).net = s.net := rfl
@[simp] theorem State.setCore_fabPh (s : State) (c : Nat) (x : Core) : (s.setCore c x).fabPh = s.fabPh := rfl
@[simp] theorem State.setCore_netPh (s : State) (c : Nat) (x : Core) : (s.setCore c x).netPh = s.netPh := rfl
@[simp] theorem State.setCore_pkg (s : State) (c : Nat) (x : Core) : (s.setCore c x).pkg = s.pkg := rfl
@[simp] theorem State.setCore_mem (s : State) (c : Nat) (x : Core) : (s.setCore c x).mem = s.mem := rfl
@[simp] theorem State.setCore_poison (s : State) (c : Nat) (x : Core) : (s.setCore c x).poison = s.poison := rfl
@[simp] theorem State.setCore_prov (s : State) (c : Nat) (x : Core) : (s.setCore c x).prov = s.prov := rfl
@[simp] theorem State.setCore_slots (s : State) (c : Nat) (x : Core) : (s.setCore c x).slots = s.slots := rfl
@[simp] theorem State.setCore_dies (s : State) (c : Nat) (x : Core) : (s.setCore c x).dies = s.dies := rfl
@[simp] theorem State.setCore_tqs (s : State) (c : Nat) (x : Core) : (s.setCore c x).tqs = s.tqs := rfl
@[simp] theorem State.setCore_tasks (s : State) (c : Nat) (x : Core) : (s.setCore c x).tasks = s.tasks := rfl
@[simp] theorem State.setCore_nTask (s : State) (c : Nat) (x : Core) : (s.setCore c x).nTask = s.nTask := rfl
@[simp] theorem State.setCore_queues (s : State) (c : Nat) (x : Core) : (s.setCore c x).queues = s.queues := rfl
@[simp] theorem State.setCore_loads (s : State) (c : Nat) (x : Core) : (s.setCore c x).loads = s.loads := rfl
@[simp] theorem State.setCore_tiles (s : State) (c : Nat) (x : Core) : (s.setCore c x).tiles = s.tiles := rfl
@[simp] theorem State.setCore_ports (s : State) (c : Nat) (x : Core) : (s.setCore c x).ports = s.ports := rfl
@[simp] theorem State.setCore_droute (s : State) (c : Nat) (x : Core) : (s.setCore c x).droute = s.droute := rfl
@[simp] theorem State.setCore_msix (s : State) (c : Nat) (x : Core) : (s.setCore c x).msix = s.msix := rfl
@[simp] theorem State.setCore_msixP (s : State) (c : Nat) (x : Core) : (s.setCore c x).msixP = s.msixP := rfl
@[simp] theorem State.setCore_inbox (s : State) (c : Nat) (x : Core) : (s.setCore c x).inbox = s.inbox := rfl
@[simp] theorem State.setCore_remotes (s : State) (c : Nat) (x : Core) : (s.setCore c x).remotes = s.remotes := rfl
@[simp] theorem State.setCore_nTag (s : State) (c : Nat) (x : Core) : (s.setCore c x).nTag = s.nTag := rfl
@[simp] theorem State.setCore_nStep (s : State) (c : Nat) (x : Core) : (s.setCore c x).nStep = s.nStep := rfl
@[simp] theorem State.setCore_served (s : State) (c : Nat) (x : Core) : (s.setCore c x).served = s.served := rfl
@[simp] theorem State.setCore_hostRq (s : State) (c : Nat) (x : Core) : (s.setCore c x).hostRq = s.hostRq := rfl
@[simp] theorem State.setCore_nHost (s : State) (c : Nat) (x : Core) : (s.setCore c x).nHost = s.nHost := rfl
@[simp] theorem State.setCore_snoop (s : State) (c : Nat) (x : Core) : (s.setCore c x).snoop = s.snoop := rfl
@[simp] theorem State.setCore_snooped (s : State) (c : Nat) (x : Core) : (s.setCore c x).snooped = s.snooped := rfl
@[simp] theorem State.setCore_borders (s : State) (c : Nat) (x : Core) : (s.setCore c x).borders = s.borders := rfl
@[simp] theorem State.setCore_early (s : State) (c : Nat) (x : Core) : (s.setCore c x).early = s.early := rfl
@[simp] theorem State.setCore_tests (s : State) (c : Nat) (x : Core) : (s.setCore c x).tests = s.tests := rfl
@[simp] theorem State.setCore_upsets (s : State) (c : Nat) (x : Core) : (s.setCore c x).upsets = s.upsets := rfl
@[simp] theorem State.setCore_memHeld (s : State) (c : Nat) (x : Core) : (s.setCore c x).memHeld = s.memHeld := rfl
@[simp] theorem State.setCore_nTest (s : State) (c : Nat) (x : Core) : (s.setCore c x).nTest = s.nTest := rfl
@[simp] theorem State.setCore_probes (s : State) (c : Nat) (x : Core) : (s.setCore c x).probes = s.probes := rfl
@[simp] theorem State.setCore_nProbe (s : State) (c : Nat) (x : Core) : (s.setCore c x).nProbe = s.nProbe := rfl
@[simp] theorem State.setCore_compact (s : State) (c : Nat) (x : Core) : (s.setCore c x).compact = s.compact := rfl
@[simp] theorem State.setCore_sweepAt (s : State) (c : Nat) (x : Core) : (s.setCore c x).sweepAt = s.sweepAt := rfl
@[simp] theorem State.setCore_fresh (s : State) (c : Nat) (x : Core) : (s.setCore c x).fresh = s.fresh := rfl
@[simp] theorem State.setCore_out (s : State) (c : Nat) (x : Core) : (s.setCore c x).out = s.out := rfl
@[simp] theorem State.setCore_slot_at (s : State) (c : Nat) (x : Core) (i : Nat) : (s.setCore c x).slot i = s.slot i := rfl
@[simp] theorem State.setCore_die_at (s : State) (c : Nat) (x : Core) (i : Nat) : (s.setCore c x).die i = s.die i := rfl
@[simp] theorem State.setCore_tq_at (s : State) (c : Nat) (x : Core) (i : Nat) : (s.setCore c x).tq i = s.tq i := rfl
@[simp] theorem State.setCore_queue_at (s : State) (c : Nat) (x : Core) (i : Nat) : (s.setCore c x).queue i = s.queue i := rfl
@[simp] theorem State.setCore_tile_at (s : State) (c : Nat) (x : Core) (i : Nat) : (s.setCore c x).tile i = s.tile i := rfl
@[simp] theorem State.setCore_port_at (s : State) (c : Nat) (x : Core) (i : Nat) : (s.setCore c x).port i = s.port i := rfl
@[simp] theorem State.setCore_load_at (s : State) (c : Nat) (x : Core) (i : Nat) : (s.setCore c x).load i = s.load i := rfl
@[simp] theorem State.setCore_task_at (s : State) (c : Nat) (x : Core) (i : Nat) : (s.setCore c x).task i = s.task i := rfl

/-! ## setDie -/

@[simp] theorem State.setDie_agenda (s : State) (d : Nat) (x : Die) : (s.setDie d x).agenda = s.agenda := rfl
@[simp] theorem State.setDie_cur (s : State) (d : Nat) (x : Die) : (s.setDie d x).cur = s.cur := rfl
@[simp] theorem State.setDie_pos (s : State) (d : Nat) (x : Die) : (s.setDie d x).pos = s.pos := rfl
@[simp] theorem State.setDie_clock (s : State) (d : Nat) (x : Die) : (s.setDie d x).clock = s.clock := rfl
@[simp] theorem State.setDie_cycle (s : State) (d : Nat) (x : Die) : (s.setDie d x).cycle = s.cycle := rfl
@[simp] theorem State.setDie_fab (s : State) (d : Nat) (x : Die) : (s.setDie d x).fab = s.fab := rfl
@[simp] theorem State.setDie_net (s : State) (d : Nat) (x : Die) : (s.setDie d x).net = s.net := rfl
@[simp] theorem State.setDie_fabPh (s : State) (d : Nat) (x : Die) : (s.setDie d x).fabPh = s.fabPh := rfl
@[simp] theorem State.setDie_netPh (s : State) (d : Nat) (x : Die) : (s.setDie d x).netPh = s.netPh := rfl
@[simp] theorem State.setDie_pkg (s : State) (d : Nat) (x : Die) : (s.setDie d x).pkg = s.pkg := rfl
@[simp] theorem State.setDie_mem (s : State) (d : Nat) (x : Die) : (s.setDie d x).mem = s.mem := rfl
@[simp] theorem State.setDie_poison (s : State) (d : Nat) (x : Die) : (s.setDie d x).poison = s.poison := rfl
@[simp] theorem State.setDie_prov (s : State) (d : Nat) (x : Die) : (s.setDie d x).prov = s.prov := rfl
@[simp] theorem State.setDie_slots (s : State) (d : Nat) (x : Die) : (s.setDie d x).slots = s.slots := rfl
@[simp] theorem State.setDie_cores (s : State) (d : Nat) (x : Die) : (s.setDie d x).cores = s.cores := rfl
@[simp] theorem State.setDie_tqs (s : State) (d : Nat) (x : Die) : (s.setDie d x).tqs = s.tqs := rfl
@[simp] theorem State.setDie_tasks (s : State) (d : Nat) (x : Die) : (s.setDie d x).tasks = s.tasks := rfl
@[simp] theorem State.setDie_nTask (s : State) (d : Nat) (x : Die) : (s.setDie d x).nTask = s.nTask := rfl
@[simp] theorem State.setDie_queues (s : State) (d : Nat) (x : Die) : (s.setDie d x).queues = s.queues := rfl
@[simp] theorem State.setDie_loads (s : State) (d : Nat) (x : Die) : (s.setDie d x).loads = s.loads := rfl
@[simp] theorem State.setDie_tiles (s : State) (d : Nat) (x : Die) : (s.setDie d x).tiles = s.tiles := rfl
@[simp] theorem State.setDie_ports (s : State) (d : Nat) (x : Die) : (s.setDie d x).ports = s.ports := rfl
@[simp] theorem State.setDie_droute (s : State) (d : Nat) (x : Die) : (s.setDie d x).droute = s.droute := rfl
@[simp] theorem State.setDie_msix (s : State) (d : Nat) (x : Die) : (s.setDie d x).msix = s.msix := rfl
@[simp] theorem State.setDie_msixP (s : State) (d : Nat) (x : Die) : (s.setDie d x).msixP = s.msixP := rfl
@[simp] theorem State.setDie_inbox (s : State) (d : Nat) (x : Die) : (s.setDie d x).inbox = s.inbox := rfl
@[simp] theorem State.setDie_remotes (s : State) (d : Nat) (x : Die) : (s.setDie d x).remotes = s.remotes := rfl
@[simp] theorem State.setDie_nTag (s : State) (d : Nat) (x : Die) : (s.setDie d x).nTag = s.nTag := rfl
@[simp] theorem State.setDie_nStep (s : State) (d : Nat) (x : Die) : (s.setDie d x).nStep = s.nStep := rfl
@[simp] theorem State.setDie_served (s : State) (d : Nat) (x : Die) : (s.setDie d x).served = s.served := rfl
@[simp] theorem State.setDie_hostRq (s : State) (d : Nat) (x : Die) : (s.setDie d x).hostRq = s.hostRq := rfl
@[simp] theorem State.setDie_nHost (s : State) (d : Nat) (x : Die) : (s.setDie d x).nHost = s.nHost := rfl
@[simp] theorem State.setDie_snoop (s : State) (d : Nat) (x : Die) : (s.setDie d x).snoop = s.snoop := rfl
@[simp] theorem State.setDie_snooped (s : State) (d : Nat) (x : Die) : (s.setDie d x).snooped = s.snooped := rfl
@[simp] theorem State.setDie_borders (s : State) (d : Nat) (x : Die) : (s.setDie d x).borders = s.borders := rfl
@[simp] theorem State.setDie_early (s : State) (d : Nat) (x : Die) : (s.setDie d x).early = s.early := rfl
@[simp] theorem State.setDie_tests (s : State) (d : Nat) (x : Die) : (s.setDie d x).tests = s.tests := rfl
@[simp] theorem State.setDie_upsets (s : State) (d : Nat) (x : Die) : (s.setDie d x).upsets = s.upsets := rfl
@[simp] theorem State.setDie_memHeld (s : State) (d : Nat) (x : Die) : (s.setDie d x).memHeld = s.memHeld := rfl
@[simp] theorem State.setDie_nTest (s : State) (d : Nat) (x : Die) : (s.setDie d x).nTest = s.nTest := rfl
@[simp] theorem State.setDie_probes (s : State) (d : Nat) (x : Die) : (s.setDie d x).probes = s.probes := rfl
@[simp] theorem State.setDie_nProbe (s : State) (d : Nat) (x : Die) : (s.setDie d x).nProbe = s.nProbe := rfl
@[simp] theorem State.setDie_compact (s : State) (d : Nat) (x : Die) : (s.setDie d x).compact = s.compact := rfl
@[simp] theorem State.setDie_sweepAt (s : State) (d : Nat) (x : Die) : (s.setDie d x).sweepAt = s.sweepAt := rfl
@[simp] theorem State.setDie_fresh (s : State) (d : Nat) (x : Die) : (s.setDie d x).fresh = s.fresh := rfl
@[simp] theorem State.setDie_out (s : State) (d : Nat) (x : Die) : (s.setDie d x).out = s.out := rfl
@[simp] theorem State.setDie_slot_at (s : State) (d : Nat) (x : Die) (i : Nat) : (s.setDie d x).slot i = s.slot i := rfl
@[simp] theorem State.setDie_core_at (s : State) (d : Nat) (x : Die) (i : Nat) : (s.setDie d x).core i = s.core i := rfl
@[simp] theorem State.setDie_tq_at (s : State) (d : Nat) (x : Die) (i : Nat) : (s.setDie d x).tq i = s.tq i := rfl
@[simp] theorem State.setDie_queue_at (s : State) (d : Nat) (x : Die) (i : Nat) : (s.setDie d x).queue i = s.queue i := rfl
@[simp] theorem State.setDie_tile_at (s : State) (d : Nat) (x : Die) (i : Nat) : (s.setDie d x).tile i = s.tile i := rfl
@[simp] theorem State.setDie_port_at (s : State) (d : Nat) (x : Die) (i : Nat) : (s.setDie d x).port i = s.port i := rfl
@[simp] theorem State.setDie_load_at (s : State) (d : Nat) (x : Die) (i : Nat) : (s.setDie d x).load i = s.load i := rfl
@[simp] theorem State.setDie_task_at (s : State) (d : Nat) (x : Die) (i : Nat) : (s.setDie d x).task i = s.task i := rfl

/-! ## setTq -/

@[simp] theorem State.setTq_agenda (s : State) (q : Nat) (x : TaskQ) : (s.setTq q x).agenda = s.agenda := rfl
@[simp] theorem State.setTq_cur (s : State) (q : Nat) (x : TaskQ) : (s.setTq q x).cur = s.cur := rfl
@[simp] theorem State.setTq_pos (s : State) (q : Nat) (x : TaskQ) : (s.setTq q x).pos = s.pos := rfl
@[simp] theorem State.setTq_clock (s : State) (q : Nat) (x : TaskQ) : (s.setTq q x).clock = s.clock := rfl
@[simp] theorem State.setTq_cycle (s : State) (q : Nat) (x : TaskQ) : (s.setTq q x).cycle = s.cycle := rfl
@[simp] theorem State.setTq_fab (s : State) (q : Nat) (x : TaskQ) : (s.setTq q x).fab = s.fab := rfl
@[simp] theorem State.setTq_net (s : State) (q : Nat) (x : TaskQ) : (s.setTq q x).net = s.net := rfl
@[simp] theorem State.setTq_fabPh (s : State) (q : Nat) (x : TaskQ) : (s.setTq q x).fabPh = s.fabPh := rfl
@[simp] theorem State.setTq_netPh (s : State) (q : Nat) (x : TaskQ) : (s.setTq q x).netPh = s.netPh := rfl
@[simp] theorem State.setTq_pkg (s : State) (q : Nat) (x : TaskQ) : (s.setTq q x).pkg = s.pkg := rfl
@[simp] theorem State.setTq_mem (s : State) (q : Nat) (x : TaskQ) : (s.setTq q x).mem = s.mem := rfl
@[simp] theorem State.setTq_poison (s : State) (q : Nat) (x : TaskQ) : (s.setTq q x).poison = s.poison := rfl
@[simp] theorem State.setTq_prov (s : State) (q : Nat) (x : TaskQ) : (s.setTq q x).prov = s.prov := rfl
@[simp] theorem State.setTq_slots (s : State) (q : Nat) (x : TaskQ) : (s.setTq q x).slots = s.slots := rfl
@[simp] theorem State.setTq_cores (s : State) (q : Nat) (x : TaskQ) : (s.setTq q x).cores = s.cores := rfl
@[simp] theorem State.setTq_dies (s : State) (q : Nat) (x : TaskQ) : (s.setTq q x).dies = s.dies := rfl
@[simp] theorem State.setTq_tasks (s : State) (q : Nat) (x : TaskQ) : (s.setTq q x).tasks = s.tasks := rfl
@[simp] theorem State.setTq_nTask (s : State) (q : Nat) (x : TaskQ) : (s.setTq q x).nTask = s.nTask := rfl
@[simp] theorem State.setTq_queues (s : State) (q : Nat) (x : TaskQ) : (s.setTq q x).queues = s.queues := rfl
@[simp] theorem State.setTq_loads (s : State) (q : Nat) (x : TaskQ) : (s.setTq q x).loads = s.loads := rfl
@[simp] theorem State.setTq_tiles (s : State) (q : Nat) (x : TaskQ) : (s.setTq q x).tiles = s.tiles := rfl
@[simp] theorem State.setTq_ports (s : State) (q : Nat) (x : TaskQ) : (s.setTq q x).ports = s.ports := rfl
@[simp] theorem State.setTq_droute (s : State) (q : Nat) (x : TaskQ) : (s.setTq q x).droute = s.droute := rfl
@[simp] theorem State.setTq_msix (s : State) (q : Nat) (x : TaskQ) : (s.setTq q x).msix = s.msix := rfl
@[simp] theorem State.setTq_msixP (s : State) (q : Nat) (x : TaskQ) : (s.setTq q x).msixP = s.msixP := rfl
@[simp] theorem State.setTq_inbox (s : State) (q : Nat) (x : TaskQ) : (s.setTq q x).inbox = s.inbox := rfl
@[simp] theorem State.setTq_remotes (s : State) (q : Nat) (x : TaskQ) : (s.setTq q x).remotes = s.remotes := rfl
@[simp] theorem State.setTq_nTag (s : State) (q : Nat) (x : TaskQ) : (s.setTq q x).nTag = s.nTag := rfl
@[simp] theorem State.setTq_nStep (s : State) (q : Nat) (x : TaskQ) : (s.setTq q x).nStep = s.nStep := rfl
@[simp] theorem State.setTq_served (s : State) (q : Nat) (x : TaskQ) : (s.setTq q x).served = s.served := rfl
@[simp] theorem State.setTq_hostRq (s : State) (q : Nat) (x : TaskQ) : (s.setTq q x).hostRq = s.hostRq := rfl
@[simp] theorem State.setTq_nHost (s : State) (q : Nat) (x : TaskQ) : (s.setTq q x).nHost = s.nHost := rfl
@[simp] theorem State.setTq_snoop (s : State) (q : Nat) (x : TaskQ) : (s.setTq q x).snoop = s.snoop := rfl
@[simp] theorem State.setTq_snooped (s : State) (q : Nat) (x : TaskQ) : (s.setTq q x).snooped = s.snooped := rfl
@[simp] theorem State.setTq_borders (s : State) (q : Nat) (x : TaskQ) : (s.setTq q x).borders = s.borders := rfl
@[simp] theorem State.setTq_early (s : State) (q : Nat) (x : TaskQ) : (s.setTq q x).early = s.early := rfl
@[simp] theorem State.setTq_tests (s : State) (q : Nat) (x : TaskQ) : (s.setTq q x).tests = s.tests := rfl
@[simp] theorem State.setTq_upsets (s : State) (q : Nat) (x : TaskQ) : (s.setTq q x).upsets = s.upsets := rfl
@[simp] theorem State.setTq_memHeld (s : State) (q : Nat) (x : TaskQ) : (s.setTq q x).memHeld = s.memHeld := rfl
@[simp] theorem State.setTq_nTest (s : State) (q : Nat) (x : TaskQ) : (s.setTq q x).nTest = s.nTest := rfl
@[simp] theorem State.setTq_probes (s : State) (q : Nat) (x : TaskQ) : (s.setTq q x).probes = s.probes := rfl
@[simp] theorem State.setTq_nProbe (s : State) (q : Nat) (x : TaskQ) : (s.setTq q x).nProbe = s.nProbe := rfl
@[simp] theorem State.setTq_compact (s : State) (q : Nat) (x : TaskQ) : (s.setTq q x).compact = s.compact := rfl
@[simp] theorem State.setTq_sweepAt (s : State) (q : Nat) (x : TaskQ) : (s.setTq q x).sweepAt = s.sweepAt := rfl
@[simp] theorem State.setTq_fresh (s : State) (q : Nat) (x : TaskQ) : (s.setTq q x).fresh = s.fresh := rfl
@[simp] theorem State.setTq_out (s : State) (q : Nat) (x : TaskQ) : (s.setTq q x).out = s.out := rfl
@[simp] theorem State.setTq_slot_at (s : State) (q : Nat) (x : TaskQ) (i : Nat) : (s.setTq q x).slot i = s.slot i := rfl
@[simp] theorem State.setTq_core_at (s : State) (q : Nat) (x : TaskQ) (i : Nat) : (s.setTq q x).core i = s.core i := rfl
@[simp] theorem State.setTq_die_at (s : State) (q : Nat) (x : TaskQ) (i : Nat) : (s.setTq q x).die i = s.die i := rfl
@[simp] theorem State.setTq_queue_at (s : State) (q : Nat) (x : TaskQ) (i : Nat) : (s.setTq q x).queue i = s.queue i := rfl
@[simp] theorem State.setTq_tile_at (s : State) (q : Nat) (x : TaskQ) (i : Nat) : (s.setTq q x).tile i = s.tile i := rfl
@[simp] theorem State.setTq_port_at (s : State) (q : Nat) (x : TaskQ) (i : Nat) : (s.setTq q x).port i = s.port i := rfl
@[simp] theorem State.setTq_load_at (s : State) (q : Nat) (x : TaskQ) (i : Nat) : (s.setTq q x).load i = s.load i := rfl
@[simp] theorem State.setTq_task_at (s : State) (q : Nat) (x : TaskQ) (i : Nat) : (s.setTq q x).task i = s.task i := rfl

/-! ## setQueue -/

@[simp] theorem State.setQueue_agenda (s : State) (k : Nat) (x : Queue) : (s.setQueue k x).agenda = s.agenda := rfl
@[simp] theorem State.setQueue_cur (s : State) (k : Nat) (x : Queue) : (s.setQueue k x).cur = s.cur := rfl
@[simp] theorem State.setQueue_pos (s : State) (k : Nat) (x : Queue) : (s.setQueue k x).pos = s.pos := rfl
@[simp] theorem State.setQueue_clock (s : State) (k : Nat) (x : Queue) : (s.setQueue k x).clock = s.clock := rfl
@[simp] theorem State.setQueue_cycle (s : State) (k : Nat) (x : Queue) : (s.setQueue k x).cycle = s.cycle := rfl
@[simp] theorem State.setQueue_fab (s : State) (k : Nat) (x : Queue) : (s.setQueue k x).fab = s.fab := rfl
@[simp] theorem State.setQueue_net (s : State) (k : Nat) (x : Queue) : (s.setQueue k x).net = s.net := rfl
@[simp] theorem State.setQueue_fabPh (s : State) (k : Nat) (x : Queue) : (s.setQueue k x).fabPh = s.fabPh := rfl
@[simp] theorem State.setQueue_netPh (s : State) (k : Nat) (x : Queue) : (s.setQueue k x).netPh = s.netPh := rfl
@[simp] theorem State.setQueue_pkg (s : State) (k : Nat) (x : Queue) : (s.setQueue k x).pkg = s.pkg := rfl
@[simp] theorem State.setQueue_mem (s : State) (k : Nat) (x : Queue) : (s.setQueue k x).mem = s.mem := rfl
@[simp] theorem State.setQueue_poison (s : State) (k : Nat) (x : Queue) : (s.setQueue k x).poison = s.poison := rfl
@[simp] theorem State.setQueue_prov (s : State) (k : Nat) (x : Queue) : (s.setQueue k x).prov = s.prov := rfl
@[simp] theorem State.setQueue_slots (s : State) (k : Nat) (x : Queue) : (s.setQueue k x).slots = s.slots := rfl
@[simp] theorem State.setQueue_cores (s : State) (k : Nat) (x : Queue) : (s.setQueue k x).cores = s.cores := rfl
@[simp] theorem State.setQueue_dies (s : State) (k : Nat) (x : Queue) : (s.setQueue k x).dies = s.dies := rfl
@[simp] theorem State.setQueue_tqs (s : State) (k : Nat) (x : Queue) : (s.setQueue k x).tqs = s.tqs := rfl
@[simp] theorem State.setQueue_tasks (s : State) (k : Nat) (x : Queue) : (s.setQueue k x).tasks = s.tasks := rfl
@[simp] theorem State.setQueue_nTask (s : State) (k : Nat) (x : Queue) : (s.setQueue k x).nTask = s.nTask := rfl
@[simp] theorem State.setQueue_loads (s : State) (k : Nat) (x : Queue) : (s.setQueue k x).loads = s.loads := rfl
@[simp] theorem State.setQueue_tiles (s : State) (k : Nat) (x : Queue) : (s.setQueue k x).tiles = s.tiles := rfl
@[simp] theorem State.setQueue_ports (s : State) (k : Nat) (x : Queue) : (s.setQueue k x).ports = s.ports := rfl
@[simp] theorem State.setQueue_droute (s : State) (k : Nat) (x : Queue) : (s.setQueue k x).droute = s.droute := rfl
@[simp] theorem State.setQueue_msix (s : State) (k : Nat) (x : Queue) : (s.setQueue k x).msix = s.msix := rfl
@[simp] theorem State.setQueue_msixP (s : State) (k : Nat) (x : Queue) : (s.setQueue k x).msixP = s.msixP := rfl
@[simp] theorem State.setQueue_inbox (s : State) (k : Nat) (x : Queue) : (s.setQueue k x).inbox = s.inbox := rfl
@[simp] theorem State.setQueue_remotes (s : State) (k : Nat) (x : Queue) : (s.setQueue k x).remotes = s.remotes := rfl
@[simp] theorem State.setQueue_nTag (s : State) (k : Nat) (x : Queue) : (s.setQueue k x).nTag = s.nTag := rfl
@[simp] theorem State.setQueue_nStep (s : State) (k : Nat) (x : Queue) : (s.setQueue k x).nStep = s.nStep := rfl
@[simp] theorem State.setQueue_served (s : State) (k : Nat) (x : Queue) : (s.setQueue k x).served = s.served := rfl
@[simp] theorem State.setQueue_hostRq (s : State) (k : Nat) (x : Queue) : (s.setQueue k x).hostRq = s.hostRq := rfl
@[simp] theorem State.setQueue_nHost (s : State) (k : Nat) (x : Queue) : (s.setQueue k x).nHost = s.nHost := rfl
@[simp] theorem State.setQueue_snoop (s : State) (k : Nat) (x : Queue) : (s.setQueue k x).snoop = s.snoop := rfl
@[simp] theorem State.setQueue_snooped (s : State) (k : Nat) (x : Queue) : (s.setQueue k x).snooped = s.snooped := rfl
@[simp] theorem State.setQueue_borders (s : State) (k : Nat) (x : Queue) : (s.setQueue k x).borders = s.borders := rfl
@[simp] theorem State.setQueue_early (s : State) (k : Nat) (x : Queue) : (s.setQueue k x).early = s.early := rfl
@[simp] theorem State.setQueue_tests (s : State) (k : Nat) (x : Queue) : (s.setQueue k x).tests = s.tests := rfl
@[simp] theorem State.setQueue_upsets (s : State) (k : Nat) (x : Queue) : (s.setQueue k x).upsets = s.upsets := rfl
@[simp] theorem State.setQueue_memHeld (s : State) (k : Nat) (x : Queue) : (s.setQueue k x).memHeld = s.memHeld := rfl
@[simp] theorem State.setQueue_nTest (s : State) (k : Nat) (x : Queue) : (s.setQueue k x).nTest = s.nTest := rfl
@[simp] theorem State.setQueue_probes (s : State) (k : Nat) (x : Queue) : (s.setQueue k x).probes = s.probes := rfl
@[simp] theorem State.setQueue_nProbe (s : State) (k : Nat) (x : Queue) : (s.setQueue k x).nProbe = s.nProbe := rfl
@[simp] theorem State.setQueue_compact (s : State) (k : Nat) (x : Queue) : (s.setQueue k x).compact = s.compact := rfl
@[simp] theorem State.setQueue_sweepAt (s : State) (k : Nat) (x : Queue) : (s.setQueue k x).sweepAt = s.sweepAt := rfl
@[simp] theorem State.setQueue_fresh (s : State) (k : Nat) (x : Queue) : (s.setQueue k x).fresh = s.fresh := rfl
@[simp] theorem State.setQueue_out (s : State) (k : Nat) (x : Queue) : (s.setQueue k x).out = s.out := rfl
@[simp] theorem State.setQueue_slot_at (s : State) (k : Nat) (x : Queue) (i : Nat) : (s.setQueue k x).slot i = s.slot i := rfl
@[simp] theorem State.setQueue_core_at (s : State) (k : Nat) (x : Queue) (i : Nat) : (s.setQueue k x).core i = s.core i := rfl
@[simp] theorem State.setQueue_die_at (s : State) (k : Nat) (x : Queue) (i : Nat) : (s.setQueue k x).die i = s.die i := rfl
@[simp] theorem State.setQueue_tq_at (s : State) (k : Nat) (x : Queue) (i : Nat) : (s.setQueue k x).tq i = s.tq i := rfl
@[simp] theorem State.setQueue_tile_at (s : State) (k : Nat) (x : Queue) (i : Nat) : (s.setQueue k x).tile i = s.tile i := rfl
@[simp] theorem State.setQueue_port_at (s : State) (k : Nat) (x : Queue) (i : Nat) : (s.setQueue k x).port i = s.port i := rfl
@[simp] theorem State.setQueue_load_at (s : State) (k : Nat) (x : Queue) (i : Nat) : (s.setQueue k x).load i = s.load i := rfl
@[simp] theorem State.setQueue_task_at (s : State) (k : Nat) (x : Queue) (i : Nat) : (s.setQueue k x).task i = s.task i := rfl

/-! ## setTile -/

@[simp] theorem State.setTile_agenda (s : State) (k : Nat) (x : Tile) : (s.setTile k x).agenda = s.agenda := rfl
@[simp] theorem State.setTile_cur (s : State) (k : Nat) (x : Tile) : (s.setTile k x).cur = s.cur := rfl
@[simp] theorem State.setTile_pos (s : State) (k : Nat) (x : Tile) : (s.setTile k x).pos = s.pos := rfl
@[simp] theorem State.setTile_clock (s : State) (k : Nat) (x : Tile) : (s.setTile k x).clock = s.clock := rfl
@[simp] theorem State.setTile_cycle (s : State) (k : Nat) (x : Tile) : (s.setTile k x).cycle = s.cycle := rfl
@[simp] theorem State.setTile_fab (s : State) (k : Nat) (x : Tile) : (s.setTile k x).fab = s.fab := rfl
@[simp] theorem State.setTile_net (s : State) (k : Nat) (x : Tile) : (s.setTile k x).net = s.net := rfl
@[simp] theorem State.setTile_fabPh (s : State) (k : Nat) (x : Tile) : (s.setTile k x).fabPh = s.fabPh := rfl
@[simp] theorem State.setTile_netPh (s : State) (k : Nat) (x : Tile) : (s.setTile k x).netPh = s.netPh := rfl
@[simp] theorem State.setTile_pkg (s : State) (k : Nat) (x : Tile) : (s.setTile k x).pkg = s.pkg := rfl
@[simp] theorem State.setTile_mem (s : State) (k : Nat) (x : Tile) : (s.setTile k x).mem = s.mem := rfl
@[simp] theorem State.setTile_poison (s : State) (k : Nat) (x : Tile) : (s.setTile k x).poison = s.poison := rfl
@[simp] theorem State.setTile_prov (s : State) (k : Nat) (x : Tile) : (s.setTile k x).prov = s.prov := rfl
@[simp] theorem State.setTile_slots (s : State) (k : Nat) (x : Tile) : (s.setTile k x).slots = s.slots := rfl
@[simp] theorem State.setTile_cores (s : State) (k : Nat) (x : Tile) : (s.setTile k x).cores = s.cores := rfl
@[simp] theorem State.setTile_dies (s : State) (k : Nat) (x : Tile) : (s.setTile k x).dies = s.dies := rfl
@[simp] theorem State.setTile_tqs (s : State) (k : Nat) (x : Tile) : (s.setTile k x).tqs = s.tqs := rfl
@[simp] theorem State.setTile_tasks (s : State) (k : Nat) (x : Tile) : (s.setTile k x).tasks = s.tasks := rfl
@[simp] theorem State.setTile_nTask (s : State) (k : Nat) (x : Tile) : (s.setTile k x).nTask = s.nTask := rfl
@[simp] theorem State.setTile_queues (s : State) (k : Nat) (x : Tile) : (s.setTile k x).queues = s.queues := rfl
@[simp] theorem State.setTile_loads (s : State) (k : Nat) (x : Tile) : (s.setTile k x).loads = s.loads := rfl
@[simp] theorem State.setTile_ports (s : State) (k : Nat) (x : Tile) : (s.setTile k x).ports = s.ports := rfl
@[simp] theorem State.setTile_droute (s : State) (k : Nat) (x : Tile) : (s.setTile k x).droute = s.droute := rfl
@[simp] theorem State.setTile_msix (s : State) (k : Nat) (x : Tile) : (s.setTile k x).msix = s.msix := rfl
@[simp] theorem State.setTile_msixP (s : State) (k : Nat) (x : Tile) : (s.setTile k x).msixP = s.msixP := rfl
@[simp] theorem State.setTile_inbox (s : State) (k : Nat) (x : Tile) : (s.setTile k x).inbox = s.inbox := rfl
@[simp] theorem State.setTile_remotes (s : State) (k : Nat) (x : Tile) : (s.setTile k x).remotes = s.remotes := rfl
@[simp] theorem State.setTile_nTag (s : State) (k : Nat) (x : Tile) : (s.setTile k x).nTag = s.nTag := rfl
@[simp] theorem State.setTile_nStep (s : State) (k : Nat) (x : Tile) : (s.setTile k x).nStep = s.nStep := rfl
@[simp] theorem State.setTile_served (s : State) (k : Nat) (x : Tile) : (s.setTile k x).served = s.served := rfl
@[simp] theorem State.setTile_hostRq (s : State) (k : Nat) (x : Tile) : (s.setTile k x).hostRq = s.hostRq := rfl
@[simp] theorem State.setTile_nHost (s : State) (k : Nat) (x : Tile) : (s.setTile k x).nHost = s.nHost := rfl
@[simp] theorem State.setTile_snoop (s : State) (k : Nat) (x : Tile) : (s.setTile k x).snoop = s.snoop := rfl
@[simp] theorem State.setTile_snooped (s : State) (k : Nat) (x : Tile) : (s.setTile k x).snooped = s.snooped := rfl
@[simp] theorem State.setTile_borders (s : State) (k : Nat) (x : Tile) : (s.setTile k x).borders = s.borders := rfl
@[simp] theorem State.setTile_early (s : State) (k : Nat) (x : Tile) : (s.setTile k x).early = s.early := rfl
@[simp] theorem State.setTile_tests (s : State) (k : Nat) (x : Tile) : (s.setTile k x).tests = s.tests := rfl
@[simp] theorem State.setTile_upsets (s : State) (k : Nat) (x : Tile) : (s.setTile k x).upsets = s.upsets := rfl
@[simp] theorem State.setTile_memHeld (s : State) (k : Nat) (x : Tile) : (s.setTile k x).memHeld = s.memHeld := rfl
@[simp] theorem State.setTile_nTest (s : State) (k : Nat) (x : Tile) : (s.setTile k x).nTest = s.nTest := rfl
@[simp] theorem State.setTile_probes (s : State) (k : Nat) (x : Tile) : (s.setTile k x).probes = s.probes := rfl
@[simp] theorem State.setTile_nProbe (s : State) (k : Nat) (x : Tile) : (s.setTile k x).nProbe = s.nProbe := rfl
@[simp] theorem State.setTile_compact (s : State) (k : Nat) (x : Tile) : (s.setTile k x).compact = s.compact := rfl
@[simp] theorem State.setTile_sweepAt (s : State) (k : Nat) (x : Tile) : (s.setTile k x).sweepAt = s.sweepAt := rfl
@[simp] theorem State.setTile_fresh (s : State) (k : Nat) (x : Tile) : (s.setTile k x).fresh = s.fresh := rfl
@[simp] theorem State.setTile_out (s : State) (k : Nat) (x : Tile) : (s.setTile k x).out = s.out := rfl
@[simp] theorem State.setTile_slot_at (s : State) (k : Nat) (x : Tile) (i : Nat) : (s.setTile k x).slot i = s.slot i := rfl
@[simp] theorem State.setTile_core_at (s : State) (k : Nat) (x : Tile) (i : Nat) : (s.setTile k x).core i = s.core i := rfl
@[simp] theorem State.setTile_die_at (s : State) (k : Nat) (x : Tile) (i : Nat) : (s.setTile k x).die i = s.die i := rfl
@[simp] theorem State.setTile_tq_at (s : State) (k : Nat) (x : Tile) (i : Nat) : (s.setTile k x).tq i = s.tq i := rfl
@[simp] theorem State.setTile_queue_at (s : State) (k : Nat) (x : Tile) (i : Nat) : (s.setTile k x).queue i = s.queue i := rfl
@[simp] theorem State.setTile_port_at (s : State) (k : Nat) (x : Tile) (i : Nat) : (s.setTile k x).port i = s.port i := rfl
@[simp] theorem State.setTile_load_at (s : State) (k : Nat) (x : Tile) (i : Nat) : (s.setTile k x).load i = s.load i := rfl
@[simp] theorem State.setTile_task_at (s : State) (k : Nat) (x : Tile) (i : Nat) : (s.setTile k x).task i = s.task i := rfl

/-! ## setPort -/

@[simp] theorem State.setPort_agenda (s : State) (p : Nat) (x : Port) : (s.setPort p x).agenda = s.agenda := rfl
@[simp] theorem State.setPort_cur (s : State) (p : Nat) (x : Port) : (s.setPort p x).cur = s.cur := rfl
@[simp] theorem State.setPort_pos (s : State) (p : Nat) (x : Port) : (s.setPort p x).pos = s.pos := rfl
@[simp] theorem State.setPort_clock (s : State) (p : Nat) (x : Port) : (s.setPort p x).clock = s.clock := rfl
@[simp] theorem State.setPort_cycle (s : State) (p : Nat) (x : Port) : (s.setPort p x).cycle = s.cycle := rfl
@[simp] theorem State.setPort_fab (s : State) (p : Nat) (x : Port) : (s.setPort p x).fab = s.fab := rfl
@[simp] theorem State.setPort_net (s : State) (p : Nat) (x : Port) : (s.setPort p x).net = s.net := rfl
@[simp] theorem State.setPort_fabPh (s : State) (p : Nat) (x : Port) : (s.setPort p x).fabPh = s.fabPh := rfl
@[simp] theorem State.setPort_netPh (s : State) (p : Nat) (x : Port) : (s.setPort p x).netPh = s.netPh := rfl
@[simp] theorem State.setPort_pkg (s : State) (p : Nat) (x : Port) : (s.setPort p x).pkg = s.pkg := rfl
@[simp] theorem State.setPort_mem (s : State) (p : Nat) (x : Port) : (s.setPort p x).mem = s.mem := rfl
@[simp] theorem State.setPort_poison (s : State) (p : Nat) (x : Port) : (s.setPort p x).poison = s.poison := rfl
@[simp] theorem State.setPort_prov (s : State) (p : Nat) (x : Port) : (s.setPort p x).prov = s.prov := rfl
@[simp] theorem State.setPort_slots (s : State) (p : Nat) (x : Port) : (s.setPort p x).slots = s.slots := rfl
@[simp] theorem State.setPort_cores (s : State) (p : Nat) (x : Port) : (s.setPort p x).cores = s.cores := rfl
@[simp] theorem State.setPort_dies (s : State) (p : Nat) (x : Port) : (s.setPort p x).dies = s.dies := rfl
@[simp] theorem State.setPort_tqs (s : State) (p : Nat) (x : Port) : (s.setPort p x).tqs = s.tqs := rfl
@[simp] theorem State.setPort_tasks (s : State) (p : Nat) (x : Port) : (s.setPort p x).tasks = s.tasks := rfl
@[simp] theorem State.setPort_nTask (s : State) (p : Nat) (x : Port) : (s.setPort p x).nTask = s.nTask := rfl
@[simp] theorem State.setPort_queues (s : State) (p : Nat) (x : Port) : (s.setPort p x).queues = s.queues := rfl
@[simp] theorem State.setPort_loads (s : State) (p : Nat) (x : Port) : (s.setPort p x).loads = s.loads := rfl
@[simp] theorem State.setPort_tiles (s : State) (p : Nat) (x : Port) : (s.setPort p x).tiles = s.tiles := rfl
@[simp] theorem State.setPort_droute (s : State) (p : Nat) (x : Port) : (s.setPort p x).droute = s.droute := rfl
@[simp] theorem State.setPort_msix (s : State) (p : Nat) (x : Port) : (s.setPort p x).msix = s.msix := rfl
@[simp] theorem State.setPort_msixP (s : State) (p : Nat) (x : Port) : (s.setPort p x).msixP = s.msixP := rfl
@[simp] theorem State.setPort_inbox (s : State) (p : Nat) (x : Port) : (s.setPort p x).inbox = s.inbox := rfl
@[simp] theorem State.setPort_remotes (s : State) (p : Nat) (x : Port) : (s.setPort p x).remotes = s.remotes := rfl
@[simp] theorem State.setPort_nTag (s : State) (p : Nat) (x : Port) : (s.setPort p x).nTag = s.nTag := rfl
@[simp] theorem State.setPort_nStep (s : State) (p : Nat) (x : Port) : (s.setPort p x).nStep = s.nStep := rfl
@[simp] theorem State.setPort_served (s : State) (p : Nat) (x : Port) : (s.setPort p x).served = s.served := rfl
@[simp] theorem State.setPort_hostRq (s : State) (p : Nat) (x : Port) : (s.setPort p x).hostRq = s.hostRq := rfl
@[simp] theorem State.setPort_nHost (s : State) (p : Nat) (x : Port) : (s.setPort p x).nHost = s.nHost := rfl
@[simp] theorem State.setPort_snoop (s : State) (p : Nat) (x : Port) : (s.setPort p x).snoop = s.snoop := rfl
@[simp] theorem State.setPort_snooped (s : State) (p : Nat) (x : Port) : (s.setPort p x).snooped = s.snooped := rfl
@[simp] theorem State.setPort_borders (s : State) (p : Nat) (x : Port) : (s.setPort p x).borders = s.borders := rfl
@[simp] theorem State.setPort_early (s : State) (p : Nat) (x : Port) : (s.setPort p x).early = s.early := rfl
@[simp] theorem State.setPort_tests (s : State) (p : Nat) (x : Port) : (s.setPort p x).tests = s.tests := rfl
@[simp] theorem State.setPort_upsets (s : State) (p : Nat) (x : Port) : (s.setPort p x).upsets = s.upsets := rfl
@[simp] theorem State.setPort_memHeld (s : State) (p : Nat) (x : Port) : (s.setPort p x).memHeld = s.memHeld := rfl
@[simp] theorem State.setPort_nTest (s : State) (p : Nat) (x : Port) : (s.setPort p x).nTest = s.nTest := rfl
@[simp] theorem State.setPort_probes (s : State) (p : Nat) (x : Port) : (s.setPort p x).probes = s.probes := rfl
@[simp] theorem State.setPort_nProbe (s : State) (p : Nat) (x : Port) : (s.setPort p x).nProbe = s.nProbe := rfl
@[simp] theorem State.setPort_compact (s : State) (p : Nat) (x : Port) : (s.setPort p x).compact = s.compact := rfl
@[simp] theorem State.setPort_sweepAt (s : State) (p : Nat) (x : Port) : (s.setPort p x).sweepAt = s.sweepAt := rfl
@[simp] theorem State.setPort_fresh (s : State) (p : Nat) (x : Port) : (s.setPort p x).fresh = s.fresh := rfl
@[simp] theorem State.setPort_out (s : State) (p : Nat) (x : Port) : (s.setPort p x).out = s.out := rfl
@[simp] theorem State.setPort_slot_at (s : State) (p : Nat) (x : Port) (i : Nat) : (s.setPort p x).slot i = s.slot i := rfl
@[simp] theorem State.setPort_core_at (s : State) (p : Nat) (x : Port) (i : Nat) : (s.setPort p x).core i = s.core i := rfl
@[simp] theorem State.setPort_die_at (s : State) (p : Nat) (x : Port) (i : Nat) : (s.setPort p x).die i = s.die i := rfl
@[simp] theorem State.setPort_tq_at (s : State) (p : Nat) (x : Port) (i : Nat) : (s.setPort p x).tq i = s.tq i := rfl
@[simp] theorem State.setPort_queue_at (s : State) (p : Nat) (x : Port) (i : Nat) : (s.setPort p x).queue i = s.queue i := rfl
@[simp] theorem State.setPort_tile_at (s : State) (p : Nat) (x : Port) (i : Nat) : (s.setPort p x).tile i = s.tile i := rfl
@[simp] theorem State.setPort_load_at (s : State) (p : Nat) (x : Port) (i : Nat) : (s.setPort p x).load i = s.load i := rfl
@[simp] theorem State.setPort_task_at (s : State) (p : Nat) (x : Port) (i : Nat) : (s.setPort p x).task i = s.task i := rfl

/-! ## setLoad -/

@[simp] theorem State.setLoad_agenda (s : State) (l : Nat) (x : Load) : (s.setLoad l x).agenda = s.agenda := rfl
@[simp] theorem State.setLoad_cur (s : State) (l : Nat) (x : Load) : (s.setLoad l x).cur = s.cur := rfl
@[simp] theorem State.setLoad_pos (s : State) (l : Nat) (x : Load) : (s.setLoad l x).pos = s.pos := rfl
@[simp] theorem State.setLoad_clock (s : State) (l : Nat) (x : Load) : (s.setLoad l x).clock = s.clock := rfl
@[simp] theorem State.setLoad_cycle (s : State) (l : Nat) (x : Load) : (s.setLoad l x).cycle = s.cycle := rfl
@[simp] theorem State.setLoad_fab (s : State) (l : Nat) (x : Load) : (s.setLoad l x).fab = s.fab := rfl
@[simp] theorem State.setLoad_net (s : State) (l : Nat) (x : Load) : (s.setLoad l x).net = s.net := rfl
@[simp] theorem State.setLoad_fabPh (s : State) (l : Nat) (x : Load) : (s.setLoad l x).fabPh = s.fabPh := rfl
@[simp] theorem State.setLoad_netPh (s : State) (l : Nat) (x : Load) : (s.setLoad l x).netPh = s.netPh := rfl
@[simp] theorem State.setLoad_pkg (s : State) (l : Nat) (x : Load) : (s.setLoad l x).pkg = s.pkg := rfl
@[simp] theorem State.setLoad_mem (s : State) (l : Nat) (x : Load) : (s.setLoad l x).mem = s.mem := rfl
@[simp] theorem State.setLoad_poison (s : State) (l : Nat) (x : Load) : (s.setLoad l x).poison = s.poison := rfl
@[simp] theorem State.setLoad_prov (s : State) (l : Nat) (x : Load) : (s.setLoad l x).prov = s.prov := rfl
@[simp] theorem State.setLoad_slots (s : State) (l : Nat) (x : Load) : (s.setLoad l x).slots = s.slots := rfl
@[simp] theorem State.setLoad_cores (s : State) (l : Nat) (x : Load) : (s.setLoad l x).cores = s.cores := rfl
@[simp] theorem State.setLoad_dies (s : State) (l : Nat) (x : Load) : (s.setLoad l x).dies = s.dies := rfl
@[simp] theorem State.setLoad_tqs (s : State) (l : Nat) (x : Load) : (s.setLoad l x).tqs = s.tqs := rfl
@[simp] theorem State.setLoad_tasks (s : State) (l : Nat) (x : Load) : (s.setLoad l x).tasks = s.tasks := rfl
@[simp] theorem State.setLoad_nTask (s : State) (l : Nat) (x : Load) : (s.setLoad l x).nTask = s.nTask := rfl
@[simp] theorem State.setLoad_queues (s : State) (l : Nat) (x : Load) : (s.setLoad l x).queues = s.queues := rfl
@[simp] theorem State.setLoad_tiles (s : State) (l : Nat) (x : Load) : (s.setLoad l x).tiles = s.tiles := rfl
@[simp] theorem State.setLoad_ports (s : State) (l : Nat) (x : Load) : (s.setLoad l x).ports = s.ports := rfl
@[simp] theorem State.setLoad_droute (s : State) (l : Nat) (x : Load) : (s.setLoad l x).droute = s.droute := rfl
@[simp] theorem State.setLoad_msix (s : State) (l : Nat) (x : Load) : (s.setLoad l x).msix = s.msix := rfl
@[simp] theorem State.setLoad_msixP (s : State) (l : Nat) (x : Load) : (s.setLoad l x).msixP = s.msixP := rfl
@[simp] theorem State.setLoad_inbox (s : State) (l : Nat) (x : Load) : (s.setLoad l x).inbox = s.inbox := rfl
@[simp] theorem State.setLoad_remotes (s : State) (l : Nat) (x : Load) : (s.setLoad l x).remotes = s.remotes := rfl
@[simp] theorem State.setLoad_nTag (s : State) (l : Nat) (x : Load) : (s.setLoad l x).nTag = s.nTag := rfl
@[simp] theorem State.setLoad_nStep (s : State) (l : Nat) (x : Load) : (s.setLoad l x).nStep = s.nStep := rfl
@[simp] theorem State.setLoad_served (s : State) (l : Nat) (x : Load) : (s.setLoad l x).served = s.served := rfl
@[simp] theorem State.setLoad_hostRq (s : State) (l : Nat) (x : Load) : (s.setLoad l x).hostRq = s.hostRq := rfl
@[simp] theorem State.setLoad_nHost (s : State) (l : Nat) (x : Load) : (s.setLoad l x).nHost = s.nHost := rfl
@[simp] theorem State.setLoad_snoop (s : State) (l : Nat) (x : Load) : (s.setLoad l x).snoop = s.snoop := rfl
@[simp] theorem State.setLoad_snooped (s : State) (l : Nat) (x : Load) : (s.setLoad l x).snooped = s.snooped := rfl
@[simp] theorem State.setLoad_borders (s : State) (l : Nat) (x : Load) : (s.setLoad l x).borders = s.borders := rfl
@[simp] theorem State.setLoad_early (s : State) (l : Nat) (x : Load) : (s.setLoad l x).early = s.early := rfl
@[simp] theorem State.setLoad_tests (s : State) (l : Nat) (x : Load) : (s.setLoad l x).tests = s.tests := rfl
@[simp] theorem State.setLoad_upsets (s : State) (l : Nat) (x : Load) : (s.setLoad l x).upsets = s.upsets := rfl
@[simp] theorem State.setLoad_memHeld (s : State) (l : Nat) (x : Load) : (s.setLoad l x).memHeld = s.memHeld := rfl
@[simp] theorem State.setLoad_nTest (s : State) (l : Nat) (x : Load) : (s.setLoad l x).nTest = s.nTest := rfl
@[simp] theorem State.setLoad_probes (s : State) (l : Nat) (x : Load) : (s.setLoad l x).probes = s.probes := rfl
@[simp] theorem State.setLoad_nProbe (s : State) (l : Nat) (x : Load) : (s.setLoad l x).nProbe = s.nProbe := rfl
@[simp] theorem State.setLoad_compact (s : State) (l : Nat) (x : Load) : (s.setLoad l x).compact = s.compact := rfl
@[simp] theorem State.setLoad_sweepAt (s : State) (l : Nat) (x : Load) : (s.setLoad l x).sweepAt = s.sweepAt := rfl
@[simp] theorem State.setLoad_fresh (s : State) (l : Nat) (x : Load) : (s.setLoad l x).fresh = s.fresh := rfl
@[simp] theorem State.setLoad_out (s : State) (l : Nat) (x : Load) : (s.setLoad l x).out = s.out := rfl
@[simp] theorem State.setLoad_slot_at (s : State) (l : Nat) (x : Load) (i : Nat) : (s.setLoad l x).slot i = s.slot i := rfl
@[simp] theorem State.setLoad_core_at (s : State) (l : Nat) (x : Load) (i : Nat) : (s.setLoad l x).core i = s.core i := rfl
@[simp] theorem State.setLoad_die_at (s : State) (l : Nat) (x : Load) (i : Nat) : (s.setLoad l x).die i = s.die i := rfl
@[simp] theorem State.setLoad_tq_at (s : State) (l : Nat) (x : Load) (i : Nat) : (s.setLoad l x).tq i = s.tq i := rfl
@[simp] theorem State.setLoad_queue_at (s : State) (l : Nat) (x : Load) (i : Nat) : (s.setLoad l x).queue i = s.queue i := rfl
@[simp] theorem State.setLoad_tile_at (s : State) (l : Nat) (x : Load) (i : Nat) : (s.setLoad l x).tile i = s.tile i := rfl
@[simp] theorem State.setLoad_port_at (s : State) (l : Nat) (x : Load) (i : Nat) : (s.setLoad l x).port i = s.port i := rfl
@[simp] theorem State.setLoad_task_at (s : State) (l : Nat) (x : Load) (i : Nat) : (s.setLoad l x).task i = s.task i := rfl

/-! ## dropLoad -/

@[simp] theorem State.dropLoad_agenda (s : State) (l : Nat) : (s.dropLoad l).agenda = s.agenda := rfl
@[simp] theorem State.dropLoad_cur (s : State) (l : Nat) : (s.dropLoad l).cur = s.cur := rfl
@[simp] theorem State.dropLoad_pos (s : State) (l : Nat) : (s.dropLoad l).pos = s.pos := rfl
@[simp] theorem State.dropLoad_clock (s : State) (l : Nat) : (s.dropLoad l).clock = s.clock := rfl
@[simp] theorem State.dropLoad_cycle (s : State) (l : Nat) : (s.dropLoad l).cycle = s.cycle := rfl
@[simp] theorem State.dropLoad_fab (s : State) (l : Nat) : (s.dropLoad l).fab = s.fab := rfl
@[simp] theorem State.dropLoad_net (s : State) (l : Nat) : (s.dropLoad l).net = s.net := rfl
@[simp] theorem State.dropLoad_fabPh (s : State) (l : Nat) : (s.dropLoad l).fabPh = s.fabPh := rfl
@[simp] theorem State.dropLoad_netPh (s : State) (l : Nat) : (s.dropLoad l).netPh = s.netPh := rfl
@[simp] theorem State.dropLoad_pkg (s : State) (l : Nat) : (s.dropLoad l).pkg = s.pkg := rfl
@[simp] theorem State.dropLoad_mem (s : State) (l : Nat) : (s.dropLoad l).mem = s.mem := rfl
@[simp] theorem State.dropLoad_poison (s : State) (l : Nat) : (s.dropLoad l).poison = s.poison := rfl
@[simp] theorem State.dropLoad_prov (s : State) (l : Nat) : (s.dropLoad l).prov = s.prov := rfl
@[simp] theorem State.dropLoad_slots (s : State) (l : Nat) : (s.dropLoad l).slots = s.slots := rfl
@[simp] theorem State.dropLoad_cores (s : State) (l : Nat) : (s.dropLoad l).cores = s.cores := rfl
@[simp] theorem State.dropLoad_dies (s : State) (l : Nat) : (s.dropLoad l).dies = s.dies := rfl
@[simp] theorem State.dropLoad_tqs (s : State) (l : Nat) : (s.dropLoad l).tqs = s.tqs := rfl
@[simp] theorem State.dropLoad_tasks (s : State) (l : Nat) : (s.dropLoad l).tasks = s.tasks := rfl
@[simp] theorem State.dropLoad_nTask (s : State) (l : Nat) : (s.dropLoad l).nTask = s.nTask := rfl
@[simp] theorem State.dropLoad_queues (s : State) (l : Nat) : (s.dropLoad l).queues = s.queues := rfl
@[simp] theorem State.dropLoad_tiles (s : State) (l : Nat) : (s.dropLoad l).tiles = s.tiles := rfl
@[simp] theorem State.dropLoad_ports (s : State) (l : Nat) : (s.dropLoad l).ports = s.ports := rfl
@[simp] theorem State.dropLoad_droute (s : State) (l : Nat) : (s.dropLoad l).droute = s.droute := rfl
@[simp] theorem State.dropLoad_msix (s : State) (l : Nat) : (s.dropLoad l).msix = s.msix := rfl
@[simp] theorem State.dropLoad_msixP (s : State) (l : Nat) : (s.dropLoad l).msixP = s.msixP := rfl
@[simp] theorem State.dropLoad_inbox (s : State) (l : Nat) : (s.dropLoad l).inbox = s.inbox := rfl
@[simp] theorem State.dropLoad_remotes (s : State) (l : Nat) : (s.dropLoad l).remotes = s.remotes := rfl
@[simp] theorem State.dropLoad_nTag (s : State) (l : Nat) : (s.dropLoad l).nTag = s.nTag := rfl
@[simp] theorem State.dropLoad_nStep (s : State) (l : Nat) : (s.dropLoad l).nStep = s.nStep := rfl
@[simp] theorem State.dropLoad_served (s : State) (l : Nat) : (s.dropLoad l).served = s.served := rfl
@[simp] theorem State.dropLoad_hostRq (s : State) (l : Nat) : (s.dropLoad l).hostRq = s.hostRq := rfl
@[simp] theorem State.dropLoad_nHost (s : State) (l : Nat) : (s.dropLoad l).nHost = s.nHost := rfl
@[simp] theorem State.dropLoad_snoop (s : State) (l : Nat) : (s.dropLoad l).snoop = s.snoop := rfl
@[simp] theorem State.dropLoad_snooped (s : State) (l : Nat) : (s.dropLoad l).snooped = s.snooped := rfl
@[simp] theorem State.dropLoad_borders (s : State) (l : Nat) : (s.dropLoad l).borders = s.borders := rfl
@[simp] theorem State.dropLoad_early (s : State) (l : Nat) : (s.dropLoad l).early = s.early := rfl
@[simp] theorem State.dropLoad_tests (s : State) (l : Nat) : (s.dropLoad l).tests = s.tests := rfl
@[simp] theorem State.dropLoad_upsets (s : State) (l : Nat) : (s.dropLoad l).upsets = s.upsets := rfl
@[simp] theorem State.dropLoad_memHeld (s : State) (l : Nat) : (s.dropLoad l).memHeld = s.memHeld := rfl
@[simp] theorem State.dropLoad_nTest (s : State) (l : Nat) : (s.dropLoad l).nTest = s.nTest := rfl
@[simp] theorem State.dropLoad_probes (s : State) (l : Nat) : (s.dropLoad l).probes = s.probes := rfl
@[simp] theorem State.dropLoad_nProbe (s : State) (l : Nat) : (s.dropLoad l).nProbe = s.nProbe := rfl
@[simp] theorem State.dropLoad_compact (s : State) (l : Nat) : (s.dropLoad l).compact = s.compact := rfl
@[simp] theorem State.dropLoad_sweepAt (s : State) (l : Nat) : (s.dropLoad l).sweepAt = s.sweepAt := rfl
@[simp] theorem State.dropLoad_fresh (s : State) (l : Nat) : (s.dropLoad l).fresh = s.fresh := rfl
@[simp] theorem State.dropLoad_out (s : State) (l : Nat) : (s.dropLoad l).out = s.out := rfl
@[simp] theorem State.dropLoad_slot_at (s : State) (l : Nat) (i : Nat) : (s.dropLoad l).slot i = s.slot i := rfl
@[simp] theorem State.dropLoad_core_at (s : State) (l : Nat) (i : Nat) : (s.dropLoad l).core i = s.core i := rfl
@[simp] theorem State.dropLoad_die_at (s : State) (l : Nat) (i : Nat) : (s.dropLoad l).die i = s.die i := rfl
@[simp] theorem State.dropLoad_tq_at (s : State) (l : Nat) (i : Nat) : (s.dropLoad l).tq i = s.tq i := rfl
@[simp] theorem State.dropLoad_queue_at (s : State) (l : Nat) (i : Nat) : (s.dropLoad l).queue i = s.queue i := rfl
@[simp] theorem State.dropLoad_tile_at (s : State) (l : Nat) (i : Nat) : (s.dropLoad l).tile i = s.tile i := rfl
@[simp] theorem State.dropLoad_port_at (s : State) (l : Nat) (i : Nat) : (s.dropLoad l).port i = s.port i := rfl
@[simp] theorem State.dropLoad_task_at (s : State) (l : Nat) (i : Nat) : (s.dropLoad l).task i = s.task i := rfl

/-! ## setTask -/

@[simp] theorem State.setTask_agenda (s : State) (t : Nat) (x : Option Task) : (s.setTask t x).agenda = s.agenda := rfl
@[simp] theorem State.setTask_cur (s : State) (t : Nat) (x : Option Task) : (s.setTask t x).cur = s.cur := rfl
@[simp] theorem State.setTask_pos (s : State) (t : Nat) (x : Option Task) : (s.setTask t x).pos = s.pos := rfl
@[simp] theorem State.setTask_clock (s : State) (t : Nat) (x : Option Task) : (s.setTask t x).clock = s.clock := rfl
@[simp] theorem State.setTask_cycle (s : State) (t : Nat) (x : Option Task) : (s.setTask t x).cycle = s.cycle := rfl
@[simp] theorem State.setTask_fab (s : State) (t : Nat) (x : Option Task) : (s.setTask t x).fab = s.fab := rfl
@[simp] theorem State.setTask_net (s : State) (t : Nat) (x : Option Task) : (s.setTask t x).net = s.net := rfl
@[simp] theorem State.setTask_fabPh (s : State) (t : Nat) (x : Option Task) : (s.setTask t x).fabPh = s.fabPh := rfl
@[simp] theorem State.setTask_netPh (s : State) (t : Nat) (x : Option Task) : (s.setTask t x).netPh = s.netPh := rfl
@[simp] theorem State.setTask_pkg (s : State) (t : Nat) (x : Option Task) : (s.setTask t x).pkg = s.pkg := rfl
@[simp] theorem State.setTask_mem (s : State) (t : Nat) (x : Option Task) : (s.setTask t x).mem = s.mem := rfl
@[simp] theorem State.setTask_poison (s : State) (t : Nat) (x : Option Task) : (s.setTask t x).poison = s.poison := rfl
@[simp] theorem State.setTask_prov (s : State) (t : Nat) (x : Option Task) : (s.setTask t x).prov = s.prov := rfl
@[simp] theorem State.setTask_slots (s : State) (t : Nat) (x : Option Task) : (s.setTask t x).slots = s.slots := rfl
@[simp] theorem State.setTask_cores (s : State) (t : Nat) (x : Option Task) : (s.setTask t x).cores = s.cores := rfl
@[simp] theorem State.setTask_dies (s : State) (t : Nat) (x : Option Task) : (s.setTask t x).dies = s.dies := rfl
@[simp] theorem State.setTask_tqs (s : State) (t : Nat) (x : Option Task) : (s.setTask t x).tqs = s.tqs := rfl
@[simp] theorem State.setTask_nTask (s : State) (t : Nat) (x : Option Task) : (s.setTask t x).nTask = s.nTask := rfl
@[simp] theorem State.setTask_queues (s : State) (t : Nat) (x : Option Task) : (s.setTask t x).queues = s.queues := rfl
@[simp] theorem State.setTask_loads (s : State) (t : Nat) (x : Option Task) : (s.setTask t x).loads = s.loads := rfl
@[simp] theorem State.setTask_tiles (s : State) (t : Nat) (x : Option Task) : (s.setTask t x).tiles = s.tiles := rfl
@[simp] theorem State.setTask_ports (s : State) (t : Nat) (x : Option Task) : (s.setTask t x).ports = s.ports := rfl
@[simp] theorem State.setTask_droute (s : State) (t : Nat) (x : Option Task) : (s.setTask t x).droute = s.droute := rfl
@[simp] theorem State.setTask_msix (s : State) (t : Nat) (x : Option Task) : (s.setTask t x).msix = s.msix := rfl
@[simp] theorem State.setTask_msixP (s : State) (t : Nat) (x : Option Task) : (s.setTask t x).msixP = s.msixP := rfl
@[simp] theorem State.setTask_inbox (s : State) (t : Nat) (x : Option Task) : (s.setTask t x).inbox = s.inbox := rfl
@[simp] theorem State.setTask_remotes (s : State) (t : Nat) (x : Option Task) : (s.setTask t x).remotes = s.remotes := rfl
@[simp] theorem State.setTask_nTag (s : State) (t : Nat) (x : Option Task) : (s.setTask t x).nTag = s.nTag := rfl
@[simp] theorem State.setTask_nStep (s : State) (t : Nat) (x : Option Task) : (s.setTask t x).nStep = s.nStep := rfl
@[simp] theorem State.setTask_served (s : State) (t : Nat) (x : Option Task) : (s.setTask t x).served = s.served := rfl
@[simp] theorem State.setTask_hostRq (s : State) (t : Nat) (x : Option Task) : (s.setTask t x).hostRq = s.hostRq := rfl
@[simp] theorem State.setTask_nHost (s : State) (t : Nat) (x : Option Task) : (s.setTask t x).nHost = s.nHost := rfl
@[simp] theorem State.setTask_snoop (s : State) (t : Nat) (x : Option Task) : (s.setTask t x).snoop = s.snoop := rfl
@[simp] theorem State.setTask_snooped (s : State) (t : Nat) (x : Option Task) : (s.setTask t x).snooped = s.snooped := rfl
@[simp] theorem State.setTask_borders (s : State) (t : Nat) (x : Option Task) : (s.setTask t x).borders = s.borders := rfl
@[simp] theorem State.setTask_early (s : State) (t : Nat) (x : Option Task) : (s.setTask t x).early = s.early := rfl
@[simp] theorem State.setTask_tests (s : State) (t : Nat) (x : Option Task) : (s.setTask t x).tests = s.tests := rfl
@[simp] theorem State.setTask_upsets (s : State) (t : Nat) (x : Option Task) : (s.setTask t x).upsets = s.upsets := rfl
@[simp] theorem State.setTask_memHeld (s : State) (t : Nat) (x : Option Task) : (s.setTask t x).memHeld = s.memHeld := rfl
@[simp] theorem State.setTask_nTest (s : State) (t : Nat) (x : Option Task) : (s.setTask t x).nTest = s.nTest := rfl
@[simp] theorem State.setTask_probes (s : State) (t : Nat) (x : Option Task) : (s.setTask t x).probes = s.probes := rfl
@[simp] theorem State.setTask_nProbe (s : State) (t : Nat) (x : Option Task) : (s.setTask t x).nProbe = s.nProbe := rfl
@[simp] theorem State.setTask_compact (s : State) (t : Nat) (x : Option Task) : (s.setTask t x).compact = s.compact := rfl
@[simp] theorem State.setTask_sweepAt (s : State) (t : Nat) (x : Option Task) : (s.setTask t x).sweepAt = s.sweepAt := rfl
@[simp] theorem State.setTask_fresh (s : State) (t : Nat) (x : Option Task) : (s.setTask t x).fresh = s.fresh := rfl
@[simp] theorem State.setTask_out (s : State) (t : Nat) (x : Option Task) : (s.setTask t x).out = s.out := rfl
@[simp] theorem State.setTask_slot_at (s : State) (t : Nat) (x : Option Task) (i : Nat) : (s.setTask t x).slot i = s.slot i := rfl
@[simp] theorem State.setTask_core_at (s : State) (t : Nat) (x : Option Task) (i : Nat) : (s.setTask t x).core i = s.core i := rfl
@[simp] theorem State.setTask_die_at (s : State) (t : Nat) (x : Option Task) (i : Nat) : (s.setTask t x).die i = s.die i := rfl
@[simp] theorem State.setTask_tq_at (s : State) (t : Nat) (x : Option Task) (i : Nat) : (s.setTask t x).tq i = s.tq i := rfl
@[simp] theorem State.setTask_queue_at (s : State) (t : Nat) (x : Option Task) (i : Nat) : (s.setTask t x).queue i = s.queue i := rfl
@[simp] theorem State.setTask_tile_at (s : State) (t : Nat) (x : Option Task) (i : Nat) : (s.setTask t x).tile i = s.tile i := rfl
@[simp] theorem State.setTask_port_at (s : State) (t : Nat) (x : Option Task) (i : Nat) : (s.setTask t x).port i = s.port i := rfl
@[simp] theorem State.setTask_load_at (s : State) (t : Nat) (x : Option Task) (i : Nat) : (s.setTask t x).load i = s.load i := rfl

/-! ## setStream -/

@[simp] theorem State.setStream_agenda (s : State) (c n : Nat) (x : Option Stream) : (s.setStream c n x).agenda = s.agenda := rfl
@[simp] theorem State.setStream_cur (s : State) (c n : Nat) (x : Option Stream) : (s.setStream c n x).cur = s.cur := rfl
@[simp] theorem State.setStream_pos (s : State) (c n : Nat) (x : Option Stream) : (s.setStream c n x).pos = s.pos := rfl
@[simp] theorem State.setStream_clock (s : State) (c n : Nat) (x : Option Stream) : (s.setStream c n x).clock = s.clock := rfl
@[simp] theorem State.setStream_cycle (s : State) (c n : Nat) (x : Option Stream) : (s.setStream c n x).cycle = s.cycle := rfl
@[simp] theorem State.setStream_fab (s : State) (c n : Nat) (x : Option Stream) : (s.setStream c n x).fab = s.fab := rfl
@[simp] theorem State.setStream_net (s : State) (c n : Nat) (x : Option Stream) : (s.setStream c n x).net = s.net := rfl
@[simp] theorem State.setStream_fabPh (s : State) (c n : Nat) (x : Option Stream) : (s.setStream c n x).fabPh = s.fabPh := rfl
@[simp] theorem State.setStream_netPh (s : State) (c n : Nat) (x : Option Stream) : (s.setStream c n x).netPh = s.netPh := rfl
@[simp] theorem State.setStream_pkg (s : State) (c n : Nat) (x : Option Stream) : (s.setStream c n x).pkg = s.pkg := rfl
@[simp] theorem State.setStream_mem (s : State) (c n : Nat) (x : Option Stream) : (s.setStream c n x).mem = s.mem := rfl
@[simp] theorem State.setStream_poison (s : State) (c n : Nat) (x : Option Stream) : (s.setStream c n x).poison = s.poison := rfl
@[simp] theorem State.setStream_prov (s : State) (c n : Nat) (x : Option Stream) : (s.setStream c n x).prov = s.prov := rfl
@[simp] theorem State.setStream_slots (s : State) (c n : Nat) (x : Option Stream) : (s.setStream c n x).slots = s.slots := rfl
@[simp] theorem State.setStream_dies (s : State) (c n : Nat) (x : Option Stream) : (s.setStream c n x).dies = s.dies := rfl
@[simp] theorem State.setStream_tqs (s : State) (c n : Nat) (x : Option Stream) : (s.setStream c n x).tqs = s.tqs := rfl
@[simp] theorem State.setStream_tasks (s : State) (c n : Nat) (x : Option Stream) : (s.setStream c n x).tasks = s.tasks := rfl
@[simp] theorem State.setStream_nTask (s : State) (c n : Nat) (x : Option Stream) : (s.setStream c n x).nTask = s.nTask := rfl
@[simp] theorem State.setStream_queues (s : State) (c n : Nat) (x : Option Stream) : (s.setStream c n x).queues = s.queues := rfl
@[simp] theorem State.setStream_loads (s : State) (c n : Nat) (x : Option Stream) : (s.setStream c n x).loads = s.loads := rfl
@[simp] theorem State.setStream_tiles (s : State) (c n : Nat) (x : Option Stream) : (s.setStream c n x).tiles = s.tiles := rfl
@[simp] theorem State.setStream_ports (s : State) (c n : Nat) (x : Option Stream) : (s.setStream c n x).ports = s.ports := rfl
@[simp] theorem State.setStream_droute (s : State) (c n : Nat) (x : Option Stream) : (s.setStream c n x).droute = s.droute := rfl
@[simp] theorem State.setStream_msix (s : State) (c n : Nat) (x : Option Stream) : (s.setStream c n x).msix = s.msix := rfl
@[simp] theorem State.setStream_msixP (s : State) (c n : Nat) (x : Option Stream) : (s.setStream c n x).msixP = s.msixP := rfl
@[simp] theorem State.setStream_inbox (s : State) (c n : Nat) (x : Option Stream) : (s.setStream c n x).inbox = s.inbox := rfl
@[simp] theorem State.setStream_remotes (s : State) (c n : Nat) (x : Option Stream) : (s.setStream c n x).remotes = s.remotes := rfl
@[simp] theorem State.setStream_nTag (s : State) (c n : Nat) (x : Option Stream) : (s.setStream c n x).nTag = s.nTag := rfl
@[simp] theorem State.setStream_nStep (s : State) (c n : Nat) (x : Option Stream) : (s.setStream c n x).nStep = s.nStep := rfl
@[simp] theorem State.setStream_served (s : State) (c n : Nat) (x : Option Stream) : (s.setStream c n x).served = s.served := rfl
@[simp] theorem State.setStream_hostRq (s : State) (c n : Nat) (x : Option Stream) : (s.setStream c n x).hostRq = s.hostRq := rfl
@[simp] theorem State.setStream_nHost (s : State) (c n : Nat) (x : Option Stream) : (s.setStream c n x).nHost = s.nHost := rfl
@[simp] theorem State.setStream_snoop (s : State) (c n : Nat) (x : Option Stream) : (s.setStream c n x).snoop = s.snoop := rfl
@[simp] theorem State.setStream_snooped (s : State) (c n : Nat) (x : Option Stream) : (s.setStream c n x).snooped = s.snooped := rfl
@[simp] theorem State.setStream_borders (s : State) (c n : Nat) (x : Option Stream) : (s.setStream c n x).borders = s.borders := rfl
@[simp] theorem State.setStream_early (s : State) (c n : Nat) (x : Option Stream) : (s.setStream c n x).early = s.early := rfl
@[simp] theorem State.setStream_tests (s : State) (c n : Nat) (x : Option Stream) : (s.setStream c n x).tests = s.tests := rfl
@[simp] theorem State.setStream_upsets (s : State) (c n : Nat) (x : Option Stream) : (s.setStream c n x).upsets = s.upsets := rfl
@[simp] theorem State.setStream_memHeld (s : State) (c n : Nat) (x : Option Stream) : (s.setStream c n x).memHeld = s.memHeld := rfl
@[simp] theorem State.setStream_nTest (s : State) (c n : Nat) (x : Option Stream) : (s.setStream c n x).nTest = s.nTest := rfl
@[simp] theorem State.setStream_probes (s : State) (c n : Nat) (x : Option Stream) : (s.setStream c n x).probes = s.probes := rfl
@[simp] theorem State.setStream_nProbe (s : State) (c n : Nat) (x : Option Stream) : (s.setStream c n x).nProbe = s.nProbe := rfl
@[simp] theorem State.setStream_compact (s : State) (c n : Nat) (x : Option Stream) : (s.setStream c n x).compact = s.compact := rfl
@[simp] theorem State.setStream_sweepAt (s : State) (c n : Nat) (x : Option Stream) : (s.setStream c n x).sweepAt = s.sweepAt := rfl
@[simp] theorem State.setStream_fresh (s : State) (c n : Nat) (x : Option Stream) : (s.setStream c n x).fresh = s.fresh := rfl
@[simp] theorem State.setStream_out (s : State) (c n : Nat) (x : Option Stream) : (s.setStream c n x).out = s.out := rfl
@[simp] theorem State.setStream_slot_at (s : State) (c n : Nat) (x : Option Stream) (i : Nat) : (s.setStream c n x).slot i = s.slot i := rfl
@[simp] theorem State.setStream_die_at (s : State) (c n : Nat) (x : Option Stream) (i : Nat) : (s.setStream c n x).die i = s.die i := rfl
@[simp] theorem State.setStream_tq_at (s : State) (c n : Nat) (x : Option Stream) (i : Nat) : (s.setStream c n x).tq i = s.tq i := rfl
@[simp] theorem State.setStream_queue_at (s : State) (c n : Nat) (x : Option Stream) (i : Nat) : (s.setStream c n x).queue i = s.queue i := rfl
@[simp] theorem State.setStream_tile_at (s : State) (c n : Nat) (x : Option Stream) (i : Nat) : (s.setStream c n x).tile i = s.tile i := rfl
@[simp] theorem State.setStream_port_at (s : State) (c n : Nat) (x : Option Stream) (i : Nat) : (s.setStream c n x).port i = s.port i := rfl
@[simp] theorem State.setStream_load_at (s : State) (c n : Nat) (x : Option Stream) (i : Nat) : (s.setStream c n x).load i = s.load i := rfl
@[simp] theorem State.setStream_task_at (s : State) (c n : Nat) (x : Option Stream) (i : Nat) : (s.setStream c n x).task i = s.task i := rfl

/-! ## setCopy -/

@[simp] theorem State.setCopy_agenda (s : State) (c n : Nat) (x : Option CopyEng) : (s.setCopy c n x).agenda = s.agenda := rfl
@[simp] theorem State.setCopy_cur (s : State) (c n : Nat) (x : Option CopyEng) : (s.setCopy c n x).cur = s.cur := rfl
@[simp] theorem State.setCopy_pos (s : State) (c n : Nat) (x : Option CopyEng) : (s.setCopy c n x).pos = s.pos := rfl
@[simp] theorem State.setCopy_clock (s : State) (c n : Nat) (x : Option CopyEng) : (s.setCopy c n x).clock = s.clock := rfl
@[simp] theorem State.setCopy_cycle (s : State) (c n : Nat) (x : Option CopyEng) : (s.setCopy c n x).cycle = s.cycle := rfl
@[simp] theorem State.setCopy_fab (s : State) (c n : Nat) (x : Option CopyEng) : (s.setCopy c n x).fab = s.fab := rfl
@[simp] theorem State.setCopy_net (s : State) (c n : Nat) (x : Option CopyEng) : (s.setCopy c n x).net = s.net := rfl
@[simp] theorem State.setCopy_fabPh (s : State) (c n : Nat) (x : Option CopyEng) : (s.setCopy c n x).fabPh = s.fabPh := rfl
@[simp] theorem State.setCopy_netPh (s : State) (c n : Nat) (x : Option CopyEng) : (s.setCopy c n x).netPh = s.netPh := rfl
@[simp] theorem State.setCopy_pkg (s : State) (c n : Nat) (x : Option CopyEng) : (s.setCopy c n x).pkg = s.pkg := rfl
@[simp] theorem State.setCopy_mem (s : State) (c n : Nat) (x : Option CopyEng) : (s.setCopy c n x).mem = s.mem := rfl
@[simp] theorem State.setCopy_poison (s : State) (c n : Nat) (x : Option CopyEng) : (s.setCopy c n x).poison = s.poison := rfl
@[simp] theorem State.setCopy_prov (s : State) (c n : Nat) (x : Option CopyEng) : (s.setCopy c n x).prov = s.prov := rfl
@[simp] theorem State.setCopy_slots (s : State) (c n : Nat) (x : Option CopyEng) : (s.setCopy c n x).slots = s.slots := rfl
@[simp] theorem State.setCopy_dies (s : State) (c n : Nat) (x : Option CopyEng) : (s.setCopy c n x).dies = s.dies := rfl
@[simp] theorem State.setCopy_tqs (s : State) (c n : Nat) (x : Option CopyEng) : (s.setCopy c n x).tqs = s.tqs := rfl
@[simp] theorem State.setCopy_tasks (s : State) (c n : Nat) (x : Option CopyEng) : (s.setCopy c n x).tasks = s.tasks := rfl
@[simp] theorem State.setCopy_nTask (s : State) (c n : Nat) (x : Option CopyEng) : (s.setCopy c n x).nTask = s.nTask := rfl
@[simp] theorem State.setCopy_queues (s : State) (c n : Nat) (x : Option CopyEng) : (s.setCopy c n x).queues = s.queues := rfl
@[simp] theorem State.setCopy_loads (s : State) (c n : Nat) (x : Option CopyEng) : (s.setCopy c n x).loads = s.loads := rfl
@[simp] theorem State.setCopy_tiles (s : State) (c n : Nat) (x : Option CopyEng) : (s.setCopy c n x).tiles = s.tiles := rfl
@[simp] theorem State.setCopy_ports (s : State) (c n : Nat) (x : Option CopyEng) : (s.setCopy c n x).ports = s.ports := rfl
@[simp] theorem State.setCopy_droute (s : State) (c n : Nat) (x : Option CopyEng) : (s.setCopy c n x).droute = s.droute := rfl
@[simp] theorem State.setCopy_msix (s : State) (c n : Nat) (x : Option CopyEng) : (s.setCopy c n x).msix = s.msix := rfl
@[simp] theorem State.setCopy_msixP (s : State) (c n : Nat) (x : Option CopyEng) : (s.setCopy c n x).msixP = s.msixP := rfl
@[simp] theorem State.setCopy_inbox (s : State) (c n : Nat) (x : Option CopyEng) : (s.setCopy c n x).inbox = s.inbox := rfl
@[simp] theorem State.setCopy_remotes (s : State) (c n : Nat) (x : Option CopyEng) : (s.setCopy c n x).remotes = s.remotes := rfl
@[simp] theorem State.setCopy_nTag (s : State) (c n : Nat) (x : Option CopyEng) : (s.setCopy c n x).nTag = s.nTag := rfl
@[simp] theorem State.setCopy_nStep (s : State) (c n : Nat) (x : Option CopyEng) : (s.setCopy c n x).nStep = s.nStep := rfl
@[simp] theorem State.setCopy_served (s : State) (c n : Nat) (x : Option CopyEng) : (s.setCopy c n x).served = s.served := rfl
@[simp] theorem State.setCopy_hostRq (s : State) (c n : Nat) (x : Option CopyEng) : (s.setCopy c n x).hostRq = s.hostRq := rfl
@[simp] theorem State.setCopy_nHost (s : State) (c n : Nat) (x : Option CopyEng) : (s.setCopy c n x).nHost = s.nHost := rfl
@[simp] theorem State.setCopy_snoop (s : State) (c n : Nat) (x : Option CopyEng) : (s.setCopy c n x).snoop = s.snoop := rfl
@[simp] theorem State.setCopy_snooped (s : State) (c n : Nat) (x : Option CopyEng) : (s.setCopy c n x).snooped = s.snooped := rfl
@[simp] theorem State.setCopy_borders (s : State) (c n : Nat) (x : Option CopyEng) : (s.setCopy c n x).borders = s.borders := rfl
@[simp] theorem State.setCopy_early (s : State) (c n : Nat) (x : Option CopyEng) : (s.setCopy c n x).early = s.early := rfl
@[simp] theorem State.setCopy_tests (s : State) (c n : Nat) (x : Option CopyEng) : (s.setCopy c n x).tests = s.tests := rfl
@[simp] theorem State.setCopy_upsets (s : State) (c n : Nat) (x : Option CopyEng) : (s.setCopy c n x).upsets = s.upsets := rfl
@[simp] theorem State.setCopy_memHeld (s : State) (c n : Nat) (x : Option CopyEng) : (s.setCopy c n x).memHeld = s.memHeld := rfl
@[simp] theorem State.setCopy_nTest (s : State) (c n : Nat) (x : Option CopyEng) : (s.setCopy c n x).nTest = s.nTest := rfl
@[simp] theorem State.setCopy_probes (s : State) (c n : Nat) (x : Option CopyEng) : (s.setCopy c n x).probes = s.probes := rfl
@[simp] theorem State.setCopy_nProbe (s : State) (c n : Nat) (x : Option CopyEng) : (s.setCopy c n x).nProbe = s.nProbe := rfl
@[simp] theorem State.setCopy_compact (s : State) (c n : Nat) (x : Option CopyEng) : (s.setCopy c n x).compact = s.compact := rfl
@[simp] theorem State.setCopy_sweepAt (s : State) (c n : Nat) (x : Option CopyEng) : (s.setCopy c n x).sweepAt = s.sweepAt := rfl
@[simp] theorem State.setCopy_fresh (s : State) (c n : Nat) (x : Option CopyEng) : (s.setCopy c n x).fresh = s.fresh := rfl
@[simp] theorem State.setCopy_out (s : State) (c n : Nat) (x : Option CopyEng) : (s.setCopy c n x).out = s.out := rfl
@[simp] theorem State.setCopy_slot_at (s : State) (c n : Nat) (x : Option CopyEng) (i : Nat) : (s.setCopy c n x).slot i = s.slot i := rfl
@[simp] theorem State.setCopy_die_at (s : State) (c n : Nat) (x : Option CopyEng) (i : Nat) : (s.setCopy c n x).die i = s.die i := rfl
@[simp] theorem State.setCopy_tq_at (s : State) (c n : Nat) (x : Option CopyEng) (i : Nat) : (s.setCopy c n x).tq i = s.tq i := rfl
@[simp] theorem State.setCopy_queue_at (s : State) (c n : Nat) (x : Option CopyEng) (i : Nat) : (s.setCopy c n x).queue i = s.queue i := rfl
@[simp] theorem State.setCopy_tile_at (s : State) (c n : Nat) (x : Option CopyEng) (i : Nat) : (s.setCopy c n x).tile i = s.tile i := rfl
@[simp] theorem State.setCopy_port_at (s : State) (c n : Nat) (x : Option CopyEng) (i : Nat) : (s.setCopy c n x).port i = s.port i := rfl
@[simp] theorem State.setCopy_load_at (s : State) (c n : Nat) (x : Option CopyEng) (i : Nat) : (s.setCopy c n x).load i = s.load i := rfl
@[simp] theorem State.setCopy_task_at (s : State) (c n : Nat) (x : Option CopyEng) (i : Nat) : (s.setCopy c n x).task i = s.task i := rfl

/-! ## setPoison -/

@[simp] theorem State.setPoison_agenda (s : State) (l : Nat) (b : Bool) : (s.setPoison l b).agenda = s.agenda := rfl
@[simp] theorem State.setPoison_cur (s : State) (l : Nat) (b : Bool) : (s.setPoison l b).cur = s.cur := rfl
@[simp] theorem State.setPoison_pos (s : State) (l : Nat) (b : Bool) : (s.setPoison l b).pos = s.pos := rfl
@[simp] theorem State.setPoison_clock (s : State) (l : Nat) (b : Bool) : (s.setPoison l b).clock = s.clock := rfl
@[simp] theorem State.setPoison_cycle (s : State) (l : Nat) (b : Bool) : (s.setPoison l b).cycle = s.cycle := rfl
@[simp] theorem State.setPoison_fab (s : State) (l : Nat) (b : Bool) : (s.setPoison l b).fab = s.fab := rfl
@[simp] theorem State.setPoison_net (s : State) (l : Nat) (b : Bool) : (s.setPoison l b).net = s.net := rfl
@[simp] theorem State.setPoison_fabPh (s : State) (l : Nat) (b : Bool) : (s.setPoison l b).fabPh = s.fabPh := rfl
@[simp] theorem State.setPoison_netPh (s : State) (l : Nat) (b : Bool) : (s.setPoison l b).netPh = s.netPh := rfl
@[simp] theorem State.setPoison_pkg (s : State) (l : Nat) (b : Bool) : (s.setPoison l b).pkg = s.pkg := rfl
@[simp] theorem State.setPoison_mem (s : State) (l : Nat) (b : Bool) : (s.setPoison l b).mem = s.mem := rfl
@[simp] theorem State.setPoison_prov (s : State) (l : Nat) (b : Bool) : (s.setPoison l b).prov = s.prov := rfl
@[simp] theorem State.setPoison_slots (s : State) (l : Nat) (b : Bool) : (s.setPoison l b).slots = s.slots := rfl
@[simp] theorem State.setPoison_cores (s : State) (l : Nat) (b : Bool) : (s.setPoison l b).cores = s.cores := rfl
@[simp] theorem State.setPoison_dies (s : State) (l : Nat) (b : Bool) : (s.setPoison l b).dies = s.dies := rfl
@[simp] theorem State.setPoison_tqs (s : State) (l : Nat) (b : Bool) : (s.setPoison l b).tqs = s.tqs := rfl
@[simp] theorem State.setPoison_tasks (s : State) (l : Nat) (b : Bool) : (s.setPoison l b).tasks = s.tasks := rfl
@[simp] theorem State.setPoison_nTask (s : State) (l : Nat) (b : Bool) : (s.setPoison l b).nTask = s.nTask := rfl
@[simp] theorem State.setPoison_queues (s : State) (l : Nat) (b : Bool) : (s.setPoison l b).queues = s.queues := rfl
@[simp] theorem State.setPoison_loads (s : State) (l : Nat) (b : Bool) : (s.setPoison l b).loads = s.loads := rfl
@[simp] theorem State.setPoison_tiles (s : State) (l : Nat) (b : Bool) : (s.setPoison l b).tiles = s.tiles := rfl
@[simp] theorem State.setPoison_ports (s : State) (l : Nat) (b : Bool) : (s.setPoison l b).ports = s.ports := rfl
@[simp] theorem State.setPoison_droute (s : State) (l : Nat) (b : Bool) : (s.setPoison l b).droute = s.droute := rfl
@[simp] theorem State.setPoison_msix (s : State) (l : Nat) (b : Bool) : (s.setPoison l b).msix = s.msix := rfl
@[simp] theorem State.setPoison_msixP (s : State) (l : Nat) (b : Bool) : (s.setPoison l b).msixP = s.msixP := rfl
@[simp] theorem State.setPoison_inbox (s : State) (l : Nat) (b : Bool) : (s.setPoison l b).inbox = s.inbox := rfl
@[simp] theorem State.setPoison_remotes (s : State) (l : Nat) (b : Bool) : (s.setPoison l b).remotes = s.remotes := rfl
@[simp] theorem State.setPoison_nTag (s : State) (l : Nat) (b : Bool) : (s.setPoison l b).nTag = s.nTag := rfl
@[simp] theorem State.setPoison_nStep (s : State) (l : Nat) (b : Bool) : (s.setPoison l b).nStep = s.nStep := rfl
@[simp] theorem State.setPoison_served (s : State) (l : Nat) (b : Bool) : (s.setPoison l b).served = s.served := rfl
@[simp] theorem State.setPoison_hostRq (s : State) (l : Nat) (b : Bool) : (s.setPoison l b).hostRq = s.hostRq := rfl
@[simp] theorem State.setPoison_nHost (s : State) (l : Nat) (b : Bool) : (s.setPoison l b).nHost = s.nHost := rfl
@[simp] theorem State.setPoison_snoop (s : State) (l : Nat) (b : Bool) : (s.setPoison l b).snoop = s.snoop := rfl
@[simp] theorem State.setPoison_snooped (s : State) (l : Nat) (b : Bool) : (s.setPoison l b).snooped = s.snooped := rfl
@[simp] theorem State.setPoison_borders (s : State) (l : Nat) (b : Bool) : (s.setPoison l b).borders = s.borders := rfl
@[simp] theorem State.setPoison_early (s : State) (l : Nat) (b : Bool) : (s.setPoison l b).early = s.early := rfl
@[simp] theorem State.setPoison_tests (s : State) (l : Nat) (b : Bool) : (s.setPoison l b).tests = s.tests := rfl
@[simp] theorem State.setPoison_upsets (s : State) (l : Nat) (b : Bool) : (s.setPoison l b).upsets = s.upsets := rfl
@[simp] theorem State.setPoison_memHeld (s : State) (l : Nat) (b : Bool) : (s.setPoison l b).memHeld = s.memHeld := rfl
@[simp] theorem State.setPoison_nTest (s : State) (l : Nat) (b : Bool) : (s.setPoison l b).nTest = s.nTest := rfl
@[simp] theorem State.setPoison_probes (s : State) (l : Nat) (b : Bool) : (s.setPoison l b).probes = s.probes := rfl
@[simp] theorem State.setPoison_nProbe (s : State) (l : Nat) (b : Bool) : (s.setPoison l b).nProbe = s.nProbe := rfl
@[simp] theorem State.setPoison_compact (s : State) (l : Nat) (b : Bool) : (s.setPoison l b).compact = s.compact := rfl
@[simp] theorem State.setPoison_sweepAt (s : State) (l : Nat) (b : Bool) : (s.setPoison l b).sweepAt = s.sweepAt := rfl
@[simp] theorem State.setPoison_fresh (s : State) (l : Nat) (b : Bool) : (s.setPoison l b).fresh = s.fresh := rfl
@[simp] theorem State.setPoison_out (s : State) (l : Nat) (b : Bool) : (s.setPoison l b).out = s.out := rfl
@[simp] theorem State.setPoison_slot_at (s : State) (l : Nat) (b : Bool) (i : Nat) : (s.setPoison l b).slot i = s.slot i := rfl
@[simp] theorem State.setPoison_core_at (s : State) (l : Nat) (b : Bool) (i : Nat) : (s.setPoison l b).core i = s.core i := rfl
@[simp] theorem State.setPoison_die_at (s : State) (l : Nat) (b : Bool) (i : Nat) : (s.setPoison l b).die i = s.die i := rfl
@[simp] theorem State.setPoison_tq_at (s : State) (l : Nat) (b : Bool) (i : Nat) : (s.setPoison l b).tq i = s.tq i := rfl
@[simp] theorem State.setPoison_queue_at (s : State) (l : Nat) (b : Bool) (i : Nat) : (s.setPoison l b).queue i = s.queue i := rfl
@[simp] theorem State.setPoison_tile_at (s : State) (l : Nat) (b : Bool) (i : Nat) : (s.setPoison l b).tile i = s.tile i := rfl
@[simp] theorem State.setPoison_port_at (s : State) (l : Nat) (b : Bool) (i : Nat) : (s.setPoison l b).port i = s.port i := rfl
@[simp] theorem State.setPoison_load_at (s : State) (l : Nat) (b : Bool) (i : Nat) : (s.setPoison l b).load i = s.load i := rfl
@[simp] theorem State.setPoison_task_at (s : State) (l : Nat) (b : Bool) (i : Nat) : (s.setPoison l b).task i = s.task i := rfl

/-! ## emit -/

@[simp] theorem State.emit_agenda (s : State) (o : Out) : (s.emit o).agenda = s.agenda := rfl
@[simp] theorem State.emit_cur (s : State) (o : Out) : (s.emit o).cur = s.cur := rfl
@[simp] theorem State.emit_pos (s : State) (o : Out) : (s.emit o).pos = s.pos := rfl
@[simp] theorem State.emit_clock (s : State) (o : Out) : (s.emit o).clock = s.clock := rfl
@[simp] theorem State.emit_cycle (s : State) (o : Out) : (s.emit o).cycle = s.cycle := rfl
@[simp] theorem State.emit_fab (s : State) (o : Out) : (s.emit o).fab = s.fab := rfl
@[simp] theorem State.emit_net (s : State) (o : Out) : (s.emit o).net = s.net := rfl
@[simp] theorem State.emit_fabPh (s : State) (o : Out) : (s.emit o).fabPh = s.fabPh := rfl
@[simp] theorem State.emit_netPh (s : State) (o : Out) : (s.emit o).netPh = s.netPh := rfl
@[simp] theorem State.emit_pkg (s : State) (o : Out) : (s.emit o).pkg = s.pkg := rfl
@[simp] theorem State.emit_mem (s : State) (o : Out) : (s.emit o).mem = s.mem := rfl
@[simp] theorem State.emit_poison (s : State) (o : Out) : (s.emit o).poison = s.poison := rfl
@[simp] theorem State.emit_prov (s : State) (o : Out) : (s.emit o).prov = s.prov := rfl
@[simp] theorem State.emit_slots (s : State) (o : Out) : (s.emit o).slots = s.slots := rfl
@[simp] theorem State.emit_cores (s : State) (o : Out) : (s.emit o).cores = s.cores := rfl
@[simp] theorem State.emit_dies (s : State) (o : Out) : (s.emit o).dies = s.dies := rfl
@[simp] theorem State.emit_tqs (s : State) (o : Out) : (s.emit o).tqs = s.tqs := rfl
@[simp] theorem State.emit_tasks (s : State) (o : Out) : (s.emit o).tasks = s.tasks := rfl
@[simp] theorem State.emit_nTask (s : State) (o : Out) : (s.emit o).nTask = s.nTask := rfl
@[simp] theorem State.emit_queues (s : State) (o : Out) : (s.emit o).queues = s.queues := rfl
@[simp] theorem State.emit_loads (s : State) (o : Out) : (s.emit o).loads = s.loads := rfl
@[simp] theorem State.emit_tiles (s : State) (o : Out) : (s.emit o).tiles = s.tiles := rfl
@[simp] theorem State.emit_ports (s : State) (o : Out) : (s.emit o).ports = s.ports := rfl
@[simp] theorem State.emit_droute (s : State) (o : Out) : (s.emit o).droute = s.droute := rfl
@[simp] theorem State.emit_msix (s : State) (o : Out) : (s.emit o).msix = s.msix := rfl
@[simp] theorem State.emit_msixP (s : State) (o : Out) : (s.emit o).msixP = s.msixP := rfl
@[simp] theorem State.emit_inbox (s : State) (o : Out) : (s.emit o).inbox = s.inbox := rfl
@[simp] theorem State.emit_remotes (s : State) (o : Out) : (s.emit o).remotes = s.remotes := rfl
@[simp] theorem State.emit_nTag (s : State) (o : Out) : (s.emit o).nTag = s.nTag := rfl
@[simp] theorem State.emit_nStep (s : State) (o : Out) : (s.emit o).nStep = s.nStep := rfl
@[simp] theorem State.emit_served (s : State) (o : Out) : (s.emit o).served = s.served := rfl
@[simp] theorem State.emit_hostRq (s : State) (o : Out) : (s.emit o).hostRq = s.hostRq := rfl
@[simp] theorem State.emit_nHost (s : State) (o : Out) : (s.emit o).nHost = s.nHost := rfl
@[simp] theorem State.emit_snoop (s : State) (o : Out) : (s.emit o).snoop = s.snoop := rfl
@[simp] theorem State.emit_snooped (s : State) (o : Out) : (s.emit o).snooped = s.snooped := rfl
@[simp] theorem State.emit_borders (s : State) (o : Out) : (s.emit o).borders = s.borders := rfl
@[simp] theorem State.emit_early (s : State) (o : Out) : (s.emit o).early = s.early := rfl
@[simp] theorem State.emit_tests (s : State) (o : Out) : (s.emit o).tests = s.tests := rfl
@[simp] theorem State.emit_upsets (s : State) (o : Out) : (s.emit o).upsets = s.upsets := rfl
@[simp] theorem State.emit_memHeld (s : State) (o : Out) : (s.emit o).memHeld = s.memHeld := rfl
@[simp] theorem State.emit_nTest (s : State) (o : Out) : (s.emit o).nTest = s.nTest := rfl
@[simp] theorem State.emit_probes (s : State) (o : Out) : (s.emit o).probes = s.probes := rfl
@[simp] theorem State.emit_nProbe (s : State) (o : Out) : (s.emit o).nProbe = s.nProbe := rfl
@[simp] theorem State.emit_compact (s : State) (o : Out) : (s.emit o).compact = s.compact := rfl
@[simp] theorem State.emit_sweepAt (s : State) (o : Out) : (s.emit o).sweepAt = s.sweepAt := rfl
@[simp] theorem State.emit_fresh (s : State) (o : Out) : (s.emit o).fresh = s.fresh := rfl
@[simp] theorem State.emit_slot_at (s : State) (o : Out) (i : Nat) : (s.emit o).slot i = s.slot i := rfl
@[simp] theorem State.emit_core_at (s : State) (o : Out) (i : Nat) : (s.emit o).core i = s.core i := rfl
@[simp] theorem State.emit_die_at (s : State) (o : Out) (i : Nat) : (s.emit o).die i = s.die i := rfl
@[simp] theorem State.emit_tq_at (s : State) (o : Out) (i : Nat) : (s.emit o).tq i = s.tq i := rfl
@[simp] theorem State.emit_queue_at (s : State) (o : Out) (i : Nat) : (s.emit o).queue i = s.queue i := rfl
@[simp] theorem State.emit_tile_at (s : State) (o : Out) (i : Nat) : (s.emit o).tile i = s.tile i := rfl
@[simp] theorem State.emit_port_at (s : State) (o : Out) (i : Nat) : (s.emit o).port i = s.port i := rfl
@[simp] theorem State.emit_load_at (s : State) (o : Out) (i : Nat) : (s.emit o).load i = s.load i := rfl
@[simp] theorem State.emit_task_at (s : State) (o : Out) (i : Nat) : (s.emit o).task i = s.task i := rfl

/-! ## setMe -/

@[simp] theorem State.setMe_agenda (s : State) (x : Slot) : (s.setMe x).agenda = s.agenda := rfl
@[simp] theorem State.setMe_cur (s : State) (x : Slot) : (s.setMe x).cur = s.cur := rfl
@[simp] theorem State.setMe_pos (s : State) (x : Slot) : (s.setMe x).pos = s.pos := rfl
@[simp] theorem State.setMe_clock (s : State) (x : Slot) : (s.setMe x).clock = s.clock := rfl
@[simp] theorem State.setMe_cycle (s : State) (x : Slot) : (s.setMe x).cycle = s.cycle := rfl
@[simp] theorem State.setMe_fab (s : State) (x : Slot) : (s.setMe x).fab = s.fab := rfl
@[simp] theorem State.setMe_net (s : State) (x : Slot) : (s.setMe x).net = s.net := rfl
@[simp] theorem State.setMe_fabPh (s : State) (x : Slot) : (s.setMe x).fabPh = s.fabPh := rfl
@[simp] theorem State.setMe_netPh (s : State) (x : Slot) : (s.setMe x).netPh = s.netPh := rfl
@[simp] theorem State.setMe_pkg (s : State) (x : Slot) : (s.setMe x).pkg = s.pkg := rfl
@[simp] theorem State.setMe_mem (s : State) (x : Slot) : (s.setMe x).mem = s.mem := rfl
@[simp] theorem State.setMe_poison (s : State) (x : Slot) : (s.setMe x).poison = s.poison := rfl
@[simp] theorem State.setMe_prov (s : State) (x : Slot) : (s.setMe x).prov = s.prov := rfl
@[simp] theorem State.setMe_cores (s : State) (x : Slot) : (s.setMe x).cores = s.cores := rfl
@[simp] theorem State.setMe_dies (s : State) (x : Slot) : (s.setMe x).dies = s.dies := rfl
@[simp] theorem State.setMe_tqs (s : State) (x : Slot) : (s.setMe x).tqs = s.tqs := rfl
@[simp] theorem State.setMe_tasks (s : State) (x : Slot) : (s.setMe x).tasks = s.tasks := rfl
@[simp] theorem State.setMe_nTask (s : State) (x : Slot) : (s.setMe x).nTask = s.nTask := rfl
@[simp] theorem State.setMe_queues (s : State) (x : Slot) : (s.setMe x).queues = s.queues := rfl
@[simp] theorem State.setMe_loads (s : State) (x : Slot) : (s.setMe x).loads = s.loads := rfl
@[simp] theorem State.setMe_tiles (s : State) (x : Slot) : (s.setMe x).tiles = s.tiles := rfl
@[simp] theorem State.setMe_ports (s : State) (x : Slot) : (s.setMe x).ports = s.ports := rfl
@[simp] theorem State.setMe_droute (s : State) (x : Slot) : (s.setMe x).droute = s.droute := rfl
@[simp] theorem State.setMe_msix (s : State) (x : Slot) : (s.setMe x).msix = s.msix := rfl
@[simp] theorem State.setMe_msixP (s : State) (x : Slot) : (s.setMe x).msixP = s.msixP := rfl
@[simp] theorem State.setMe_inbox (s : State) (x : Slot) : (s.setMe x).inbox = s.inbox := rfl
@[simp] theorem State.setMe_remotes (s : State) (x : Slot) : (s.setMe x).remotes = s.remotes := rfl
@[simp] theorem State.setMe_nTag (s : State) (x : Slot) : (s.setMe x).nTag = s.nTag := rfl
@[simp] theorem State.setMe_nStep (s : State) (x : Slot) : (s.setMe x).nStep = s.nStep := rfl
@[simp] theorem State.setMe_served (s : State) (x : Slot) : (s.setMe x).served = s.served := rfl
@[simp] theorem State.setMe_hostRq (s : State) (x : Slot) : (s.setMe x).hostRq = s.hostRq := rfl
@[simp] theorem State.setMe_nHost (s : State) (x : Slot) : (s.setMe x).nHost = s.nHost := rfl
@[simp] theorem State.setMe_snoop (s : State) (x : Slot) : (s.setMe x).snoop = s.snoop := rfl
@[simp] theorem State.setMe_snooped (s : State) (x : Slot) : (s.setMe x).snooped = s.snooped := rfl
@[simp] theorem State.setMe_borders (s : State) (x : Slot) : (s.setMe x).borders = s.borders := rfl
@[simp] theorem State.setMe_early (s : State) (x : Slot) : (s.setMe x).early = s.early := rfl
@[simp] theorem State.setMe_tests (s : State) (x : Slot) : (s.setMe x).tests = s.tests := rfl
@[simp] theorem State.setMe_upsets (s : State) (x : Slot) : (s.setMe x).upsets = s.upsets := rfl
@[simp] theorem State.setMe_memHeld (s : State) (x : Slot) : (s.setMe x).memHeld = s.memHeld := rfl
@[simp] theorem State.setMe_nTest (s : State) (x : Slot) : (s.setMe x).nTest = s.nTest := rfl
@[simp] theorem State.setMe_probes (s : State) (x : Slot) : (s.setMe x).probes = s.probes := rfl
@[simp] theorem State.setMe_nProbe (s : State) (x : Slot) : (s.setMe x).nProbe = s.nProbe := rfl
@[simp] theorem State.setMe_compact (s : State) (x : Slot) : (s.setMe x).compact = s.compact := rfl
@[simp] theorem State.setMe_sweepAt (s : State) (x : Slot) : (s.setMe x).sweepAt = s.sweepAt := rfl
@[simp] theorem State.setMe_fresh (s : State) (x : Slot) : (s.setMe x).fresh = s.fresh := rfl
@[simp] theorem State.setMe_out (s : State) (x : Slot) : (s.setMe x).out = s.out := rfl
@[simp] theorem State.setMe_core_at (s : State) (x : Slot) (i : Nat) : (s.setMe x).core i = s.core i := rfl
@[simp] theorem State.setMe_die_at (s : State) (x : Slot) (i : Nat) : (s.setMe x).die i = s.die i := rfl
@[simp] theorem State.setMe_tq_at (s : State) (x : Slot) (i : Nat) : (s.setMe x).tq i = s.tq i := rfl
@[simp] theorem State.setMe_queue_at (s : State) (x : Slot) (i : Nat) : (s.setMe x).queue i = s.queue i := rfl
@[simp] theorem State.setMe_tile_at (s : State) (x : Slot) (i : Nat) : (s.setMe x).tile i = s.tile i := rfl
@[simp] theorem State.setMe_port_at (s : State) (x : Slot) (i : Nat) : (s.setMe x).port i = s.port i := rfl
@[simp] theorem State.setMe_load_at (s : State) (x : Slot) (i : Nat) : (s.setMe x).load i = s.load i := rfl
@[simp] theorem State.setMe_task_at (s : State) (x : Slot) (i : Nat) : (s.setMe x).task i = s.task i := rfl

/-! ## wr -/

@[simp] theorem State.wr_agenda (s : State) (n : Nat) (v : Word) : (s.wr n v).agenda = s.agenda := rfl
@[simp] theorem State.wr_cur (s : State) (n : Nat) (v : Word) : (s.wr n v).cur = s.cur := rfl
@[simp] theorem State.wr_pos (s : State) (n : Nat) (v : Word) : (s.wr n v).pos = s.pos := rfl
@[simp] theorem State.wr_clock (s : State) (n : Nat) (v : Word) : (s.wr n v).clock = s.clock := rfl
@[simp] theorem State.wr_cycle (s : State) (n : Nat) (v : Word) : (s.wr n v).cycle = s.cycle := rfl
@[simp] theorem State.wr_fab (s : State) (n : Nat) (v : Word) : (s.wr n v).fab = s.fab := rfl
@[simp] theorem State.wr_net (s : State) (n : Nat) (v : Word) : (s.wr n v).net = s.net := rfl
@[simp] theorem State.wr_fabPh (s : State) (n : Nat) (v : Word) : (s.wr n v).fabPh = s.fabPh := rfl
@[simp] theorem State.wr_netPh (s : State) (n : Nat) (v : Word) : (s.wr n v).netPh = s.netPh := rfl
@[simp] theorem State.wr_pkg (s : State) (n : Nat) (v : Word) : (s.wr n v).pkg = s.pkg := rfl
@[simp] theorem State.wr_mem (s : State) (n : Nat) (v : Word) : (s.wr n v).mem = s.mem := rfl
@[simp] theorem State.wr_poison (s : State) (n : Nat) (v : Word) : (s.wr n v).poison = s.poison := rfl
@[simp] theorem State.wr_prov (s : State) (n : Nat) (v : Word) : (s.wr n v).prov = s.prov := rfl
@[simp] theorem State.wr_cores (s : State) (n : Nat) (v : Word) : (s.wr n v).cores = s.cores := rfl
@[simp] theorem State.wr_dies (s : State) (n : Nat) (v : Word) : (s.wr n v).dies = s.dies := rfl
@[simp] theorem State.wr_tqs (s : State) (n : Nat) (v : Word) : (s.wr n v).tqs = s.tqs := rfl
@[simp] theorem State.wr_tasks (s : State) (n : Nat) (v : Word) : (s.wr n v).tasks = s.tasks := rfl
@[simp] theorem State.wr_nTask (s : State) (n : Nat) (v : Word) : (s.wr n v).nTask = s.nTask := rfl
@[simp] theorem State.wr_queues (s : State) (n : Nat) (v : Word) : (s.wr n v).queues = s.queues := rfl
@[simp] theorem State.wr_loads (s : State) (n : Nat) (v : Word) : (s.wr n v).loads = s.loads := rfl
@[simp] theorem State.wr_tiles (s : State) (n : Nat) (v : Word) : (s.wr n v).tiles = s.tiles := rfl
@[simp] theorem State.wr_ports (s : State) (n : Nat) (v : Word) : (s.wr n v).ports = s.ports := rfl
@[simp] theorem State.wr_droute (s : State) (n : Nat) (v : Word) : (s.wr n v).droute = s.droute := rfl
@[simp] theorem State.wr_msix (s : State) (n : Nat) (v : Word) : (s.wr n v).msix = s.msix := rfl
@[simp] theorem State.wr_msixP (s : State) (n : Nat) (v : Word) : (s.wr n v).msixP = s.msixP := rfl
@[simp] theorem State.wr_inbox (s : State) (n : Nat) (v : Word) : (s.wr n v).inbox = s.inbox := rfl
@[simp] theorem State.wr_remotes (s : State) (n : Nat) (v : Word) : (s.wr n v).remotes = s.remotes := rfl
@[simp] theorem State.wr_nTag (s : State) (n : Nat) (v : Word) : (s.wr n v).nTag = s.nTag := rfl
@[simp] theorem State.wr_nStep (s : State) (n : Nat) (v : Word) : (s.wr n v).nStep = s.nStep := rfl
@[simp] theorem State.wr_served (s : State) (n : Nat) (v : Word) : (s.wr n v).served = s.served := rfl
@[simp] theorem State.wr_hostRq (s : State) (n : Nat) (v : Word) : (s.wr n v).hostRq = s.hostRq := rfl
@[simp] theorem State.wr_nHost (s : State) (n : Nat) (v : Word) : (s.wr n v).nHost = s.nHost := rfl
@[simp] theorem State.wr_snoop (s : State) (n : Nat) (v : Word) : (s.wr n v).snoop = s.snoop := rfl
@[simp] theorem State.wr_snooped (s : State) (n : Nat) (v : Word) : (s.wr n v).snooped = s.snooped := rfl
@[simp] theorem State.wr_borders (s : State) (n : Nat) (v : Word) : (s.wr n v).borders = s.borders := rfl
@[simp] theorem State.wr_early (s : State) (n : Nat) (v : Word) : (s.wr n v).early = s.early := rfl
@[simp] theorem State.wr_tests (s : State) (n : Nat) (v : Word) : (s.wr n v).tests = s.tests := rfl
@[simp] theorem State.wr_upsets (s : State) (n : Nat) (v : Word) : (s.wr n v).upsets = s.upsets := rfl
@[simp] theorem State.wr_memHeld (s : State) (n : Nat) (v : Word) : (s.wr n v).memHeld = s.memHeld := rfl
@[simp] theorem State.wr_nTest (s : State) (n : Nat) (v : Word) : (s.wr n v).nTest = s.nTest := rfl
@[simp] theorem State.wr_probes (s : State) (n : Nat) (v : Word) : (s.wr n v).probes = s.probes := rfl
@[simp] theorem State.wr_nProbe (s : State) (n : Nat) (v : Word) : (s.wr n v).nProbe = s.nProbe := rfl
@[simp] theorem State.wr_compact (s : State) (n : Nat) (v : Word) : (s.wr n v).compact = s.compact := rfl
@[simp] theorem State.wr_sweepAt (s : State) (n : Nat) (v : Word) : (s.wr n v).sweepAt = s.sweepAt := rfl
@[simp] theorem State.wr_fresh (s : State) (n : Nat) (v : Word) : (s.wr n v).fresh = s.fresh := rfl
@[simp] theorem State.wr_out (s : State) (n : Nat) (v : Word) : (s.wr n v).out = s.out := rfl
@[simp] theorem State.wr_core_at (s : State) (n : Nat) (v : Word) (i : Nat) : (s.wr n v).core i = s.core i := rfl
@[simp] theorem State.wr_die_at (s : State) (n : Nat) (v : Word) (i : Nat) : (s.wr n v).die i = s.die i := rfl
@[simp] theorem State.wr_tq_at (s : State) (n : Nat) (v : Word) (i : Nat) : (s.wr n v).tq i = s.tq i := rfl
@[simp] theorem State.wr_queue_at (s : State) (n : Nat) (v : Word) (i : Nat) : (s.wr n v).queue i = s.queue i := rfl
@[simp] theorem State.wr_tile_at (s : State) (n : Nat) (v : Word) (i : Nat) : (s.wr n v).tile i = s.tile i := rfl
@[simp] theorem State.wr_port_at (s : State) (n : Nat) (v : Word) (i : Nat) : (s.wr n v).port i = s.port i := rfl
@[simp] theorem State.wr_load_at (s : State) (n : Nat) (v : Word) (i : Nat) : (s.wr n v).load i = s.load i := rfl
@[simp] theorem State.wr_task_at (s : State) (n : Nat) (v : Word) (i : Nat) : (s.wr n v).task i = s.task i := rfl

/-! ## setPc -/

@[simp] theorem State.setPc_agenda (s : State) (v : Word) : (s.setPc v).agenda = s.agenda := rfl
@[simp] theorem State.setPc_cur (s : State) (v : Word) : (s.setPc v).cur = s.cur := rfl
@[simp] theorem State.setPc_pos (s : State) (v : Word) : (s.setPc v).pos = s.pos := rfl
@[simp] theorem State.setPc_clock (s : State) (v : Word) : (s.setPc v).clock = s.clock := rfl
@[simp] theorem State.setPc_cycle (s : State) (v : Word) : (s.setPc v).cycle = s.cycle := rfl
@[simp] theorem State.setPc_fab (s : State) (v : Word) : (s.setPc v).fab = s.fab := rfl
@[simp] theorem State.setPc_net (s : State) (v : Word) : (s.setPc v).net = s.net := rfl
@[simp] theorem State.setPc_fabPh (s : State) (v : Word) : (s.setPc v).fabPh = s.fabPh := rfl
@[simp] theorem State.setPc_netPh (s : State) (v : Word) : (s.setPc v).netPh = s.netPh := rfl
@[simp] theorem State.setPc_pkg (s : State) (v : Word) : (s.setPc v).pkg = s.pkg := rfl
@[simp] theorem State.setPc_mem (s : State) (v : Word) : (s.setPc v).mem = s.mem := rfl
@[simp] theorem State.setPc_poison (s : State) (v : Word) : (s.setPc v).poison = s.poison := rfl
@[simp] theorem State.setPc_prov (s : State) (v : Word) : (s.setPc v).prov = s.prov := rfl
@[simp] theorem State.setPc_cores (s : State) (v : Word) : (s.setPc v).cores = s.cores := rfl
@[simp] theorem State.setPc_dies (s : State) (v : Word) : (s.setPc v).dies = s.dies := rfl
@[simp] theorem State.setPc_tqs (s : State) (v : Word) : (s.setPc v).tqs = s.tqs := rfl
@[simp] theorem State.setPc_tasks (s : State) (v : Word) : (s.setPc v).tasks = s.tasks := rfl
@[simp] theorem State.setPc_nTask (s : State) (v : Word) : (s.setPc v).nTask = s.nTask := rfl
@[simp] theorem State.setPc_queues (s : State) (v : Word) : (s.setPc v).queues = s.queues := rfl
@[simp] theorem State.setPc_loads (s : State) (v : Word) : (s.setPc v).loads = s.loads := rfl
@[simp] theorem State.setPc_tiles (s : State) (v : Word) : (s.setPc v).tiles = s.tiles := rfl
@[simp] theorem State.setPc_ports (s : State) (v : Word) : (s.setPc v).ports = s.ports := rfl
@[simp] theorem State.setPc_droute (s : State) (v : Word) : (s.setPc v).droute = s.droute := rfl
@[simp] theorem State.setPc_msix (s : State) (v : Word) : (s.setPc v).msix = s.msix := rfl
@[simp] theorem State.setPc_msixP (s : State) (v : Word) : (s.setPc v).msixP = s.msixP := rfl
@[simp] theorem State.setPc_inbox (s : State) (v : Word) : (s.setPc v).inbox = s.inbox := rfl
@[simp] theorem State.setPc_remotes (s : State) (v : Word) : (s.setPc v).remotes = s.remotes := rfl
@[simp] theorem State.setPc_nTag (s : State) (v : Word) : (s.setPc v).nTag = s.nTag := rfl
@[simp] theorem State.setPc_nStep (s : State) (v : Word) : (s.setPc v).nStep = s.nStep := rfl
@[simp] theorem State.setPc_served (s : State) (v : Word) : (s.setPc v).served = s.served := rfl
@[simp] theorem State.setPc_hostRq (s : State) (v : Word) : (s.setPc v).hostRq = s.hostRq := rfl
@[simp] theorem State.setPc_nHost (s : State) (v : Word) : (s.setPc v).nHost = s.nHost := rfl
@[simp] theorem State.setPc_snoop (s : State) (v : Word) : (s.setPc v).snoop = s.snoop := rfl
@[simp] theorem State.setPc_snooped (s : State) (v : Word) : (s.setPc v).snooped = s.snooped := rfl
@[simp] theorem State.setPc_borders (s : State) (v : Word) : (s.setPc v).borders = s.borders := rfl
@[simp] theorem State.setPc_early (s : State) (v : Word) : (s.setPc v).early = s.early := rfl
@[simp] theorem State.setPc_tests (s : State) (v : Word) : (s.setPc v).tests = s.tests := rfl
@[simp] theorem State.setPc_upsets (s : State) (v : Word) : (s.setPc v).upsets = s.upsets := rfl
@[simp] theorem State.setPc_memHeld (s : State) (v : Word) : (s.setPc v).memHeld = s.memHeld := rfl
@[simp] theorem State.setPc_nTest (s : State) (v : Word) : (s.setPc v).nTest = s.nTest := rfl
@[simp] theorem State.setPc_probes (s : State) (v : Word) : (s.setPc v).probes = s.probes := rfl
@[simp] theorem State.setPc_nProbe (s : State) (v : Word) : (s.setPc v).nProbe = s.nProbe := rfl
@[simp] theorem State.setPc_compact (s : State) (v : Word) : (s.setPc v).compact = s.compact := rfl
@[simp] theorem State.setPc_sweepAt (s : State) (v : Word) : (s.setPc v).sweepAt = s.sweepAt := rfl
@[simp] theorem State.setPc_fresh (s : State) (v : Word) : (s.setPc v).fresh = s.fresh := rfl
@[simp] theorem State.setPc_out (s : State) (v : Word) : (s.setPc v).out = s.out := rfl
@[simp] theorem State.setPc_core_at (s : State) (v : Word) (i : Nat) : (s.setPc v).core i = s.core i := rfl
@[simp] theorem State.setPc_die_at (s : State) (v : Word) (i : Nat) : (s.setPc v).die i = s.die i := rfl
@[simp] theorem State.setPc_tq_at (s : State) (v : Word) (i : Nat) : (s.setPc v).tq i = s.tq i := rfl
@[simp] theorem State.setPc_queue_at (s : State) (v : Word) (i : Nat) : (s.setPc v).queue i = s.queue i := rfl
@[simp] theorem State.setPc_tile_at (s : State) (v : Word) (i : Nat) : (s.setPc v).tile i = s.tile i := rfl
@[simp] theorem State.setPc_port_at (s : State) (v : Word) (i : Nat) : (s.setPc v).port i = s.port i := rfl
@[simp] theorem State.setPc_load_at (s : State) (v : Word) (i : Nat) : (s.setPc v).load i = s.load i := rfl
@[simp] theorem State.setPc_task_at (s : State) (v : Word) (i : Nat) : (s.setPc v).task i = s.task i := rfl

/-! ## advance -/

@[simp] theorem State.advance_agenda (s : State) : (s.advance).agenda = s.agenda := rfl
@[simp] theorem State.advance_cur (s : State) : (s.advance).cur = s.cur := rfl
@[simp] theorem State.advance_pos (s : State) : (s.advance).pos = s.pos := rfl
@[simp] theorem State.advance_clock (s : State) : (s.advance).clock = s.clock := rfl
@[simp] theorem State.advance_cycle (s : State) : (s.advance).cycle = s.cycle := rfl
@[simp] theorem State.advance_fab (s : State) : (s.advance).fab = s.fab := rfl
@[simp] theorem State.advance_net (s : State) : (s.advance).net = s.net := rfl
@[simp] theorem State.advance_fabPh (s : State) : (s.advance).fabPh = s.fabPh := rfl
@[simp] theorem State.advance_netPh (s : State) : (s.advance).netPh = s.netPh := rfl
@[simp] theorem State.advance_pkg (s : State) : (s.advance).pkg = s.pkg := rfl
@[simp] theorem State.advance_mem (s : State) : (s.advance).mem = s.mem := rfl
@[simp] theorem State.advance_poison (s : State) : (s.advance).poison = s.poison := rfl
@[simp] theorem State.advance_prov (s : State) : (s.advance).prov = s.prov := rfl
@[simp] theorem State.advance_cores (s : State) : (s.advance).cores = s.cores := rfl
@[simp] theorem State.advance_dies (s : State) : (s.advance).dies = s.dies := rfl
@[simp] theorem State.advance_tqs (s : State) : (s.advance).tqs = s.tqs := rfl
@[simp] theorem State.advance_tasks (s : State) : (s.advance).tasks = s.tasks := rfl
@[simp] theorem State.advance_nTask (s : State) : (s.advance).nTask = s.nTask := rfl
@[simp] theorem State.advance_queues (s : State) : (s.advance).queues = s.queues := rfl
@[simp] theorem State.advance_loads (s : State) : (s.advance).loads = s.loads := rfl
@[simp] theorem State.advance_tiles (s : State) : (s.advance).tiles = s.tiles := rfl
@[simp] theorem State.advance_ports (s : State) : (s.advance).ports = s.ports := rfl
@[simp] theorem State.advance_droute (s : State) : (s.advance).droute = s.droute := rfl
@[simp] theorem State.advance_msix (s : State) : (s.advance).msix = s.msix := rfl
@[simp] theorem State.advance_msixP (s : State) : (s.advance).msixP = s.msixP := rfl
@[simp] theorem State.advance_inbox (s : State) : (s.advance).inbox = s.inbox := rfl
@[simp] theorem State.advance_remotes (s : State) : (s.advance).remotes = s.remotes := rfl
@[simp] theorem State.advance_nTag (s : State) : (s.advance).nTag = s.nTag := rfl
@[simp] theorem State.advance_nStep (s : State) : (s.advance).nStep = s.nStep := rfl
@[simp] theorem State.advance_served (s : State) : (s.advance).served = s.served := rfl
@[simp] theorem State.advance_hostRq (s : State) : (s.advance).hostRq = s.hostRq := rfl
@[simp] theorem State.advance_nHost (s : State) : (s.advance).nHost = s.nHost := rfl
@[simp] theorem State.advance_snoop (s : State) : (s.advance).snoop = s.snoop := rfl
@[simp] theorem State.advance_snooped (s : State) : (s.advance).snooped = s.snooped := rfl
@[simp] theorem State.advance_borders (s : State) : (s.advance).borders = s.borders := rfl
@[simp] theorem State.advance_early (s : State) : (s.advance).early = s.early := rfl
@[simp] theorem State.advance_tests (s : State) : (s.advance).tests = s.tests := rfl
@[simp] theorem State.advance_upsets (s : State) : (s.advance).upsets = s.upsets := rfl
@[simp] theorem State.advance_memHeld (s : State) : (s.advance).memHeld = s.memHeld := rfl
@[simp] theorem State.advance_nTest (s : State) : (s.advance).nTest = s.nTest := rfl
@[simp] theorem State.advance_probes (s : State) : (s.advance).probes = s.probes := rfl
@[simp] theorem State.advance_nProbe (s : State) : (s.advance).nProbe = s.nProbe := rfl
@[simp] theorem State.advance_compact (s : State) : (s.advance).compact = s.compact := rfl
@[simp] theorem State.advance_sweepAt (s : State) : (s.advance).sweepAt = s.sweepAt := rfl
@[simp] theorem State.advance_fresh (s : State) : (s.advance).fresh = s.fresh := rfl
@[simp] theorem State.advance_out (s : State) : (s.advance).out = s.out := rfl
@[simp] theorem State.advance_core_at (s : State) (i : Nat) : (s.advance).core i = s.core i := rfl
@[simp] theorem State.advance_die_at (s : State) (i : Nat) : (s.advance).die i = s.die i := rfl
@[simp] theorem State.advance_tq_at (s : State) (i : Nat) : (s.advance).tq i = s.tq i := rfl
@[simp] theorem State.advance_queue_at (s : State) (i : Nat) : (s.advance).queue i = s.queue i := rfl
@[simp] theorem State.advance_tile_at (s : State) (i : Nat) : (s.advance).tile i = s.tile i := rfl
@[simp] theorem State.advance_port_at (s : State) (i : Nat) : (s.advance).port i = s.port i := rfl
@[simp] theorem State.advance_load_at (s : State) (i : Nat) : (s.advance).load i = s.load i := rfl
@[simp] theorem State.advance_task_at (s : State) (i : Nat) : (s.advance).task i = s.task i := rfl

/-! ## The entry written -/

theorem State.slot_setSlot (s : State) (k j : Nat) (x : Slot) :
    (s.setSlot k x).slot j = if j = k then x else s.slot j := Tab.get_set _ _ _ _ _
@[simp] theorem State.slot_setSlot_same (s : State) (k : Nat) (x : Slot) : (s.setSlot k x).slot k = x :=
  Tab.get_set_same _ _ _ _
theorem State.slot_setSlot_ne (s : State) {k j : Nat} (x : Slot) (h : j ≠ k) : (s.setSlot k x).slot j = s.slot j :=
  Tab.get_set_ne _ _ _ h

theorem State.core_setCore (s : State) (k j : Nat) (x : Core) :
    (s.setCore k x).core j = if j = k then x else s.core j := Tab.get_set _ _ _ _ _
@[simp] theorem State.core_setCore_same (s : State) (k : Nat) (x : Core) : (s.setCore k x).core k = x :=
  Tab.get_set_same _ _ _ _
theorem State.core_setCore_ne (s : State) {k j : Nat} (x : Core) (h : j ≠ k) : (s.setCore k x).core j = s.core j :=
  Tab.get_set_ne _ _ _ h

theorem State.die_setDie (s : State) (k j : Nat) (x : Die) :
    (s.setDie k x).die j = if j = k then x else s.die j := Tab.get_set _ _ _ _ _
@[simp] theorem State.die_setDie_same (s : State) (k : Nat) (x : Die) : (s.setDie k x).die k = x :=
  Tab.get_set_same _ _ _ _
theorem State.die_setDie_ne (s : State) {k j : Nat} (x : Die) (h : j ≠ k) : (s.setDie k x).die j = s.die j :=
  Tab.get_set_ne _ _ _ h

theorem State.tq_setTq (s : State) (k j : Nat) (x : TaskQ) :
    (s.setTq k x).tq j = if j = k then x else s.tq j := Tab.get_set _ _ _ _ _
@[simp] theorem State.tq_setTq_same (s : State) (k : Nat) (x : TaskQ) : (s.setTq k x).tq k = x :=
  Tab.get_set_same _ _ _ _
theorem State.tq_setTq_ne (s : State) {k j : Nat} (x : TaskQ) (h : j ≠ k) : (s.setTq k x).tq j = s.tq j :=
  Tab.get_set_ne _ _ _ h

theorem State.queue_setQueue (s : State) (k j : Nat) (x : Queue) :
    (s.setQueue k x).queue j = if j = k then x else s.queue j := Tab.get_set _ _ _ _ _
@[simp] theorem State.queue_setQueue_same (s : State) (k : Nat) (x : Queue) : (s.setQueue k x).queue k = x :=
  Tab.get_set_same _ _ _ _
theorem State.queue_setQueue_ne (s : State) {k j : Nat} (x : Queue) (h : j ≠ k) : (s.setQueue k x).queue j = s.queue j :=
  Tab.get_set_ne _ _ _ h

theorem State.tile_setTile (s : State) (k j : Nat) (x : Tile) :
    (s.setTile k x).tile j = if j = k then x else s.tile j := Tab.get_set _ _ _ _ _
@[simp] theorem State.tile_setTile_same (s : State) (k : Nat) (x : Tile) : (s.setTile k x).tile k = x :=
  Tab.get_set_same _ _ _ _
theorem State.tile_setTile_ne (s : State) {k j : Nat} (x : Tile) (h : j ≠ k) : (s.setTile k x).tile j = s.tile j :=
  Tab.get_set_ne _ _ _ h

theorem State.port_setPort (s : State) (k j : Nat) (x : Port) :
    (s.setPort k x).port j = if j = k then x else s.port j := Tab.get_set _ _ _ _ _
@[simp] theorem State.port_setPort_same (s : State) (k : Nat) (x : Port) : (s.setPort k x).port k = x :=
  Tab.get_set_same _ _ _ _
theorem State.port_setPort_ne (s : State) {k j : Nat} (x : Port) (h : j ≠ k) : (s.setPort k x).port j = s.port j :=
  Tab.get_set_ne _ _ _ h

theorem State.load_setLoad (s : State) (l j : Nat) (x : Load) :
    (s.setLoad l x).load j = if j = l then some x else s.load j := Tab.get_set none s.loads l j (some x)
@[simp] theorem State.load_setLoad_same (s : State) (l : Nat) (x : Load) : (s.setLoad l x).load l = some x :=
  Tab.get_set_same none s.loads l (some x)
theorem State.load_dropLoad (s : State) (l j : Nat) :
    (s.dropLoad l).load j = if j = l then none else s.load j := Tab.get_set none s.loads l j none
theorem State.task_setTask (s : State) (t j : Nat) (x : Option Task) :
    (s.setTask t x).task j = if j = t then x else s.task j := Tab.get_set none s.tasks t j x
theorem State.stream_setStream (s : State) (c n m : Nat) (x : Option Stream) :
    (s.setStream c n x).stream c m = if m = n then x else s.stream c m := by
  unfold State.stream State.setStream
  rw [State.core_setCore_same]
  exact Tab.get_set _ _ _ _ _
theorem State.copy_setCopy (s : State) (c n m : Nat) (x : Option CopyEng) :
    (s.setCopy c n x).copy c m = if m = n then x else s.copy c m := by
  unfold State.copy State.setCopy
  rw [State.core_setCore_same]
  exact Tab.get_set _ _ _ _ _

/-! ## The executing slot and its registers -/

@[simp] theorem State.me_setMe (s : State) (x : Slot) : (s.setMe x).me = x := Tab.get_set_same _ _ _ _
theorem State.slot_cur (s : State) : s.slot s.cur = s.me := rfl
@[simp] theorem State.setSlot_me (s : State) (x : Slot) : s.setSlot s.cur x = s.setMe x := rfl

/-- g0 reads 0, and what is written to it is discarded. -/
@[simp] theorem Slot.reg_zero (x : Slot) : x.reg 0 = 0 := rfl
@[simp] theorem Slot.setReg_zero (x : Slot) (v : Word) : x.setReg 0 v = x := rfl
theorem Slot.reg_setReg (x : Slot) (d n : Nat) (v : Word) :
    (x.setReg d v).reg n = if n = d ∧ d ≠ 0 then v else x.reg n := by
  unfold Slot.reg Slot.setReg
  by_cases hd : d = 0
  · simp [hd]
  · by_cases hn : n = 0
    · subst hn
      have : ¬ (0 = d ∧ d ≠ 0) := by omega
      rw [if_pos rfl, if_neg this, if_pos rfl]
    · simp only [hn, hd, if_false, ne_eq, not_false_eq_true, and_true, Tab.get_set]

@[simp] theorem Slot.setReg_st (x : Slot) (n : Nat) (v : Word) : (x.setReg n v).st = x.st := by
  unfold Slot.setReg; split <;> rfl
@[simp] theorem Slot.setReg_pc (x : Slot) (n : Nat) (v : Word) : (x.setReg n v).pc = x.pc := by
  unfold Slot.setReg; split <;> rfl
@[simp] theorem Slot.setReg_binds (x : Slot) (n : Nat) (v : Word) : (x.setReg n v).binds = x.binds := by
  unfold Slot.setReg; split <;> rfl
@[simp] theorem Slot.setReg_tstat (x : Slot) (n : Nat) (v : Word) : (x.setReg n v).tstat = x.tstat := by
  unfold Slot.setReg; split <;> rfl
@[simp] theorem Slot.setReg_tcause (x : Slot) (n : Nat) (v : Word) : (x.setReg n v).tcause = x.tcause := by
  unfold Slot.setReg; split <;> rfl
@[simp] theorem Slot.setReg_tepc (x : Slot) (n : Nat) (v : Word) : (x.setReg n v).tepc = x.tepc := by
  unfold Slot.setReg; split <;> rfl
@[simp] theorem Slot.setReg_tval (x : Slot) (n : Nat) (v : Word) : (x.setReg n v).tval = x.tval := by
  unfold Slot.setReg; split <;> rfl
@[simp] theorem Slot.setReg_tscratch (x : Slot) (n : Nat) (v : Word) : (x.setReg n v).tscratch = x.tscratch := by
  unfold Slot.setReg; split <;> rfl
@[simp] theorem Slot.setReg_asid (x : Slot) (n : Nat) (v : Word) : (x.setReg n v).asid = x.asid := by
  unfold Slot.setReg; split <;> rfl
@[simp] theorem Slot.setReg_ptbase (x : Slot) (n : Nat) (v : Word) : (x.setReg n v).ptbase = x.ptbase := by
  unfold Slot.setReg; split <;> rfl
@[simp] theorem Slot.setReg_timecmp (x : Slot) (n : Nat) (v : Word) : (x.setReg n v).timecmp = x.timecmp := by
  unfold Slot.setReg; split <;> rfl
@[simp] theorem Slot.setReg_qctl (x : Slot) (n : Nat) (v : Word) : (x.setReg n v).qctl = x.qctl := by
  unfold Slot.setReg; split <;> rfl
@[simp] theorem Slot.setReg_decthr (x : Slot) (n : Nat) (v : Word) : (x.setReg n v).decthr = x.decthr := by
  unfold Slot.setReg; split <;> rfl
@[simp] theorem Slot.setReg_blkthr (x : Slot) (n : Nat) (v : Word) : (x.setReg n v).blkthr = x.blkthr := by
  unfold Slot.setReg; split <;> rfl
@[simp] theorem Slot.setReg_pltimeout (x : Slot) (n : Nat) (v : Word) : (x.setReg n v).pltimeout = x.pltimeout := by
  unfold Slot.setReg; split <;> rfl
@[simp] theorem Slot.setReg_errinj (x : Slot) (n : Nat) (v : Word) : (x.setReg n v).errinj = x.errinj := by
  unfold Slot.setReg; split <;> rfl
@[simp] theorem Slot.setReg_pend (x : Slot) (n : Nat) (v : Word) : (x.setReg n v).pend = x.pend := by
  unfold Slot.setReg; split <;> rfl
@[simp] theorem Slot.setReg_sync (x : Slot) (n : Nat) (v : Word) : (x.setReg n v).sync = x.sync := by
  unfold Slot.setReg; split <;> rfl
@[simp] theorem Slot.setReg_outs (x : Slot) (n : Nat) (v : Word) : (x.setReg n v).outs = x.outs := by
  unfold Slot.setReg; split <;> rfl
@[simp] theorem Slot.setReg_muls (x : Slot) (n : Nat) (v : Word) : (x.setReg n v).muls = x.muls := by
  unfold Slot.setReg; split <;> rfl
@[simp] theorem Slot.setReg_seq (x : Slot) (n : Nat) (v : Word) : (x.setReg n v).seq = x.seq := by
  unfold Slot.setReg; split <;> rfl
@[simp] theorem Slot.setReg_acq (x : Slot) (n : Nat) (v : Word) : (x.setReg n v).acq = x.acq := by
  unfold Slot.setReg; split <;> rfl
@[simp] theorem Slot.setReg_iacq (x : Slot) (n : Nat) (v : Word) : (x.setReg n v).iacq = x.iacq := by
  unfold Slot.setReg; split <;> rfl
@[simp] theorem Slot.setReg_wait (x : Slot) (n : Nat) (v : Word) : (x.setReg n v).wait = x.wait := by
  unfold Slot.setReg; split <;> rfl
@[simp] theorem Slot.setReg_since (x : Slot) (n : Nat) (v : Word) : (x.setReg n v).since = x.since := by
  unfold Slot.setReg; split <;> rfl
@[simp] theorem Slot.setReg_probed (x : Slot) (n : Nat) (v : Word) : (x.setReg n v).probed = x.probed := by
  unfold Slot.setReg; split <;> rfl
@[simp] theorem Slot.setReg_task (x : Slot) (n : Nat) (v : Word) : (x.setReg n v).task = x.task := by
  unfold Slot.setReg; split <;> rfl
@[simp] theorem Slot.setReg_load (x : Slot) (n : Nat) (v : Word) : (x.setReg n v).load = x.load := by
  unfold Slot.setReg; split <;> rfl
@[simp] theorem Slot.setReg_cut (x : Slot) (n : Nat) (v : Word) : (x.setReg n v).cut = x.cut := by
  unfold Slot.setReg; split <;> rfl
@[simp] theorem Slot.setReg_thr (x : Slot) (n : Nat) (v : Word) : (x.setReg n v).thr = x.thr := by
  unfold Slot.setReg; split <;> rfl
@[simp] theorem Slot.setReg_isFeed (x : Slot) (n : Nat) (v : Word) : (x.setReg n v).isFeed = x.isFeed := by
  unfold Slot.setReg; split <;> rfl
@[simp] theorem Slot.setReg_parkDie (x : Slot) (n : Nat) (v : Word) : (x.setReg n v).parkDie = x.parkDie := by
  unfold Slot.setReg; split <;> rfl
@[simp] theorem Slot.setReg_parkSeq (x : Slot) (n : Nat) (v : Word) : (x.setReg n v).parkSeq = x.parkSeq := by
  unfold Slot.setReg; split <;> rfl
@[simp] theorem Slot.setReg_wasParked (x : Slot) (n : Nat) (v : Word) : (x.setReg n v).wasParked = x.wasParked := by
  unfold Slot.setReg; split <;> rfl
@[simp] theorem Slot.setReg_resumed (x : Slot) (n : Nat) (v : Word) : (x.setReg n v).resumed = x.resumed := by
  unfold Slot.setReg; split <;> rfl
@[simp] theorem Slot.setReg_fetched (x : Slot) (n : Nat) (v : Word) : (x.setReg n v).fetched = x.fetched := by
  unfold Slot.setReg; split <;> rfl
@[simp] theorem Slot.setReg_word (x : Slot) (n : Nat) (v : Word) : (x.setReg n v).word = x.word := by
  unfold Slot.setReg; split <;> rfl
@[simp] theorem Slot.setReg_marks (x : Slot) (n : Nat) (v : Word) : (x.setReg n v).marks = x.marks := by
  unfold Slot.setReg; split <;> rfl
@[simp] theorem Slot.setReg_nextAt (x : Slot) (n : Nat) (v : Word) : (x.setReg n v).nextAt = x.nextAt := by
  unfold Slot.setReg; split <;> rfl
@[simp] theorem Slot.setReg_late (x : Slot) (n : Nat) (v : Word) : (x.setReg n v).late = x.late := by
  unfold Slot.setReg; split <;> rfl

theorem State.rg_wr (s : State) (d n : Nat) (v : Word) : (s.wr d v).rg n = if n = d ∧ d ≠ 0 then v else s.rg n := by
  unfold State.rg State.wr
  rw [State.me_setMe, Slot.reg_setReg]
@[simp] theorem State.rg_zero (s : State) : s.rg 0 = 0 := rfl
@[simp] theorem State.pc_wr (s : State) (d : Nat) (v : Word) : (s.wr d v).pc = s.pc := by
  unfold State.pc State.wr
  rw [State.me_setMe, Slot.setReg_pc]
@[simp] theorem State.rg_setPc (s : State) (v : Word) (n : Nat) : (s.setPc v).rg n = s.rg n := by
  unfold State.rg State.setPc
  rw [State.me_setMe]; rfl
@[simp] theorem State.pc_setPc (s : State) (v : Word) : (s.setPc v).pc = v := by
  unfold State.pc State.setPc
  rw [State.me_setMe]
@[simp] theorem State.rg_advance (s : State) (n : Nat) : s.advance.rg n = s.rg n := State.rg_setPc s _ n
@[simp] theorem State.pc_advance (s : State) : s.advance.pc = s.pc + 4 := State.pc_setPc s _

end Sys2Proof.Machine
end

