-- ==== Sys2Proof/Laws/Issue.lean ====
section
/-! SUPPORT. Issuing, and the shared operations of the access instructions: one lemma for each says all that it does. -/

namespace Sys2Proof.Machine

/-! ## Issue -/

/-- An instruction that issues has its effect. -/
theorem State.run_issues {s t : State} {rs : List Nat} {us : List (Nat × Nat)} (h : s.issues rs us = true) :
    s.run rs us t = t := by
  unfold State.issues at h
  simp only [Bool.and_eq_true, Option.isNone_iff_eq_none] at h
  unfold State.run
  simp [h.1, h.2]

/-- All that an instruction may do: nothing while it may not issue, a machine check where an injection meets it, and its
effect otherwise. -/
theorem State.run_cases (s t : State) (rs : List Nat) (us : List (Nat × Nat)) :
    (s.mayIssue rs us = false ∧ s.run rs us t = s) ∨
    (∃ k u src, s.mayIssue rs us = true ∧ s.injection us = some (k, u, src) ∧
      s.run rs us t = (s.fired k).coreCheck u (s.showsAs k src) (injected k)) ∨
    (s.issues rs us = true ∧ s.run rs us t = t) := by
  unfold State.issues State.run
  cases hm : s.mayIssue rs us
  · exact .inl ⟨rfl, by simp⟩
  · cases hi : s.injection us with
    | none => exact .inr (.inr ⟨by simp, by simp⟩)
    | some q => obtain ⟨k, u, src⟩ := q; exact .inr (.inl ⟨k, u, src, rfl, rfl, by simp⟩)

/-! ## Frames -/

theorem onlySlot_setSlot (s : State) (k : Nat) (x : Slot) : onlySlot k s (s.setSlot k x) :=
  ⟨rfl, fun _ h => State.slot_setSlot_ne s x h⟩

theorem onlySlot_refl (k : Nat) (s : State) : onlySlot k s s := ⟨rfl, fun _ _ => rfl⟩

theorem onlySlot_trans {k : Nat} {s t u : State} (h : onlySlot k s t) (h' : onlySlot k t u) : onlySlot k s u := by
  obtain ⟨a, b⟩ := h
  obtain ⟨c, d⟩ := h'
  refine ⟨?_, fun j hj => (d j hj).trans (b j hj)⟩
  cases s; cases t; cases u
  simp_all

theorem onlySlot_cur {k : Nat} {s t : State} (h : onlySlot k s t) : t.cur = s.cur := by
  have := congrArg State.cur h.1
  exact this

theorem onlySlot_mem {k : Nat} {s t : State} (h : onlySlot k s t) : t.mem = s.mem := by
  have := congrArg State.mem h.1
  exact this

theorem onlySlot_sameMemory {k : Nat} {s t : State} (h : onlySlot k s t) : sameMemory s t := by
  intro a
  rw [onlySlot_mem h]

theorem onlySlot_setMe (s : State) (x : Slot) : onlySlot s.cur s (s.setMe x) := onlySlot_setSlot s s.cur x
theorem onlySlot_wr (s : State) (d : Nat) (v : Word) : onlySlot s.cur s (s.wr d v) := onlySlot_setSlot s s.cur _
theorem onlySlot_setPc (s : State) (v : Word) : onlySlot s.cur s (s.setPc v) := onlySlot_setSlot s s.cur _
theorem onlySlot_advance (s : State) : onlySlot s.cur s s.advance := onlySlot_setSlot s s.cur _

/-- A register written and the next word: what a result leaves alone. -/
theorem onlySlot_result (s : State) (d : Nat) (v : Word) : onlySlot s.cur s (s.wr d v).advance :=
  onlySlot_trans (onlySlot_wr s d v) (onlySlot_advance _)

/-! ## Loads and stores -/

/-- All that putting a load on its way does. -/
theorem State.issueLoad_spec (s : State) (e : OutLoad) :
    onlySlot s.cur s (s.issueLoad e) ∧ (s.issueLoad e).me.outs = s.me.outs ++ [e] ∧ (s.issueLoad e).pc = s.pc + 4 ∧
      ∀ n, (s.issueLoad e).rg n = s.rg n := by
  unfold State.issueLoad
  refine ⟨onlySlot_trans (onlySlot_setMe s _) (onlySlot_advance _), ?_, ?_, ?_⟩
  · simp [State.advance, State.setPc]
  · simp
    simp [State.pc]
  · intro n
    simp
    simp [State.rg, Slot.reg]

/-- Writing bytes from an offset up, with no L1 copy to update, is a write of memory alone. -/
theorem State.putBytes_mem (s : State) (c : Option Nat) (a n v : Nat) :
    (s.putBytes c a n v).mem = Mem.writeN s.mem a n v := by
  induction n generalizing s a v with
  | zero => rfl
  | succ n ih =>
    rw [State.putBytes, ih, Mem.writeN]
    congr 1
    unfold State.putByte State.l1Byte
    cases c with
    | none => rfl
    | some k => dsimp only; split <;> rfl

theorem State.report_mem (s : State) (l : Nat) : (s.report l).mem = s.mem := rfl

/-- A store at an address is a write of memory there. -/
theorem State.store_mem (s : State) (c : Option Nat) (pa n v : Nat) :
    (s.store c pa n v).mem = Mem.writeN s.mem (offOf pa) n v := by
  unfold State.store
  rw [State.report_mem]
  split
  · rw [State.setPoison_mem, State.putBytes_mem]
  · rw [State.putBytes_mem]

/-- Every byte written at a line is a write of memory. -/
theorem State.putTab_mem (s : State) (c : Option Nat) (line : Nat) (bs : Tab (Option Byte)) :
    (bs.foldl (fun s e => match e.2 with | some v => s.putByte c (line * 64 + e.1) v | none => s) s).mem =
      bs.foldl (fun m e => match e.2 with | some v => Mem.write m (line * 64 + e.1) v | none => m) s.mem := by
  induction bs generalizing s with
  | nil => rfl
  | cons e r ih =>
    rw [List.foldl_cons, List.foldl_cons, ih]
    congr 1
    cases e.2 with
    | none => rfl
    | some v =>
      unfold State.putByte State.l1Byte
      cases c with
      | none => rfl
      | some k => dsimp only; split <;> rfl

theorem State.storeTab_mem (s : State) (c : Option Nat) (line : Nat) (bs : Tab (Option Byte)) :
    (s.storeTab c line bs).mem =
      bs.foldl (fun m e => match e.2 with | some v => Mem.write m (line * 64 + e.1) v | none => m) s.mem := by
  unfold State.storeTab
  rw [State.report_mem]
  split
  · rw [State.setPoison_mem]
    exact State.putTab_mem s c line bs
  · exact State.putTab_mem s c line bs

/-! ## Memory keeps its canonical form -/

theorem Mem.wf_foldl (m : Mem) (line : Nat) (bs : Tab (Option Byte)) (w : Mem.wf m = true) :
    Mem.wf (bs.foldl (fun m e => match e.2 with | some v => Mem.write m (line * 64 + e.1) v | none => m) m) = true := by
  induction bs generalizing m with
  | nil => exact w
  | cons e r ih =>
    rw [List.foldl_cons]
    apply ih
    cases e.2 with
    | none => exact w
    | some v => exact Mem.wf_write m _ _ w

theorem State.store_wf (s : State) (c : Option Nat) (pa n v : Nat) (w : Mem.wf s.mem = true) :
    Mem.wf (s.store c pa n v).mem = true := by
  rw [State.store_mem]
  exact Mem.wf_writeN _ _ _ _ w

theorem State.storeTab_wf (s : State) (c : Option Nat) (line : Nat) (bs : Tab (Option Byte)) (w : Mem.wf s.mem = true) :
    Mem.wf (s.storeTab c line bs).mem = true := by
  rw [State.storeTab_mem]
  exact Mem.wf_foldl _ _ _ w

theorem State.storeDs_wf (s : State) (c : Option Nat) (pa : Nat) (ws : List Word) (w : Mem.wf s.mem = true) :
    Mem.wf (s.storeDs c pa ws).mem = true := by
  induction ws generalizing s pa with
  | nil => exact w
  | cons x r ih => exact ih _ _ (State.store_wf s c pa 8 _ w)

/-- Memory at reset lists nothing, and so is in its canonical form. -/
theorem State.reset_wf : Mem.wf State.reset.mem = true := rfl

end Sys2Proof.Machine
end

