-- ==== Sys2Proof/Machine/UmasText.lean ====
section
/-! DEFINITION. The text that umas reads (15 R325, R326): tokens, expressions, operands, and the numbers that fields hold. -/

namespace Sys2Proof.Machine

/-- What umas answers: a value, or the error it reports (15 R327). -/
abbrev Asm (α : Type) := Except String α

/-! ## Tokens (R325) -/

/-- A token of a line. -/
inductive Tok where
  | id (s : String)
  | num (n : Nat)
  | sym (s : String)
  | str (s : String)
  deriving DecidableEq, Repr

def isLetter (c : Char) : Bool := (decide ('a' ≤ c) && decide (c ≤ 'z')) || (decide ('A' ≤ c) && decide (c ≤ 'Z')) || c == '_'
def isDig (c : Char) : Bool := decide ('0' ≤ c) && decide (c ≤ '9')
/-- A character within an identifier. -/
def isWord (c : Char) : Bool := isLetter c || isDig c || c == '.'

/-- The value of a digit in a base. -/
def digitIn (base : Nat) (c : Char) : Option Nat :=
  let n := c.toNat
  let d := if isDig c then n - 48 else if 97 ≤ n ∧ n ≤ 102 then n - 87 else if 65 ≤ n ∧ n ≤ 70 then n - 55 else 99
  if d < base then some d else none

/-- The number that digits stand for; an underscore stands only between digits (prev tells whether a digit precedes). -/
def digitsVal (base : Nat) (prev : Bool) (acc : Nat) : List Char → Option Nat
  | [] => if prev then some acc else none
  | c :: r =>
    if c = '_' then (if prev then digitsVal base false acc r else none)
    else match digitIn base c with
      | some d => digitsVal base true (acc * base + d) r
      | none => none

/-- The characters at the head of a line that a predicate holds of, and the rest. -/
def spanChars (p : Char → Bool) : List Char → List Char × List Char
  | [] => ([], [])
  | c :: r => if p c then let (a, b) := spanChars p r; (c :: a, b) else ([], c :: r)

/-- A number at the head of a line: decimal, 0x hexadecimal or 0b binary, of at most 64 bits. -/
def lexNum (cs : List Char) : Asm (Nat × List Char) :=
  let inBase := fun (b : Nat) (l : List Char) =>
    let (ds, r) := spanChars (fun c => (digitIn b c).isSome || c == '_') l
    match digitsVal b false 0 ds with
    | some v => if v < 2 ^ 64 then .ok (v, r) else .error "number too large"
    | none => .error "bad number"
  match cs with
  | '0' :: 'x' :: r => inBase 16 r
  | '0' :: 'b' :: r => inBase 2 r
  | _ => inBase 10 cs

/-- The tokens of a line; a comment begins with ; or // and runs to its end. fuel bounds the tokens. -/
def lexLine : Nat → List Char → Asm (List Tok)
  | _, [] => .ok []
  | 0, _ :: _ => .error "line too long"
  | n + 1, c :: r =>
    let sym := fun (s : String) (rest : List Char) => do let l ← lexLine n rest; .ok (Tok.sym s :: l)
    if c = ' ' ∨ c = '\t' ∨ c = '\r' then lexLine n r
    else if c = ';' then .ok []
    else if isLetter c || (c == '.' && (match r with | d :: _ => isLetter d | [] => false)) then
      let (w, rest) := spanChars isWord r
      do let l ← lexLine n rest; .ok (.id (String.ofList (c :: w)) :: l)
    else if isDig c then do
      let (v, rest) ← lexNum (c :: r)
      let l ← lexLine n rest
      .ok (.num v :: l)
    else if c = '"' then
      let (w, rest) := spanChars (fun d => d != '"') r
      match rest with
      | [] => .error "string without an end"
      | _ :: rest => do let l ← lexLine n rest; .ok (.str (String.ofList w) :: l)
    else match c, r with
      | '/', '/' :: _ => .ok []
      | '-', '>' :: rest => sym "->" rest
      | '<', '<' :: rest => sym "<<" rest
      | '>', '>' :: rest => sym ">>" rest
      | _, _ =>
        if "+-*/%&|^~():,=".toList.contains c then sym (String.ofList [c]) r
        else .error "character that no token begins with"

/-- The tokens of a line of text. -/
def lexText (s : String) : Asm (List Tok) := lexLine (s.length + 1) s.toList

/-! ## Numbers and expressions (R325, R328) -/

/-- The value of an expression: a 64-bit two's-complement number, and how many times the load address of the image and of the
.svc segment is to be added to it (R328). -/
structure Num where
  v   : Int
  img : Int := 0
  svc : Int := 0
  deriving DecidableEq, Repr

def Num.of (n : Nat) : Num := { v := sintOf (n % 2 ^ 64) 64 }
/-- A number that no load address enters. -/
def Num.plain (a : Num) : Bool := a.img == 0 && a.svc == 0
/-- A value wrapped to 64-bit two's complement. -/
def wrap64 (i : Int) : Int := sintOf (i % (2 ^ 64 : Nat)).toNat 64
/-- The bits of a value. -/
def natOf64 (i : Int) : Nat := (i % (2 ^ 64 : Nat)).toNat

/-- What names stand for, and whether a name that none has is an error (it is 0 in the first passes, which find sizes). -/
structure Syms where
  strict : Bool
  tab    : List (String × Num)
  deriving DecidableEq, Repr

def Syms.find (e : Syms) (s : String) : Asm Num :=
  match e.tab.find? (fun x => x.1 == s) with
  | some x => .ok x.2
  | none => if e.strict then .error ("undefined symbol " ++ s) else .ok { v := 0 }

/-- How tightly an operator binds: as in C (log 92). 0 for none. -/
def bindsOf (s : String) : Nat :=
  if s == "*" || s == "/" || s == "%" then 6
  else if s == "+" || s == "-" then 5
  else if s == "<<" || s == ">>" then 4
  else if s == "&" then 3
  else if s == "^" then 2
  else if s == "|" then 1
  else 0

/-- An operator applied. / and % truncate towards zero; >> keeps the sign (log 92). Only sums and differences of labels are
labels. In the passes that find sizes a divisor may still be unknown. -/
def applyOp (strict : Bool) (s : String) (a b : Num) : Asm Num :=
  let put := fun (i : Int) => (.ok { v := wrap64 i } : Asm Num)
  if s == "+" then .ok { v := wrap64 (a.v + b.v), img := a.img + b.img, svc := a.svc + b.svc }
  else if s == "-" then .ok { v := wrap64 (a.v - b.v), img := a.img - b.img, svc := a.svc - b.svc }
  else if !(a.plain && b.plain) then .error "a label's address in an operation that cannot be relocated"
  else if s == "*" then put (a.v * b.v)
  else if s == "/" then (if b.v = 0 && strict then .error "divisor of zero" else put (Int.tdiv a.v b.v))
  else if s == "%" then (if b.v = 0 && strict then .error "divisor of zero" else put (Int.tmod a.v b.v))
  else if s == "<<" then (if 0 ≤ b.v ∧ b.v < 64 then put (a.v * (2 ^ b.v.toNat : Nat)) else .error "shift out of range")
  else if s == ">>" then (if 0 ≤ b.v ∧ b.v < 64 then put (a.v / (2 ^ b.v.toNat : Nat)) else .error "shift out of range")
  else if s == "&" then put (natOf64 a.v &&& natOf64 b.v : Nat)
  else if s == "|" then put (natOf64 a.v ||| natOf64 b.v : Nat)
  else if s == "^" then put (natOf64 a.v ^^^ natOf64 b.v : Nat)
  else .error "unknown operator"

/-- An expression at the head of a token list, and the tokens after it: at level p, with what stands to its left, if anything,
already read. Level 7 is an operand. -/
def exprAt (e : Syms) : Nat → Nat → Option Num → List Tok → Asm (Num × List Tok)
  | 0, _, _, _ => .error "expression too long"
  | n + 1, p, none, ts =>
    if p < 7 then do
      let (a, r) ← exprAt e n (p + 1) none ts
      exprAt e n p (some a) r
    else match ts with
      | .num v :: r => .ok (Num.of v, r)
      | .id s :: r => do let a ← e.find s; .ok (a, r)
      | .sym "(" :: r => do
        let (a, r) ← exprAt e n 1 none r
        match r with
        | .sym ")" :: r => .ok (a, r)
        | _ => .error "parenthesis without its end"
      | .sym "-" :: r => do
        let (a, r) ← exprAt e n 7 none r
        .ok ({ v := wrap64 (-a.v), img := -a.img, svc := -a.svc }, r)
      | .sym "+" :: r => exprAt e n 7 none r
      | .sym "~" :: r => do
        let (a, r) ← exprAt e n 7 none r
        if a.plain then .ok ({ v := -a.v - 1 }, r) else .error "complement of a label's address"
      | _ => .error "expression expected"
  | n + 1, p, some a, ts =>
    match ts with
    | .sym s :: r =>
      if bindsOf s = p then do
        let (b, r) ← exprAt e n (p + 1) none r
        let c ← applyOp e.strict s a b
        exprAt e n p (some c) r
      else .ok (a, ts)
    | _ => .ok (a, ts)

/-- An expression at the head of a token list, and the tokens after it. -/
def exprHead (e : Syms) (ts : List Tok) : Asm (Num × List Tok) := exprAt e (16 * ts.length + 16) 1 none ts

/-- A token list that is one expression. -/
def exprOf (e : Syms) (ts : List Tok) : Asm Num := do
  let (a, r) ← exprHead e ts
  if r.isEmpty then .ok a else .error "tokens after an expression"

/-- A number that no load address enters. -/
def plainOf (e : Syms) (ts : List Tok) : Asm Int := do
  let a ← exprOf e ts
  if a.plain then .ok a.v else .error "number expected"

/-- A value in an unsigned field of n bits, and in a signed one (R327: an operand out of range is an error). -/
def ufield (n : Nat) (i : Int) : Asm Nat := if 0 ≤ i ∧ i < (2 ^ n : Nat) then .ok i.toNat else .error "operand out of range"
def sfield (n : Nat) (i : Int) : Asm Nat :=
  if -(2 ^ (n - 1) : Nat) ≤ i ∧ i < (2 ^ (n - 1) : Nat) then .ok (i % (2 ^ n : Nat)).toNat else .error "operand out of range"
/-- A value of n bits, signed or unsigned (log 92). -/
def efield (n : Nat) (i : Int) : Asm Nat :=
  if -(2 ^ (n - 1) : Nat) ≤ i ∧ i < (2 ^ n : Nat) then .ok (i % (2 ^ n : Nat)).toNat else .error "value out of range"

/-- An expression in an unsigned field of n bits. -/
def uexpr (e : Syms) (n : Nat) (ts : List Tok) : Asm Nat := do let i ← plainOf e ts; ufield n i

/-! ## Lists and names -/

/-- A token list cut at its commas outside parentheses; depth counts the parentheses that are open. -/
def splitComma (depth : Nat) : List Tok → List (List Tok)
  | [] => [[]]
  | .sym "," :: r => if depth = 0 then [] :: splitComma 0 r else consHead (.sym ",") (splitComma depth r)
  | .sym "(" :: r => consHead (.sym "(") (splitComma (depth + 1) r)
  | .sym ")" :: r => consHead (.sym ")") (splitComma (depth - 1) r)
  | t :: r => consHead t (splitComma depth r)
where
  consHead (t : Tok) : List (List Tok) → List (List Tok)
    | [] => [[t]]
    | l :: ls => (t :: l) :: ls

/-- The operands of a statement: none where nothing stands. -/
def operandsOf (ts : List Tok) : List (List Tok) := if ts.isEmpty then [] else splitComma 0 ts

/-- The parts of a name between full stops. -/
def dotParts (cur : List Char) : List Char → List String
  | [] => [String.ofList cur.reverse]
  | c :: r => if c = '.' then String.ofList cur.reverse :: dotParts [] r else dotParts (c :: cur) r

def partsOf (s : String) : List String := dotParts [] s.toList

/-- The number after a prefix of a name: 7 of g7 after g. No digit but 0 begins with 0. -/
def numAfter (p s : String) : Option Nat :=
  let ps := p.toList
  let cs := s.toList
  if cs.take ps.length = ps then
    let ds := cs.drop ps.length
    if ds.any (fun c => !isDig c) || (decide (1 < ds.length) && ds.head? == some '0') then none else digitsVal 10 false 0 ds
  else none

/-- A numbered name below a limit: gN, qN, sN, vN, cN, kN. -/
def numbered (p : String) (limit : Nat) (ts : List Tok) : Asm Nat :=
  match ts with
  | [.id s] => match numAfter p s with
    | some n => if n < limit then .ok n else .error ("no such " ++ p)
    | none => .error (p ++ " expected")
  | _ => .error (p ++ " expected")

/-- A general register, and a binding. -/
def regOf (ts : List Tok) : Asm Nat := numbered "g" 32 ts
def qnumOf (ts : List Tok) : Asm Nat := numbered "q" 16 ts

/-- An entry of a list of names. -/
def nameIn {α : Type} (l : List (String × α)) (s : String) : Asm α :=
  match l.find? (fun x => x.1 == s) with
  | some x => .ok x.2
  | none => .error ("unknown name " ++ s)

/-- Answer for every element in order, stopping at the first error. -/
def asmAll {α β : Type} (f : α → Asm β) : List α → Asm (List β)
  | [] => .ok []
  | x :: l => do
    let y ← f x
    let ys ← asmAll f l
    .ok (y :: ys)

/-- An error unless a condition holds. -/
def need (b : Bool) (msg : String) : Asm Unit := if b then .ok () else .error msg

/-- The format codes by name (14 Table 14-1). -/
def fmtNames : List (String × Nat) := [
  ("raw", 0x00), ("e2m1", 0x01), ("e2m3", 0x02), ("e3m2", 0x03), ("e4m3", 0x04), ("e5m2", 0x05), ("bf16", 0x06), ("f16", 0x07),
  ("f32", 0x08), ("f64", 0x09), ("i2", 0x10), ("ui2", 0x11), ("i4", 0x12), ("ui4", 0x13), ("i8", 0x14), ("ui8", 0x15),
  ("i16", 0x16), ("ui16", 0x17), ("i32", 0x18), ("i64", 0x19), ("b1", 0x1C), ("ts4", 0x1D), ("ts8", 0x1E),
  ("mx.e2m1", 0x20), ("mx.e2m3", 0x21), ("mx.e3m2", 0x22), ("mx.e4m3", 0x23), ("mx.e5m2", 0x24), ("mx.i8", 0x25),
  ("kb.i4", 0x28), ("kb.i2", 0x29), ("kb.b1", 0x2A), ("kb.ts4", 0x2B), ("kb.ts8", 0x2C), ("k16.e2m1", 0x30),
  ("k16.e4m3", 0x31), ("exa", 0x3F)]

end Sys2Proof.Machine
end

