-- ==== Sys2Proof/Machine/UmasCode.lean ====
section
/-! DEFINITION. The access instructions as umas assembles them (15 R326, R327, Table 15-10; 16 R334 to R344; 17; 18; 19 R406). -/

namespace Sys2Proof.Machine

/-- A place to which a loader adds a load address (R328): in the .svc segment or the image, at an offset in bytes, the width bits
from bit lo upward, in units of scale bytes; toSvc tells whose load address. -/
structure Fix where
  inSvc : Bool
  off   : Nat
  lo    : Nat
  width : Nat
  scale : Nat
  toSvc : Bool
  deriving DecidableEq, Repr

/-- What a statement makes of a value that is no branch target: where the load addresses enter it. -/
def fixFor (inSvc : Bool) (off lo width scale : Nat) (a : Num) : Asm (List Fix) :=
  if a.plain then .ok []
  else if a.img = 1 ∧ a.svc = 0 then .ok [{ inSvc := inSvc, off := off, lo := lo, width := width, scale := scale, toSvc := false }]
  else if a.img = 0 ∧ a.svc = 1 then .ok [{ inSvc := inSvc, off := off, lo := lo, width := width, scale := scale, toSvc := true }]
  else .error "an expression that no single load address relocates"

/-- An instruction with the value of its immediate, where a label may stand: the value, the field's width and its unit. -/
structure Code where
  i     : Instr
  imm   : Num := { v := 0 }
  width : Nat := 0
  scale : Nat := 1
  deriving DecidableEq, Repr

def Code.plain (i : Instr) : Asm Code := .ok { i := i }

/-! ## Shapes of operands -/

def shape3 (f : Nat → Nat → Nat → Instr) (ops : List (List Tok)) : Asm Code :=
  match ops with
  | [d, a, b] => do Code.plain (f (← regOf d) (← regOf a) (← regOf b))
  | _ => .error "three registers expected"

def shape2 (f : Nat → Nat → Instr) (ops : List (List Tok)) : Asm Code :=
  match ops with
  | [d, a] => do Code.plain (f (← regOf d) (← regOf a))
  | _ => .error "two registers expected"

def shape1 (f : Nat → Instr) (ops : List (List Tok)) : Asm Code :=
  match ops with
  | [d] => do Code.plain (f (← regOf d))
  | _ => .error "one register expected"

def shape0 (i : Instr) (ops : List (List Tok)) : Asm Code :=
  match ops with
  | [] => Code.plain i
  | _ => .error "no operand expected"

/-- gd, ga, imm with a 16-bit immediate, signed or not. -/
def shapeImm (e : Syms) (signed : Bool) (f : Nat → Nat → Nat → Instr) (ops : List (List Tok)) : Asm Code :=
  match ops with
  | [d, a, x] => do
    let x ← exprOf e x
    let v ← if signed then sfield 16 x.v else ufield 16 x.v
    .ok { i := f (← regOf d) (← regOf a) v, imm := x, width := 16 }
  | _ => .error "two registers and an immediate expected"

/-- gd, ga, n with a shift amount. -/
def shapeShift (e : Syms) (f : Nat → Nat → Nat → Instr) (ops : List (List Tok)) : Asm Code :=
  match ops with
  | [d, a, n] => do Code.plain (f (← regOf d) (← regOf a) (← uexpr e 6 n))
  | _ => .error "two registers and a shift amount expected"

/-- gd, ga, lsb, width: the field holds width − 1. -/
def shapeBits (e : Syms) (f : Nat → Nat → Nat → Nat → Instr) (ops : List (List Tok)) : Asm Code :=
  match ops with
  | [d, a, l, w] => do
    let w ← plainOf e w
    Code.plain (f (← regOf d) (← regOf a) (← uexpr e 6 l) (← ufield 6 (w - 1)))
  | _ => .error "two registers, lsb and width expected"

/-- The distance in words from an instruction to its target, in a signed field of n bits (R326). -/
def targetOf (e : Syms) (pc : Num) (n : Nat) (ts : List Tok) : Asm Nat := do
  let t ← exprOf e ts
  need (t.plain || (t.img == pc.img && t.svc == pc.svc)) "a target in another segment"
  need (Int.emod (t.v - pc.v) 4 == 0) "a target that is not word-aligned"
  sfield n (Int.fdiv (t.v - pc.v) 4)

def shapeBranch (e : Syms) (pc : Num) (f : Nat → Nat → Nat → Instr) (ops : List (List Tok)) : Asm Code :=
  match ops with
  | [a, b, t] => do Code.plain (f (← regOf a) (← regOf b) (← targetOf e pc 16 t))
  | _ => .error "two registers and a target expected"

/-- offset(gN): the offset in units of the access size, in its signed field of 11 bits, and the register. -/
def memOf (e : Syms) (size : Nat) (ts : List Tok) : Asm (Num × Nat × Nat) := do
  let (o, r) ← exprHead e ts
  match r with
  | [.sym "(", .id b, .sym ")"] =>
    need (Int.emod o.v size == 0) "an offset that is no multiple of the access size"
    .ok (o, ← sfield 11 (Int.fdiv o.v size), ← regOf [.id b])
  | _ => .error "offset(gN) expected"

/-- (gN). -/
def addrOf (ts : List Tok) : Asm Nat :=
  match ts with
  | [.sym "(", .id b, .sym ")"] => regOf [.id b]
  | _ => .error "(gN) expected"

/-! ## Suffixes (Table 15-10) -/

/-- A class suffix alone, or nothing: class 0. -/
def classSuf (l : List String) : Asm Nat :=
  match l with
  | [] => .ok 0
  | [c] => (match numAfter "c" c with
    | some n => if n < 8 then .ok n else .error "no such class"
    | none => .error "unknown or misplaced suffix")
  | _ => .error "unknown, repeated or misplaced suffix"

/-- The path and class suffixes of a load. -/
def loadSuf (l : List String) : Asm (Nat × Nat) :=
  match l with
  | "nc" :: r => do .ok (1, ← classSuf r)
  | "nt" :: r => do .ok (2, ← classSuf r)
  | r => do .ok (0, ← classSuf r)

/-- The path and class suffixes of a store. -/
def storeSuf (l : List String) : Asm (Nat × Nat) :=
  match l with
  | "nt" :: r => do .ok (1, ← classSuf r)
  | r => do .ok (0, ← classSuf r)

/-- The path, write intent and class suffixes of pf. -/
def pfSuf (l : List String) : Asm (Nat × Nat × Nat) :=
  let intent := fun (p : Nat) (l : List String) => match l with
    | "w" :: r => do (.ok (p, 1, ← classSuf r) : Asm (Nat × Nat × Nat))
    | r => do .ok (p, 0, ← classSuf r)
  match l with
  | "nt" :: r => intent 1 r
  | r => intent 0 r

def scopeNames : List (String × Nat) := [("co", 0), ("di", 1), ("pk", 2), ("dm", 3), ("sy", 4)]

/-- The size, order and scope suffixes of an atomic: ord, scope and the low bit of the size. -/
def atomicSuf (l : List String) : Asm (Nat × Nat × Nat) :=
  let scope := fun (z o : Nat) (l : List String) => match l with
    | [s] => do (.ok (o, ← nameIn scopeNames s, z) : Asm (Nat × Nat × Nat))
    | _ => .error "a scope is required, and stands last"
  let order := fun (z : Nat) (l : List String) => match l with
    | "acq" :: r => scope z 1 r
    | "rel" :: r => scope z 2 r
    | "acqrel" :: r => scope z 3 r
    | r => scope z 0 r
  match l with
  | "w" :: r => order 0 r
  | r => order 1 r

/-- The suffixes of a queue operation: .try where it has one, then its order. -/
def queueSuf (ord : String) (hasTry : Bool) (l : List String) : Asm (Nat × Nat) :=
  let order := fun (t : Nat) (l : List String) => match l with
    | [] => (.ok (t, 0) : Asm (Nat × Nat))
    | [o] => if o == ord then .ok (t, 1) else .error "unknown suffix"
    | _ => .error "unknown or repeated suffix"
  match l with
  | "try" :: r => if hasTry then order 1 r else .error "unknown suffix"
  | r => order 0 r

/-- The status register of a queue operation: only the .try forms have one. -/
def statusOf (t : Nat) (l : List (List Tok)) : Asm Nat :=
  match l with
  | [] => .ok 0
  | [g] => if t = 1 then regOf g else .error "a status register without .try"
  | _ => .error "too many operands"

/-! ## Tables of mnemonics -/

def rrOps : List (String × (Nat → Nat → Nat → Instr)) := [
  ("add", .add), ("sub", .sub), ("and", .and), ("or", .or), ("xor", .xor), ("andn", .andn), ("orn", .orn), ("sll", .sll),
  ("srl", .srl), ("sra", .sra), ("ror", .ror), ("mul", .mul), ("mulh", .mulh), ("mulhu", .mulhu), ("div", .div),
  ("divu", .divu), ("rem", .rem), ("remu", .remu), ("min", .min), ("max", .max), ("minu", .minu), ("maxu", .maxu),
  ("slt", .slt), ("sltu", .sltu), ("seq", .seq), ("sne", .sne), ("csel", .csel), ("tspawn", .tspawn)]

def unaryOps : List (String × (Nat → Nat → Instr)) := [
  ("clz", .clz), ("ctz", .ctz), ("popc", .popc), ("bswap", .bswap), ("sext.b", .sextB), ("sext.h", .sextH),
  ("sext.w", .sextW), ("zext.b", .zextB), ("zext.h", .zextH), ("zext.w", .zextW), ("strm", .strm), ("copy", .copy),
  ("cpoll", .cpoll), ("place", .place), ("sect", .sect), ("tqpush", .tqpush), ("renq", .renq), ("selftest", .selftest)]

def oneOps : List (String × (Nat → Instr)) := [
  ("strmwait", .strmwait), ("strmkill", .strmkill), ("cwait", .cwait), ("mark", .mark), ("cutwait", .cutwait),
  ("release", .release), ("tresume", .tresume)]

def noneOps : List (String × Instr) := [
  ("texit", .texit), ("yield", .yield), ("eret", .eret), ("halt", .halt), ("l1inv.d", .l1inv 1), ("l1inv.i", .l1inv 2),
  ("l1inv.id", .l1inv 3)]

/-- Signed or unsigned, and the constructor. -/
def immOps : List (String × Bool × (Nat → Nat → Nat → Instr)) := [
  ("addi", true, .addi), ("andi", false, .andi), ("ori", false, .ori), ("xori", false, .xori), ("slti", true, .slti),
  ("sltiu", true, .sltiu)]

def shiftOps : List (String × (Nat → Nat → Nat → Instr)) := [
  ("slli", .slli), ("srli", .srli), ("srai", .srai), ("rori", .rori)]

def bitsOps : List (String × (Nat → Nat → Nat → Nat → Instr)) := [("extr", .extr), ("extru", .extru), ("ins", .ins)]

def branchOps : List (String × (Nat → Nat → Nat → Instr)) := [
  ("beq", .beq), ("bne", .bne), ("blt", .blt), ("bge", .bge), ("bltu", .bltu), ("bgeu", .bgeu)]

/-- By size name: the access size, and the constructor. -/
def loadOps : List (String × Nat × (Nat → Nat → Nat → Nat → Nat → Instr)) := [
  ("b", 1, .ldB), ("bu", 1, .ldBu), ("h", 2, .ldH), ("hu", 2, .ldHu), ("w", 4, .ldW), ("wu", 4, .ldWu), ("d", 8, .ldD),
  ("x", 16, .ldX)]

def storeOps : List (String × Nat × (Nat → Nat → Nat → Nat → Nat → Instr)) := [
  ("b", 1, .stB), ("h", 2, .stH), ("w", 4, .stW), ("d", 8, .stD), ("x", 16, .stX)]

/-- By name after amo, and the two atomics of three registers that stand alone. -/
def amoOps : List (String × (Nat → Nat → Nat → Nat → Nat → Nat → Instr)) := [
  ("add", .amoAdd), ("and", .amoAnd), ("or", .amoOr), ("xor", .amoXor), ("swap", .amoSwap), ("min", .amoMin),
  ("max", .amoMax), ("minu", .amoMinu), ("maxu", .amoMaxu)]

def fenceOps : List (String × (Nat → Nat → Instr)) := [
  ("acq", .fenceAcq), ("rel", .fenceRel), ("full", .fenceFull), ("persist", .fencePersist)]

/-- The control registers by name (19 Table 19-3); the MONSEL views are named MONSEL0 to MONSEL15. -/
def crnNames : List (String × Nat) := [
  ("TSTAT", 0x000), ("TCAUSE", 0x001), ("TEPC", 0x002), ("TVAL", 0x003), ("TVEC", 0x004), ("TSCRATCH", 0x005),
  ("TFBASE", 0x006), ("MTVEC", 0x007), ("ASID", 0x010), ("PTBASE", 0x011), ("TID", 0x020), ("CYCLE", 0x021),
  ("TIMECMP", 0x022), ("QCTL", 0x030), ("DECTHR", 0x031), ("BLKTHR", 0x032), ("PLTIMEOUT", 0x033), ("ERRINJ", 0x040),
  ("SLOTST", 0x080), ("SVCBASE", 0x100), ("SVCSIZE", 0x101), ("FQBASE", 0x110), ("FQHEAD", 0x111), ("FQTAIL", 0x112),
  ("MCHK", 0x120)]

/-- A control register by name or number (19 R406). -/
def crnOf (e : Syms) (ts : List Tok) : Asm Nat :=
  match ts with
  | [.id s] =>
    match crnNames.find? (fun x => x.1 == s) with
    | some x => .ok x.2
    | none => match numAfter "MONSEL" s with
      | some n => if n < 16 then .ok (0x180 + n) else .error "no such control register"
      | none => uexpr e 12 ts
  | _ => uexpr e 12 ts

/-! ## The instructions -/

/-- An atomic's operands gd, gb, (ga). -/
def atomicCode (f : Nat → Nat → Nat → Nat → Nat → Nat → Instr) (suf : List String) (ops : List (List Tok)) : Asm Code :=
  match ops with
  | [d, b, a] => do
    let (o, s, z) ← atomicSuf suf
    Code.plain (f (← regOf d) (← addrOf a) (← regOf b) o s z)
  | _ => .error "gd, gb, (ga) expected"

/-- Queue operations (18 R370, R373, R375, R376). -/
def queueCode (e : Syms) (op : String) (suf : List String) (ops : List (List Tok)) : Asm Code :=
  match op, ops with
  | "qpush", q :: g :: st => do
    let (t, r) ← queueSuf "rel" true suf
    Code.plain (.qpush (← statusOf t st) (← regOf g) (← qnumOf q) t r)
  | "qpop", d :: q :: st => do
    let (t, a) ← queueSuf "acq" true suf
    Code.plain (.qpop (← regOf d) (← statusOf t st) (← qnumOf q) t a)
  | "qpeek", d :: q :: st => do
    let (t, a) ← queueSuf "acq" true suf
    Code.plain (.qpeek (← regOf d) (← statusOf t st) (← qnumOf q) t a)
  | "qclasp", q :: l :: st => do
    let (t, r) ← queueSuf "rel" true suf
    Code.plain (.qclasp (← statusOf t st) (← qnumOf q) t r (← uexpr e 3 l))
  | "qstat", [d, q, c] => do
    need suf.isEmpty "unknown suffix"
    Code.plain (.qstat (← regOf d) (← qnumOf q) (← uexpr e 2 c))
  | "bqpop", [d, q, n] => do
    let (_, a) ← queueSuf "acq" false suf
    Code.plain (.bqpop (← regOf d) (← qnumOf q) a (← uexpr e 6 n))
  | "qbind", q :: g :: dir :: br => do
    need suf.isEmpty "unknown suffix"
    let o ← match dir with
      | [.id "in"] => .ok 0
      | [.id "out"] => .ok 1
      | _ => (.error "in or out expected" : Asm Nat)
    let b ← match br with
      | [] => .ok 0
      | [[.id "branch"]] => .ok 1
      | _ => (.error "branch expected" : Asm Nat)
    Code.plain (.qbind (← regOf g) (← qnumOf q) b o)
  | _, _ => .error "operands of a queue instruction"

/-- System instructions with operands (19 R403 to R409). -/
def systemCode (e : Syms) (op : String) (suf : List String) (ops : List (List Tok)) : Asm Code :=
  match op, suf, ops with
  | "trap", [], [c] => do Code.plain (.trap (← uexpr e 12 c))
  | "crr", [], [d, n] => do Code.plain (.crr (← regOf d) (← crnOf e n))
  | "crw", [], [n, a] => do Code.plain (.crw (← regOf a) (← crnOf e n))
  | "crs", [], [d, a, n] => do Code.plain (.crs (← regOf d) (← regOf a) (← crnOf e n))
  | "crc", [], [d, a, n] => do Code.plain (.crc (← regOf d) (← regOf a) (← crnOf e n))
  | "tlbinv", [r], [k, d, a] => do
    let r ← nameIn [("di", 0), ("pk", 1)] r
    Code.plain (.tlbinv (← regOf d) (← regOf a) r (← uexpr e 3 k))
  | _, _, _ => .error "unknown instruction"

/-- Memory, atomic and fence instructions (17). -/
def memoryCode (e : Syms) (op : String) (suf : List String) (ops : List (List Tok)) : Asm Code :=
  match op, suf, ops with
  | "ld", sz :: suf, [t, m] => do
    let (size, f) ← nameIn loadOps sz
    let (p, c) ← loadSuf suf
    let (x, o, b) ← memOf e size m
    let t ← regOf t
    need (size != 16 || t % 2 == 0) "an odd register"
    .ok { i := f (if size = 16 then t / 2 else t) b c p o, imm := x, width := 11, scale := size }
  | "st", sz :: suf, [t, m] => do
    let (size, f) ← nameIn storeOps sz
    let (p, c) ← storeSuf suf
    let (x, o, b) ← memOf e size m
    let t ← regOf t
    need (size != 16 || t % 2 == 0) "an odd register"
    .ok { i := f (if size = 16 then t / 2 else t) b c p o, imm := x, width := 11, scale := size }
  | "pf", suf, [m] => do
    let (p, w, c) ← pfSuf suf
    let (x, o, b) ← memOf e 64 m
    .ok { i := .pf w b c p o, imm := x, width := 11, scale := 64 }
  | "amo", n :: suf, ops => do atomicCode (← nameIn amoOps n) suf ops
  | "cas", suf, ops => atomicCode .cas suf ops
  | "aincb", suf, ops => atomicCode .aincb suf ops
  | "adecz", suf, [d, a] => do
    let (o, s, z) ← atomicSuf suf
    Code.plain (.adecz (← regOf d) (← addrOf a) o s z)
  | "fence", [k, s], [m] => do
    let f ← nameIn fenceOps k
    Code.plain (f (← nameIn (scopeNames ++ [("th", 5)]) s) (← uexpr e 8 m))
  | "dinv", [], [a] => do Code.plain (.dinv (← addrOf a))
  | "waitw", c :: suf, [d, b, a] => do
    let f ← nameIn [("ne", Instr.waitwNe), ("eq", Instr.waitwEq)] c
    let z ← match suf with
      | [] => .ok 1
      | ["w"] => .ok 0
      | _ => (.error "unknown suffix" : Asm Nat)
    Code.plain (f (← regOf d) (← addrOf a) (← regOf b) z)
  | _, _, _ => systemCode e op suf ops

/-- Integer instructions whose operands are of their own shape (16), and the others by family. -/
def otherCode (e : Syms) (pc : Num) (op : String) (suf : List String) (ops : List (List Tok)) : Asm Code :=
  match op, suf, ops with
  | "lea", [], [d, a, b, s] => do Code.plain (.lea (← regOf d) (← regOf a) (← regOf b) (← uexpr e 2 s))
  | "lui", [], [d, x, h] => do
    let x ← exprOf e x
    .ok { i := .lui (← regOf d) (← uexpr e 2 h) (← ufield 16 x.v), imm := x, width := 16 }
  | "addpc", [], [d, t] => do Code.plain (.addpc (← regOf d) (← targetOf e pc 16 t))
  | "jal", [], [t] => do Code.plain (.jal (← targetOf e pc 26 t))
  | "jalr", [], [a, x] => do
    let x ← exprOf e x
    .ok { i := .jalr (← regOf a) (← sfield 16 x.v), imm := x, width := 16 }
  | _, _, _ =>
    if ["qpush", "qpop", "qpeek", "qclasp", "qstat", "bqpop", "qbind"].contains op then queueCode e op suf ops
    else memoryCode e op suf ops

/-- The instruction of a mnemonic with its operands (Table 15-10). -/
def codeOf (e : Syms) (pc : Num) (mn : String) (ops : List (List Tok)) : Asm Code :=
  match rrOps.find? (fun x => x.1 == mn) with
  | some x => shape3 x.2 ops
  | none =>
  match unaryOps.find? (fun x => x.1 == mn) with
  | some x => shape2 x.2 ops
  | none =>
  match oneOps.find? (fun x => x.1 == mn) with
  | some x => shape1 x.2 ops
  | none =>
  match noneOps.find? (fun x => x.1 == mn) with
  | some x => shape0 x.2 ops
  | none =>
  match immOps.find? (fun x => x.1 == mn) with
  | some x => shapeImm e x.2.1 x.2.2 ops
  | none =>
  match shiftOps.find? (fun x => x.1 == mn) with
  | some x => shapeShift e x.2 ops
  | none =>
  match bitsOps.find? (fun x => x.1 == mn) with
  | some x => shapeBits e x.2 ops
  | none =>
  match branchOps.find? (fun x => x.1 == mn) with
  | some x => shapeBranch e pc x.2 ops
  | none => match partsOf mn with
    | op :: suf => otherCode e pc op suf ops
    | [] => .error "unknown instruction"

/-- The word of an instruction: umas emits none that is illegal (R327). -/
def legalWord (i : Instr) : Asm Nat :=
  match encode i with
  | some w => if decode w = some i then .ok w else .error "operand out of range"
  | none => .error "unknown instruction"

/-- The word that a statement stands for at an offset of a segment, and where a loader adds load addresses. -/
def codeWord (e : Syms) (inSvc : Bool) (off : Nat) (pc : Num) (mn : String) (ops : List (List Tok)) : Asm (Nat × List Fix) := do
  let c ← codeOf e pc mn ops
  let w ← legalWord c.i
  let f ← fixFor inSvc off 0 c.width c.scale c.imm
  .ok (w, f)

end Sys2Proof.Machine
end

