-- ==== Sys2Proof/Machine/UmasCut.lean ====
section
/-! DEFINITION. Cut notation (15 R329 to R331, R332, R333; 21 R429, R445 to R447): the tiles that the text of a .cut block
describes, the fields it sets, and the configuration stream and facet-need table that umas emits for it. -/

namespace Sys2Proof.Machine

/-- A tile that the text opens: its element index, its kind (05 R88), the fields that the text sets, the writes of its second
and third group (field and value, in text order), the VCs of its .vc lines, those that its sources name, one more than the highest
local-store entry named, its slot lines, whether it has a mode line, and its timed list. -/
structure CutTile where
  elem   : Nat
  kind   : Nat
  fields : List (Nat × Num)
  seqs   : List (Nat × Num)
  toks   : List (Nat × Num)
  vcs    : List Nat
  used   : List Nat
  ls     : Nat
  slots  : List Nat
  mode   : Bool
  list   : List Nat
  timed  : Bool
  deriving DecidableEq, Repr

def CutTile.fresh (elem kind : Nat) : CutTile :=
  { elem := elem, kind := kind, fields := [], seqs := [], toks := [], vcs := [], used := [], ls := 0, slots := [],
    mode := false, list := [], timed := false }

/-- A queue circuit that the text declares: name, facet, feed port, VC, out, branch. -/
abbrev CutQueue := String × Nat × Nat × Nat × Bool × Bool

/-- A cut as its text describes it: the name, the shape, the entries of its first line for the header, the bank, the current
facet, the tiles (the current one first), and the queues. -/
structure CutText where
  name    : String
  w       : Nat
  h       : Nat
  threads : Nat
  entry   : Option String
  qstore  : Nat
  shadow  : Bool
  facet   : Nat
  tiles   : List CutTile
  queues  : List CutQueue
  deriving DecidableEq, Repr

/-! ## Fields -/

/-- A field set; its value before, where the text has set it. -/
def CutTile.put (t : CutTile) (f : Nat) (v : Num) : CutTile := { t with fields := Tab.ins (Tab.del t.fields f) f v }
def CutTile.putN (t : CutTile) (f v : Nat) : CutTile := t.put f { v := v }
/-- The bits of a field: what the text has set, else its default. -/
def CutTile.bits (t : CutTile) (f : Nat) : Nat :=
  match t.fields.find? (fun (x : Nat × Num) => x.1 == f) with
  | some x => (x.2.v % ((2 ^ 32 : Nat) : Int)).toNat
  | none => fieldDefault t.kind f
/-- The text names a local-store entry. -/
def CutTile.names (t : CutTile) (k : Nat) : CutTile := { t with ls := max t.ls (k + 1) }
/-- The tile as the check of a configuration sees the bank that the text describes. -/
def CutTile.tile (t : CutTile) : Tile :=
  { Tile.empty with kind := t.kind, bank0 := t.fields.map (fun (x : Nat × Num) => (x.1, (x.2.v % ((2 ^ 32 : Nat) : Int)).toNat + 1)) }

/-! ## Lines as keys, bare names and destinations -/

/-- A line taken apart: the values given to keys, what stands alone, and the destinations after the arrow. -/
structure CutLine where
  keys : List (String × List Tok)
  bare : List (List Tok)
  dest : List String
  deriving DecidableEq, Repr

/-- Words that begin a part of a line without a comma before them. -/
def cutWords : List String := ["route", "imm", "xop"]

/-- The parts of a line: cut at commas, at arrows and before the words that begin a part; each with whether an arrow stands
before it. -/
def lineParts (depth : Nat) : List Tok → List (Bool × List Tok)
  | [] => [(false, [])]
  | t :: r =>
    let rest := lineParts (match t with | .sym "(" => depth + 1 | .sym ")" => depth - 1 | _ => depth) r
    match t with
    | .sym "," => if depth = 0 then (false, []) :: rest else onto t rest
    | .sym "->" => (false, []) :: (match rest with | (_, l) :: ls => (true, l) :: ls | [] => [])
    | .id s => if cutWords.contains s then (false, []) :: onto t rest else onto t rest
    | _ => onto t rest
where
  onto (t : Tok) : List (Bool × List Tok) → List (Bool × List Tok)
    | [] => [(false, [t])]
    | (a, l) :: ls => (a, t :: l) :: ls

/-- The names in a list of tokens that all are names. -/
def idsOf : List Tok → Option (List String)
  | [] => some []
  | .id s :: r => (idsOf r).map (fun l => s :: l)
  | _ => none

/-- A line from its parts; toDest tells whether an arrow came before and no key since. -/
def cutLineOf (toDest : Bool) : List (Bool × List Tok) → CutLine
  | [] => { keys := [], bare := [], dest := [] }
  | (a, ts) :: r =>
    match ts with
    | [] => cutLineOf (toDest || a) r
    | .id k :: .sym "=" :: v => let l := cutLineOf false r; { l with keys := (k, v) :: l.keys }
    | .id k :: v =>
      if cutWords.contains k then let l := cutLineOf false r; { l with keys := (k, v) :: l.keys }
      else
        let l := cutLineOf (toDest || a) r
        match toDest || a, idsOf ts with
        | true, some ds => { l with dest := ds ++ l.dest }
        | _, _ => { l with bare := ts :: l.bare }
    | _ => let l := cutLineOf (toDest || a) r; { l with bare := ts :: l.bare }

def cutLine (ts : List Tok) : CutLine := cutLineOf false (lineParts 0 ts)

/-- The value of a key, if the line has it. -/
def CutLine.get (l : CutLine) (k : String) : Option (List Tok) := (l.keys.find? (fun x => x.1 == k)).map (fun x => x.2)
/-- A word stands alone in the line. -/
def CutLine.has (l : CutLine) (k : String) : Bool := l.bare.contains [.id k]

/-- A key's value in an unsigned field of n bits: d where the line has no such key. -/
def CutLine.num (l : CutLine) (e : Syms) (k : String) (n d : Nat) : Asm Nat :=
  match l.get k with
  | some ts => uexpr e n ts
  | none => .ok d
/-- A key's value, and an error where the line has no such key. -/
def CutLine.req (l : CutLine) (k : String) : Asm (List Tok) :=
  match l.get k with
  | some ts => .ok ts
  | none => .error ("missing " ++ k)
def CutLine.reqNum (l : CutLine) (e : Syms) (k : String) (n : Nat) : Asm Nat := do uexpr e n (← l.req k)

/-- A line has no key but those listed, none twice, and no bare part but those listed. -/
def CutLine.only (l : CutLine) (keys bare : List String) : Asm Unit := do
  need (l.keys.all (fun x => keys.contains x.1 && decide ((l.keys.filter (fun y => y.1 == x.1)).length ≤ 1))) "unknown or repeated key"
  need (l.bare.all (fun b => bare.any (fun s => b == [.id s]))) "unknown word"

/-! ## Ports, channels and sources (R330) -/

/-- A port letter: N 0, E 1, S 2, W 3, F 4. -/
def portNames : List (String × Nat) := [("N", 0), ("E", 1), ("S", 2), ("W", 3), ("F", 4)]

/-- P.vcV: the port and the VC. -/
def chanOf (s : String) : Asm (Nat × Nat) :=
  match partsOf s with
  | [p, v] => do
    let p ← nameIn portNames p
    .ok (p, ← numbered "vc" 32 [.id v])
  | _ => .error "P.vcV expected"

def chanTok (ts : List Tok) : Asm (Nat × Nat) :=
  match ts with
  | [.id s] => chanOf s
  | _ => .error "P.vcV expected"

/-- The mask of a list of port letters: bit p of port p. -/
def portMask : List String → Asm Nat
  | [] => .ok 0
  | s :: r => do
    let p ← nameIn portNames s
    let m ← portMask r
    need (!m.testBit p) "a port named twice"
    .ok (m + 2 ^ p)

/-- The port letters that stand alone in a line, as a key's list of ports goes on. -/
def CutLine.ports (l : CutLine) (k : String) : Asm Nat :=
  match l.get k with
  | none => .ok 0
  | some ts => match idsOf ts with
    | some ps => portMask (ps ++ l.bare.filterMap (fun b => match b with
        | [.id s] => if portNames.any (fun x => x.1 == s) then some s else none
        | _ => none))
    | none => .error "ports expected"

def portWords : List String := portNames.map (fun x => x.1)

/-- What a source is: its input word without the sticky count, the VC it reads if it is a channel, the local-store entry if it is
one, and whether it is a slot (08 R172). -/
def sourceOf (s : String) : Asm (Nat × Option Nat × Option Nat × Bool) :=
  match numAfter "v" s with
  | some k => if k < 64 then .ok (20 + k * 2 ^ 10, none, some k, false) else .error "no such local-store entry"
  | none => match numAfter "c" s with
    | some k => if k < 4 then .ok (21 + k * 2 ^ 10, none, none, false) else .error "no such constant register"
    | none => match numAfter "s" s with
      | some k => if k < 16 then .ok (k, none, none, true) else .error "no such slot"
      | none => do
        let (p, v) ← chanOf s
        .ok ((if p = 4 then 22 else 16 + p) + v * 2 ^ 5, some v, none, false)

/-- An input of a slot line: the word, and what it names. 31 where the line has no such input. -/
def inputOf (e : Syms) (ts : Option (List Tok)) : Asm (Nat × Option Nat × Option Nat) :=
  match ts with
  | none => .ok (31, none, none)
  | some [.id s] => do let (w, v, k, _) ← sourceOf s; .ok (w, v, k)
  | some (.id s :: .id "sticky" :: r) => do
    let (w, v, k, slot) ← sourceOf s
    let n ← if r == [.id "clasp"] then .ok 0xFFFF else do
      let n ← uexpr e 16 r
      need (n != 0xFFFF) "a sticky count of at most 65,534"
      .ok n
    need (!slot || n == 0) "a sticky count on a slot source"
    .ok (w + n * 2 ^ 16, v, k)
  | some _ => .error "source expected"

/-! ## Slot lines (R330; 21 R429) -/

def opNames : List (String × Nat) := [
  ("fadd", 0x10), ("fsub", 0x11), ("fmul", 0x12), ("ffma", 0x13), ("ffms", 0x14), ("fmin", 0x15), ("fmax", 0x16),
  ("fsgn", 0x17), ("fdiv", 0x18), ("fsqrt", 0x19), ("fexp2", 0x1A), ("flog2", 0x1B), ("ftanh", 0x1C), ("fsig", 0x1D),
  ("iadd", 0x20), ("isub", 0x21), ("imul", 0x22), ("imad", 0x23), ("ishl", 0x24), ("ishr", 0x25), ("iand", 0x26),
  ("ior", 0x27), ("ixor", 0x28), ("imin", 0x29), ("imax", 0x2A), ("iabs", 0x2B), ("iclamp", 0x2C), ("fcmp", 0x30),
  ("icmp", 0x31), ("sel", 0x32), ("cvt", 0x38), ("scale", 0x39), ("wadapt", 0x3A), ("rsum", 0x40), ("rmax", 0x41),
  ("rmin", 0x42), ("scan", 0x43), ("steer", 0x50), ("merge", 0x51), ("lcarry", 0x52), ("gate", 0x53), ("sink", 0x54),
  ("csrc", 0x55), ("count", 0x56), ("clcut", 0x57), ("join", 0x58), ("bpost", 0x59), ("result", 0x5A), ("dup", 0x5B),
  ("lpred", 0x60), ("lcheck", 0x61)]

def roundNames : List (String × Nat) := [("rne", 0), ("rz", 1), ("ru", 2), ("rd", 3), ("rna", 4)]

/-- The suffixes .rnd, .sat, .ftz and .lL of an operator, in that order: bits [22:14] of OPW in place. -/
def opSuffix (l : List String) : Asm Nat :=
  let (r, l) := match l with
    | s :: t => (match roundNames.find? (fun x => x.1 == s) with | some x => (x.2, t) | none => (0, l))
    | [] => (0, l)
  let (s, l) := match l with | "sat" :: t => (1, t) | l => (0, l)
  let (f, l) := match l with | "ftz" :: t => (1, t) | l => (0, l)
  let base := r * 2 ^ 14 + s * 2 ^ 17 + f * 2 ^ 18
  match l with
  | [] => .ok base
  | [x] => (match numAfter "l" x with
    | some n => if 1 ≤ n ∧ n ≤ 7 then .ok (base + n * 2 ^ 20) else .error "a clasp level of 1 to 7"
    | none => .error "unknown or misplaced suffix")
  | _ => .error "unknown, repeated or misplaced suffix"

/-- The operator of a slot line with its suffixes: OPW without the operator-specific byte. -/
def opwOf (s : String) : Asm Nat :=
  match partsOf s with
  | [] => .error "operator expected"
  | op :: suf => do
    let o ← nameIn opNames op
    let two := match suf with | a :: b :: _ => some (a ++ "." ++ b) | _ => none
    let fmt := fun (x : Option String) => x.bind (fun s => (fmtNames.find? (fun y => y.1 == s)).map (fun y => y.2))
    let (f, suf) := match fmt two with
      | some c => (c, suf.drop 2)
      | none => match fmt suf.head? with
        | some c => (c, suf.drop 1)
        | none => (0, suf)
    .ok (o + f * 2 ^ 8 + (← opSuffix suf))

/-- The OUT word of destinations, with the local-store entry if one is named (Table 08-9). -/
def outOf (ds : List String) (route : Nat) : Asm (Nat × Option Nat) := do
  let ls := ds.filterMap (numAfter "v")
  let cs ← asmAll chanOf (ds.filter (fun d => (numAfter "v" d).isNone))
  let vcs := cs.map (fun c => c.2)
  need (decide (ls.length ≤ 1)) "two local-store destinations"
  need (ls.all (fun k => decide (k < 64))) "no such local-store entry"
  need (vcs.all (fun v => some v == vcs.head?)) "destinations of two VCs"
  let ps := cs.map (fun c => if c.1 = 4 then 5 else c.1)
  need (ps.zipIdx.all (fun x => !(ps.drop (x.2 + 1)).contains x.1)) "a port named twice"
  let ports := (ps.map (fun p => 2 ^ p)).sum
  .ok (ports + (match ls.head? with | some k => 2 ^ 4 + k * 2 ^ 11 | none => 0) + (vcs.headD 0) * 2 ^ 6 + route * 2 ^ 17, ls.head?)

/-- A path of steer, dup, lpred or lcheck: its byte (21 R429). -/
def pathOf (d : String) : Asm Nat :=
  if d == "s" then .ok (5 * 2 ^ 5)
  else if d == "none" then .ok (6 * 2 ^ 5)
  else do let (p, v) ← chanOf d; .ok (p * 2 ^ 5 + v)

def pathBytesOf (ds : List String) : Asm Nat :=
  match ds with
  | [] => .ok 0
  | d :: r => do .ok ((← pathOf d) + 2 ^ 8 * (← pathBytesOf r))

/-- A slot line: sN: op … with its six words. -/
def CutTile.slotLine (t : CutTile) (e : Syms) (s : Nat) (op : String) (r : List Tok) : Asm CutTile := do
  need (t.kind == 0) "a slot line outside a vector tile"
  need (!t.slots.contains s) "two slot lines for one slot"
  let opw ← opwOf op
  let o := opw % 256
  let l := cutLine r
  l.only ["a", "b", "c", "route", "imm", "xop"] []
  let (wa, va, la) ← inputOf e (l.get "a")
  let (wb, vb, lb) ← inputOf e (l.get "b")
  let (wc, vc, lc) ← inputOf e (l.get "c")
  let used := [l.get "a", l.get "b", l.get "c"].map (fun x => x.isSome)
  need (match opForms o with | some fs => fs.contains used | none => false) "inputs that the operator does not have"
  let route ← l.num e "route" 9 0
  let xop ← l.num e "xop" 8 0
  let imm ← match l.get "imm" with
    | some ts => exprOf e ts
    | none => .ok { v := 0 }
  let immBits ← efield 32 imm.v
  let n := l.dest.length
  let path := o == 0x50 || o == 0x5B || o == 0x60 || o == 0x61
  need (!path || (if o = 0x50 then decide (2 ≤ n) && decide (n ≤ 4) else if o = 0x5B then decide (1 ≤ n) && decide (n ≤ 4) else n == 2))
    "number of paths"
  let xop := if o = 0x50 ∨ o = 0x5B then n - 1 else xop
  let bytes ← if path then pathBytesOf l.dest else .ok 0
  let (out, lo) ← if path then .ok (route * 2 ^ 17, none) else outOf l.dest route
  need (!path || (imm.plain && immBits &&& bytes == 0)) "imm names a path"
  let f := 8 + 6 * s
  let immW : Num := if path then { v := (immBits ||| bytes : Nat) } else { imm with v := immBits }
  let t := ((((t.putN f (opw + xop * 2 ^ 24)).putN (f + 1) wa).putN (f + 2) wb).putN (f + 3) wc).putN (f + 4) out
  let t := t.put (f + 5) immW
  let t := [la, lb, lc, lo].foldl (fun t k => match k with | some k => t.names k | none => t) t
  .ok { t with slots := s :: t.slots, used := [va, vb, vc].filterMap id ++ t.used }

/-! ## Other lines of a tile -/

/-- Eight words, those missing 0. -/
def eightWords (e : Syms) (ts : List Tok) : Asm (List Num) := do
  let ws ← asmAll (fun l => do
    let a ← exprOf e l
    let v ← efield 32 a.v
    .ok ({ a with v := (v : Int) } : Num)) (operandsOf ts)
  need (decide (ws.length ≤ 8)) "more than eight words"
  .ok (ws ++ List.replicate (8 - ws.length) { v := 0 })

/-- The fields from f upward set to a list of values. -/
def CutTile.putAll (t : CutTile) (f : Nat) : List Num → CutTile
  | [] => t
  | v :: r => (t.put f v).putAll (f + 1) r

/-- cN, vN or kN = … in a vector tile. -/
def CutTile.initLine (t : CutTile) (e : Syms) (shadow : Bool) (s : String) (v : List Tok) : Asm CutTile := do
  need (t.kind == 0) "a register of a tile that has none"
  match numAfter "c" s, numAfter "v" s, numAfter "k" s with
  | some n, _, _ => do
    need (decide (n < 4)) "no such constant register"
    .ok (t.putAll (168 + 8 * n) (← eightWords e v))
  | _, some n, _ => do
    need (decide (n < 64)) "no such local-store entry"
    need (!shadow) "a write of the local store in a partial reconfiguration"
    let ws ← eightWords e v
    .ok { t.names n with seqs := t.seqs ++ (1, { v := n }) :: ws.map (fun w => (2, w)) }
  | _, _, some n => do
    need (decide (n < 16)) "no such scale register"
    .ok (t.putN (136 + n) (← uexpr e 8 v))
  | _, _, _ => .error "unknown line"

/-- token P.vcV kind …: an initial token (Table 08-6). -/
def CutTile.tokenLine (t : CutTile) (e : Syms) (shadow : Bool) (ts : List Tok) : Asm CutTile := do
  need (t.kind == 0) "an initial token outside a vector tile"
  need (!shadow) "an initial token in a partial reconfiguration"
  match ts with
  | .id ch :: .id kind :: r => do
    let (p, v) ← chanOf ch
    let base := p + v * 2 ^ 3
    let add := fun (t : CutTile) (w : Nat) => ({ t with toks := t.toks ++ [(5, { v := (w : Int) })] } : CutTile)
    match kind, r with
    | "data", _ => do
      let k ← numbered "v" 64 r
      .ok (add (t.names k) (base + k * 2 ^ 14))
    | "clasp", _ => do
      let l ← uexpr e 3 r
      need (l != 0) "a clasp level of 1 to 7"
      .ok (add t (base + 1 * 2 ^ 8 + l * 2 ^ 11))
    | "seq", [] => .ok (add t (base + 5 * 2 ^ 8))
    | "null", [] => .ok (add t (base + 6 * 2 ^ 8))
    | _, _ => .error "kind of an initial token"
  | _ => .error "token P.vcV kind expected"

/-- swap in=P.vcV, out=P…, vc=V, route n: TCTL and SWROUTE (Table 08-14). -/
def CutTile.swapLine (t : CutTile) (e : Syms) (ts : List Tok) : Asm CutTile := do
  let l := cutLine ts
  l.only ["in", "out", "vc", "route"] portWords
  let (p, v) ← chanTok (← l.req "in")
  let m ← l.ports "out"
  let ovc ← l.num e "vc" 5 0
  let low := t.bits 0 % 2 ^ 8
  let t := t.putN 0 (low + p * 2 ^ 8 + v * 2 ^ 11 + m * 2 ^ 16 + ovc * 2 ^ 21)
  match l.get "route" with
  | some r => do .ok (t.putN 6 (← uexpr e 9 r))
  | none => .ok t

/-- .vc v, fmt [, kn] [, lane or record] (Table 08-5). -/
def CutTile.vcLine (t : CutTile) (e : Syms) (ts : List Tok) : Asm CutTile := do
  need (t.kind == 0) "a VC line outside a vector tile"
  match operandsOf ts with
  | v :: [.id f] :: r => do
    let v ← uexpr e 5 v
    let f ← nameIn fmtNames f
    let (k, r) ← match r with
      | [.id s] :: r' => (match numAfter "k" s with
        | some n => if n < 16 then .ok (n, r') else .error "no such scale register"
        | none => .ok (0, r))
      | _ => (.ok (0, r) : Asm (Nat × List (List Tok)))
    let pack ← match r with
      | [] => .ok 0
      | [[.id "lane"]] => .ok 0
      | [[.id "record"]] => .ok 1
      | _ => (.error "lane or record expected" : Asm Nat)
    need (!t.vcs.contains v) "two VC lines for one VC"
    .ok { t.putN (104 + v) (2 ^ 31 + pack * 2 ^ 10 + k * 2 ^ 6 + f) with vcs := v :: t.vcs }
  | _ => .error "VC and format expected"

/-- .route i, from=P, route=n [, fwd=P…] [, local] (Table 08-3). -/
def CutTile.routeLine (t : CutTile) (e : Syms) (ts : List Tok) : Asm CutTile := do
  match operandsOf ts with
  | [] => .error "route entry expected"
  | i :: _ => do
    let l := cutLine (ts.drop (i.length + 1))
    l.only ["from", "route", "fwd"] ("local" :: portWords)
    let i ← uexpr e 4 i
    need (decide (i < (if t.kind = 0 then 16 else 8))) "no such route entry"
    let p ← match ← l.req "from" with
      | [.id s] => nameIn portNames s
      | _ => .error "port expected"
    let n ← l.reqNum e "route" 9
    let m ← l.ports "fwd"
    let f := (if t.kind = 0 then 152 else if t.kind = 1 then 14 else 48) + i
    need (!t.fields.any (fun x => x.1 == f)) "two lines for one route entry"
    .ok (t.putN f (2 ^ 31 + p * 2 ^ 28 + m * 2 ^ 23 + (if l.has "local" then 2 ^ 22 else 0) + n))

/-! ## Matrix and memory tiles (21 R445, R446) -/

def accNames : List (String × Nat) := [("exa", 0), ("i64", 1), ("f64", 2)]

/-- A format by name. -/
def fmtTok (ts : List Tok) : Asm Nat :=
  match ts with
  | [.id s] => nameIn fmtNames s
  | _ => .error "format expected"

/-- A channel of a matrix tile: it has no feed side. -/
def meshTok (ts : List Tok) : Asm (Nat × Nat) := do
  let (p, v) ← chanTok ts
  need (p != 4) "a matrix tile has no feed side"
  .ok (p, v)

/-- mma …: fields 1, 4, 8, 9, 11 and 13. -/
def CutTile.mmaLine (t : CutTile) (e : Syms) (ts : List Tok) : Asm CutTile := do
  need (t.kind == 1) "mma outside a matrix tile"
  let l := cutLine ts
  l.only ["afmt", "bfmt", "acc", "bp", "cap", "kch", "a", "b0", "b1", "sect", "count", "level", "carat"] ["keep"]
  let af ← fmtTok (← l.req "afmt")
  let bf ← fmtTok (← l.req "bfmt")
  let acc ← match ← l.req "acc" with
    | [.id s] => nameIn accNames s
    | _ => .error "acc"
  let bp ← l.num e "bp" 6 0
  let cap ← l.num e "cap" 3 0
  let kch ← l.reqNum e "kch" 16
  let level ← l.reqNum e "level" 3
  let sect ← l.reqNum e "sect" 8
  need (sect != 0) "a section of 1 to 255"
  let (ap, av) ← meshTok (← l.req "a")
  let (bp0, bv0) ← meshTok (← l.req "b0")
  let (bp1, bv1) ← match l.get "b1" with
    | some ts => meshTok ts
    | none => .ok (7, 0)
  let t := t.putN 1 (level * 2 ^ 17 + (if l.has "keep" then 2 ^ 16 else 0) + kch)
  let t ← match l.get "carat" with
    | none => .ok t
    | some [.id "off"] => .ok (t.putN 4 0)
    | some _ => (.error "carat" : Asm CutTile)
  let t := t.putN 8 (cap * 2 ^ 20 + bp * 2 ^ 14 + acc * 2 ^ 12 + bf * 2 ^ 6 + af)
  let t ← match l.get "count" with
    | none => .ok t
    | some ts => do .ok (t.putN 9 (← uexpr e 32 ts))
  let t := t.putN 11 (t.bits 11 / 2 ^ 24 * 2 ^ 24 + bv1 * 2 ^ 19 + bp1 * 2 ^ 16 + bv0 * 2 ^ 11 + bp0 * 2 ^ 8 + av * 2 ^ 3 + ap)
  .ok { t.putN 13 sect with mode := true }

/-- mmacc …: fields 10, 11 and 12. -/
def CutTile.mmaccLine (t : CutTile) (e : Syms) (ts : List Tok) : Asm CutTile := do
  need (t.kind == 1) "mmacc outside a matrix tile"
  let l := cutLine ts
  l.only ["fmt", "rnd", "k", "vc", "route"] ["sat"]
  let f ← fmtTok (← l.req "fmt")
  let r ← match l.get "rnd" with
    | some [.id s] => nameIn roundNames s
    | some _ => .error "rnd"
    | none => .ok 0
  let k ← match l.get "k" with
    | some ts => numbered "k" 16 ts
    | none => .ok 0
  need (!l.dest.isEmpty) "missing output"
  let m ← portMask l.dest
  need (!m.testBit 4) "a matrix tile has no feed side"
  let v ← l.reqNum e "vc" 5
  let n ← l.reqNum e "route" 9
  let t := t.putN 10 (k * 2 ^ 10 + (if l.has "sat" then 2 ^ 9 else 0) + r * 2 ^ 6 + f)
  let t := t.putN 11 (m * 2 ^ 24 + t.bits 11 % 2 ^ 24)
  .ok (t.putN 12 (v * 2 ^ 9 + n))

/-- The modes of a memory tile: MODE, and the keys that its line may have besides region. -/
def memModes : List (String × Nat × List String) := [
  ("tstore", 1, ["nbuf", "pfull", "in"]), ("fifo", 2, ["in", "vc", "route"]), ("lbuf", 3, ["ww", "wh", "llen", "in", "vc", "route"]),
  ("rpt", 4, ["level", "in", "ctl", "vc", "route"]), ("cdown", 5, ["n", "ctl", "vc", "route"]), ("ltab", 6, ["n", "ctl", "vc", "route"])]

/-- A mode line of a memory tile (21 R446). -/
def CutTile.modeLine (t : CutTile) (e : Syms) (m : Nat) (keys : List String) (ts : List Tok) : Asm CutTile := do
  need (t.kind == 2 && !t.mode) "a mode line outside a memory tile, or a second one"
  let l := cutLine ts
  l.only ("region" :: keys) []
  let mctl ←
    if m = 1 then do (.ok ((← l.num e "pfull" 4 0) * 2 ^ 8 + (← l.reqNum e "nbuf" 4)) : Asm Nat)
    else if m = 3 then do .ok ((← l.reqNum e "ww" 3) * 2 ^ 16 + (← l.reqNum e "wh" 3) * 2 ^ 13 + (← l.reqNum e "llen" 13))
    else if m = 4 then l.reqNum e "level" 3
    else if m = 5 ∨ m = 6 then l.reqNum e "n" 17
    else .ok 0
  let t := { t.putN 1 m with mode := true }
  let t := if m = 2 then t else t.putN 4 mctl
  let t ← do
    let (b, r) ← exprHead e (← l.req "region")
    match r with
    | .sym ":" :: r => do
      let n ← uexpr e 13 r
      need b.plain "region"
      .ok (t.putN 40 (n * 2 ^ 12 + (← ufield 12 b.v)))
    | _ => (.error "region=base:size expected" : Asm CutTile)
  let t ← match l.get "in" with
    | some ts => do let (p, v) ← chanTok ts; .ok (t.putN 41 (v * 2 ^ 3 + p))
    | none => .ok t
  let t ← match l.get "ctl" with
    | some ts => do let (p, v) ← chanTok ts; .ok (t.putN 42 (v * 2 ^ 3 + p))
    | none => .ok t
  if l.dest.isEmpty then .ok t
  else do
    let pm ← portMask l.dest
    need (m != 1) "tstore has no mode output"
    .ok (t.putN 43 ((← l.reqNum e "route" 9) * 2 ^ 10 + (← l.reqNum e "vc" 5) * 2 ^ 5 + pm))

/-- The loops of a gen line, innermost first: (count,stride) each. -/
def loopsOf (e : Syms) : List (List Tok) → Asm (List Nat)
  | [] => .ok []
  | g :: r => do
    let one : Nat ← match splitComma 0 ((g.drop 1).dropLast) with
      | [c, s] => do
        need (g.head? == some (.sym "(") && g.getLast? == some (.sym ")")) "(count,stride) expected"
        let c ← uexpr e 16 c
        need (c != 0) "a count of 0"
        let s ← plainOf e s
        let s ← sfield 16 s
        .ok (c * 2 ^ 16 + s)
      | _ => .error "(count,stride) expected"
    let rest ← loopsOf e r
    .ok (one :: rest)

/-- A list of tokens cut into its parenthesised groups. -/
def parenGroups : List Tok → List (List Tok)
  | [] => []
  | t :: r =>
    let rest := parenGroups r
    match t, rest with
    | .sym ")", _ => [t] :: rest
    | _, [] => [[t]]
    | .sym "(", g :: gs => [] :: (t :: g) :: gs |>.filter (fun g => !g.isEmpty)
    | _, g :: gs => (t :: g) :: gs

/-- gen g [wr] base=n, loop=(count,stride) …, clasp=mask, passes=n [-> P…, vc=V, route n] (Table 10-5). -/
def CutTile.genLine (t : CutTile) (e : Syms) (ts : List Tok) : Asm CutTile := do
  need (t.kind == 2) "a gen line outside a memory tile"
  let (g, r) ← exprHead e ts
  let g ← ufield 2 g.v
  let (wr, r) := match r with | .id "wr" :: r => (1, r) | r => (0, r)
  let l := cutLine r
  let loops := l.keys.filter (fun x => x.1 == "loop")
  need (l.keys.all (fun x => ["base", "loop", "clasp", "passes", "vc", "route"].contains x.1) &&
    l.bare.all (fun b => b.head? == some (.sym "("))) "unknown key"
  let ls ← loopsOf e (((loops.map (fun x => x.2)) ++ l.bare).flatMap parenGroups)
  need (decide (ls.length ≤ 4)) "more than four loops"
  let base ← l.reqNum e "base" 12
  let passes ← l.num e "passes" 14 0
  let f := 8 + 8 * g
  need (!t.fields.any (fun x => x.1 == f)) "two lines for one generator"
  let t := t.putN f (2 ^ 31 + wr * 2 ^ 30 + passes * 2 ^ 16 + base)
  let t := t.putAll (f + 1) ((ls ++ List.replicate (4 - ls.length) (2 ^ 16)).map (fun (v : Nat) => ({ v := (v : Int) } : Num)))
  let t ← match l.get "clasp" with
    | some ts => do .ok (t.putN (f + 5) (← uexpr e 4 ts))
    | none => .ok t
  if l.dest.isEmpty then .ok t
  else do
    need (wr == 0) "a writing generator has no output"
    let pm ← portMask l.dest
    .ok (t.putN (f + 6) ((← l.reqNum e "route" 9) * 2 ^ 10 + (← l.reqNum e "vc" 5) * 2 ^ 5 + pm))

/-- mem a = w, …: through MEMADDR and MEMDATA. -/
def CutTile.memLine (t : CutTile) (e : Syms) (shadow : Bool) (ts : List Tok) : Asm CutTile := do
  need (t.kind == 2) "a preload line outside a memory tile"
  need (!shadow) "a preload line in a partial reconfiguration"
  let (a, r) ← exprHead e ts
  let a ← ufield 15 a.v
  match r with
  | .sym "=" :: r => do
    let ws ← asmAll (fun l => do
      let x ← exprOf e l
      let v ← efield 32 x.v
      .ok (3, ({ x with v := (v : Int) } : Num))) (operandsOf r)
    .ok { t with seqs := t.seqs ++ (2, { v := (a : Int) }) :: ws }
  | _ => .error "mem a = words expected"

/-! ## Timed segments (R331; 21 R447) -/

/-- .timed period=n, group=g. -/
def CutTile.timedLine (t : CutTile) (e : Syms) (ts : List Tok) : Asm CutTile := do
  need (t.kind == 0 && !t.timed) "a timed segment outside a vector tile, or a second one"
  let l := cutLine ts
  l.only ["period", "group"] []
  let n ← l.reqNum e "period" 13
  let g ← l.reqNum e "group" 4
  let c := t.bits 0
  .ok { (t.putN 0 (c / 2 ^ 8 * 2 ^ 8 + g * 2 ^ 4 + 1)).putN 3 n with timed := true }

/-- at t pipe p: sN, or at t pipe p: idle n (Table 08-16). -/
def CutTile.atLine (t : CutTile) (e : Syms) (ts : List Tok) : Asm CutTile := do
  need t.timed "a timed entry outside a timed segment"
  let (k, r) ← exprHead e ts
  let k ← ufield 12 k.v
  match r with
  | .id "pipe" :: r => do
    let (p, r) ← exprHead e r
    let p ← ufield 2 p.v
    let base := k * 2 ^ 20 + p * 2 ^ 18
    match r with
    | [.sym ":", .id s] => do
      let s ← numbered "s" 16 [.id s]
      .ok { t with list := t.list ++ [base + s * 2 ^ 14] }
    | .sym ":" :: .id "idle" :: r => do
      let n ← uexpr e 13 r
      need (n != 0 && decide (n ≤ 4096)) "an idle count of 1 to 4,096"
      .ok { t with list := t.list ++ [base + 2 ^ 13 + n] }
    | _ => .error "slot or idle expected"
  | _ => .error "pipe expected"

/-- A timed tile with LISTLEN and its list written; a list longer than 56 entries is an error (R331: R191). -/
def CutTile.timedEnd (t : CutTile) : Asm CutTile :=
  if t.timed then do
    need (decide (t.list.length ≤ 56)) "a timed list of more than 56 entries"
    .ok ((t.putN 4 t.list.length).putAll 200 (t.list.map (fun (v : Nat) => ({ v := (v : Int) } : Num))))
  else .ok t

/-! ## The block -/

/-- A line of a tile's body, without a label. -/
def CutTile.line (t : CutTile) (e : Syms) (shadow : Bool) (ts : List Tok) : Asm CutTile :=
  match ts with
  | [] => .ok t
  | .id s :: .sym ":" :: .id op :: r => do t.slotLine e (← numbered "s" 16 [.id s]) op r
  | .id s :: .sym "=" :: r => t.initLine e shadow s r
  | .id ".vc" :: r => t.vcLine e r
  | .id ".route" :: r => t.routeLine e r
  | .id ".timed" :: r => t.timedLine e r
  | [.id ".endtimed"] => .ok t
  | .id "at" :: r => t.atLine e r
  | .id "swap" :: r => t.swapLine e r
  | .id "token" :: r => t.tokenLine e shadow r
  | .id "mma" :: r => t.mmaLine e r
  | .id "mmacc" :: r => t.mmaccLine e r
  | .id "gen" :: r => t.genLine e r
  | .id "mem" :: r => t.memLine e shadow r
  | .id m :: r =>
    match memModes.find? (fun x => x.1 == m) with
    | some x => t.modeLine e x.2.1 x.2.2 r
    | none => .error ("unknown line " ++ m)
  | _ => .error "unknown line"

/-- (x,y): two numbers. -/
def pairHead (e : Syms) (ts : List Tok) : Asm (Int × Int × List Tok) :=
  match ts with
  | .sym "(" :: r => do
    let (x, r) ← exprHead e r
    match r with
    | .sym "," :: r => do
      let (y, r) ← exprHead e r
      match r with
      | .sym ")" :: r => .ok (x.v, y.v, r)
      | _ => .error "(x,y) expected"
    | _ => .error "(x,y) expected"
  | _ => .error "(x,y) expected"

def kindNames : List (String × Nat) := [("vector", 0), ("matrix", 1), ("memory", 2)]

/-- WxH: the number and the name that the lexer makes of it. -/
def shapeOf (ts : List Tok) : Asm (Nat × Nat) :=
  match ts with
  | [.num w, .id s] => match numAfter "x" s with
    | some h => .ok (w, h)
    | none => .error "WxH expected"
  | _ => .error "WxH expected"

/-- The first line of a block: .cut name, shape=WxH [, threads=n][, entry=sym][, qstore=n][, bank=active or shadow]. -/
def cutHead (e : Syms) (ts : List Tok) : Asm CutText := do
  match ts with
  | .id name :: r => do
    let l := cutLine r
    l.only ["shape", "threads", "entry", "qstore", "bank"] []
    let (w, h) ← shapeOf (← l.req "shape")
    need (decide (1 ≤ w) && decide (w ≤ 12) && decide (1 ≤ h) && decide (h ≤ 16) && decide (w * h ≤ 64)) "shape"
    let sh ← match l.get "bank" with
      | none => .ok false
      | some [.id "active"] => .ok false
      | some [.id "shadow"] => .ok true
      | some _ => (.error "active or shadow expected" : Asm Bool)
    let en ← match l.get "entry" with
      | none => .ok none
      | some [.id s] => do let _ ← e.find s; .ok (some s)
      | some _ => (.error "entry expects a symbol" : Asm (Option String))
    .ok { name := name, w := w, h := h, threads := ← l.num e "threads" 12 0, entry := en, qstore := ← l.num e "qstore" 13 0,
          shadow := sh, facet := 0, tiles := [], queues := [] }
  | _ => .error "name of a cut expected"

/-- A tile has finished: what its lines must agree on (R330: a VC without a .vc line). -/
def CutTile.close (t : CutTile) : Asm CutTile := do
  need (t.used.all (fun v => t.vcs.contains v)) "a VC without a .vc line"
  t.timedEnd

/-- One line of a block. -/
def CutText.line (c : CutText) (e : Syms) (ts : List Tok) : Asm CutText :=
  match ts with
  | [] => .ok c
  | .id ".facet" :: r => do
    let f ← match r with
      | .sym "(" :: _ => do
        let (x, y, r) ← pairHead e r
        need (r.isEmpty && decide (0 ≤ x) && decide (x < c.w) && decide (0 ≤ y) && decide (y < c.h)) "facet"
        (.ok (y.toNat * c.w + x.toNat) : Asm Nat)
      | _ => uexpr e 6 r
    need (decide (f < c.w * c.h)) "no such facet"
    .ok { c with facet := f }
  | .id ".tile" :: r => do
    let (x, y, r) ← pairHead e r
    need (decide (0 ≤ x) && decide (x < 8) && decide (0 ≤ y) && decide (y < 8)) "no such tile"
    let k ← match r with
      | [.id s] => nameIn kindNames s
      | _ => .error "kind of a tile expected"
    let i := y.toNat * 8 + x.toNat
    need (tileKind i == k) "the tile is of another kind"
    let el := c.facet * 64 + i
    need (!c.tiles.any (fun t => t.elem == el)) "a tile opened twice"
    .ok { c with tiles := CutTile.fresh el k :: c.tiles }
  | .id ".queue" :: .id name :: r => do
    let l := cutLine (r.drop 1)
    l.only ["facet", "port", "vc"] ["in", "out", "branch"]
    let f ← l.reqNum e "facet" 6
    let p ← l.reqNum e "port" 3
    let v ← l.reqNum e "vc" 5
    need (decide (f < c.w * c.h) && (l.has "in" != l.has "out") && (!l.has "branch" || l.has "in")) "queue"
    .ok { c with queues := c.queues ++ [(name, f, p, v, l.has "out", l.has "branch")] }
  | _ => match c.tiles with
    | [] => .error "a line before the first .tile"
    | t :: r => do .ok { c with tiles := (← t.line e c.shadow ts) :: r }

/-- The lines of a block. -/
def CutText.lines (c : CutText) (e : Syms) : List (List Tok) → Asm CutText
  | [] => .ok c
  | l :: r => do (← c.line e l).lines e r

/-- What a configuration check rejects of a tile that the text describes in whole, and so umas does (R331: R191; 21 R445: R197; 21
R446: R215). -/
def CutTile.rejected (t : CutTile) (shadow : Bool) : Bool :=
  if t.kind = 0 then (t.tile.badTimed false).isSome
  else if t.kind = 1 then (t.tile.badMatrix false).isSome
  else (!shadow || t.mode) && (t.tile.badMemory false (hasFeed (t.elem % 64))).isSome

/-- Tiles in ascending element index. -/
def sortTiles : List CutTile → List CutTile
  | [] => []
  | t :: r => insertTile t (sortTiles r)
where
  insertTile (t : CutTile) : List CutTile → List CutTile
    | [] => [t]
    | u :: r => if t.elem < u.elem then t :: u :: r else u :: insertTile t r

/-- Fields that stand side by side, as runs: the first field of each and its values. -/
def runsOf : List (Nat × Num) → List (Nat × List Num)
  | [] => []
  | (f, v) :: r =>
    match runsOf r with
    | (g, vs) :: rs => if g = f + 1 then (f, v :: vs) :: rs else (f, [v]) :: (g, vs) :: rs
    | [] => [(f, [v])]

/-- A long write (Table 08-13). -/
def longWrite (shadow : Bool) (elem f : Nat) (vs : List Num) : List Num :=
  { v := ((2 ^ 31 + (if shadow then 2 ^ 30 else 0) + elem * 2 ^ 18 + f * 2 ^ 10 + vs.length : Nat) : Int) } :: vs

/-- The configuration stream of a cut: the fields, then the sequences, then the initial tokens (R329). -/
def CutText.stream (c : CutText) (ts : List CutTile) : List Num :=
  ts.flatMap (fun t => (runsOf t.fields).flatMap (fun r => longWrite c.shadow t.elem r.1 r.2)) ++
  ts.flatMap (fun t => t.seqs.flatMap (fun w => longWrite c.shadow t.elem w.1 [w.2])) ++
  ts.flatMap (fun t => t.toks.flatMap (fun w => longWrite c.shadow t.elem w.1 [w.2]))

/-- The facet-need table: USEMASK and LSNEED of each facet (05 R93). -/
def CutText.needs (c : CutText) (ts : List CutTile) : List (Nat × Nat) :=
  (List.range (c.w * c.h)).map (fun f =>
    let l := ts.filter (fun t => t.elem / 64 == f)
    ((l.map (fun t => 2 ^ (t.elem % 64))).sum,
     ((l.filter (fun t => t.kind == 0)).map (fun t => t.ls * 2 ^ (8 * feedNo (t.elem % 64)))).sum))

/-- A .cut block: its first line after .cut and its body; the cut, its stream and its facet-need table. -/
def cutBlock (e : Syms) (head : List Tok) (body : List (List Tok)) : Asm (CutText × List Num × List (Nat × Nat)) := do
  let c ← (← cutHead e head).lines e body
  let ts ← asmAll (fun t => t.close) (sortTiles c.tiles)
  need (!e.strict || ts.all (fun t => !t.rejected c.shadow)) "a configuration that its check rejects"
  .ok (c, c.stream ts, c.needs ts)

end Sys2Proof.Machine
end

