-- ==== Sys2Proof/Machine/Umas.lean ====
section
/-! DEFINITION. umas (15 R325 to R331; 05 R92; 04 R71; 18 Tables 18-6, 18-8, 18-9): statements and directives, sections, the
image with its relocation list, and placing an image in memory. -/

namespace Sys2Proof.Machine

/-! ## The image -/

/-- What umas writes (R328): the sections in their order in the image, the .svc segment, the relocation list, the symbols that are
global, the thread entries, and the cuts that its text describes. -/
structure UImage where
  text    : List Nat
  rodata  : List Nat
  data    : List Nat
  svc     : List Nat
  fixes   : List Fix
  globals : List (String × Num)
  threads : List (String × Nat)
  cuts    : List CutText
  deriving DecidableEq, Repr

/-- The next multiple of 16 KiB. -/
def up16K (n : Nat) : Nat := (n + 16383) / 16384 * 16384

/-- Where .rodata and .data begin in the image (R328). -/
def UImage.rodataAt (m : UImage) : Nat := up16K m.text.length
def UImage.dataAt (m : UImage) : Nat := up16K (m.rodataAt + m.rodata.length)

/-- A field of a little-endian number after a load address, in units of its scale, is added to it. -/
def Fix.apply (f : Fix) (base w : Nat) : Nat :=
  let v := (fld w f.lo f.width + base / f.scale) % 2 ^ f.width
  w - fld w f.lo f.width * 2 ^ f.lo + v * 2 ^ f.lo

/-- Memory with bytes stored from an address upward. -/
def Mem.putBytes (m : Mem) (a : Nat) : List Nat → Mem
  | [] => m
  | b :: r => Mem.putBytes (Mem.write m a (BitVec.ofNat 8 b)) (a + 1) r

/-- Memory after a loader has added the load addresses (R328). -/
def Mem.relocate (m : Mem) (base svc : Nat) : List Fix → Mem
  | [] => m
  | f :: r =>
    let a := (if f.inSvc then svc else base) + f.off
    let n := if f.lo + f.width ≤ 32 then 4 else if f.lo + f.width ≤ 64 then 8 else 16
    let n := if f.lo = 0 ∧ f.width = 8 then 1 else if f.lo = 0 ∧ f.width = 16 then 2 else n
    Mem.relocate (Mem.writeN m a n (f.apply (if f.toSvc then svc else base) (Mem.readN m a n))) base svc r

/-- Memory after an image is loaded at an address, its .svc segment at another. -/
def UImage.load (im : UImage) (m : Mem) (base svc : Nat) : Mem :=
  let m := Mem.putBytes m base im.text
  let m := Mem.putBytes m (base + im.rodataAt) im.rodata
  let m := Mem.putBytes m (base + im.dataAt) im.data
  Mem.relocate (Mem.putBytes m svc im.svc) base svc im.fixes

/-! ## The pass -/

/-- A label or symbol as a pass finds it: in a section (0 .text, 1 .rodata, 2 .data, 3 .svc) at an offset, or a value. -/
inductive SymAt where
  | at_ (sec off : Nat)
  | val (n : Num)
  deriving DecidableEq, Repr

/-- A pass over the source: the sections of the pass before it, the current section, the bytes of each, the symbols defined so far, fixes as (section, offset in it), the
names made global and the thread entries, the cuts, and the block that a .cut has opened. -/
structure Pass where
  prev    : List (List Nat)
  sec     : Nat
  secs    : List (List Nat)
  syms    : List (String × SymAt)
  fixes   : List (Nat × Fix)
  globals : List String
  threads : List String
  cuts    : List CutText
  open_   : Option (List Tok × List (List Tok))
  deriving DecidableEq, Repr

def Pass.start (prev : List (List Nat)) : Pass :=
  { prev := prev, sec := 0, secs := [[], [], [], []], syms := [], fixes := [], globals := [], threads := [], cuts := [], open_ := none }

/-- The offset at which the next byte stands. -/
def Pass.here (p : Pass) : Nat := (p.secs.getD p.sec []).length

/-- Bytes appended to the current section. -/
def Pass.emit (p : Pass) (bs : List Nat) : Pass := { p with secs := p.secs.set p.sec (p.secs.getD p.sec [] ++ bs) }
/-- n zero bytes. -/
def Pass.space (p : Pass) (n : Nat) : Pass := p.emit (List.replicate n 0)
/-- The current section padded with zero bytes to a multiple of n. -/
def Pass.pad (p : Pass) (n : Nat) : Pass := if n = 0 then p else p.space ((n - p.here % n) % n)

/-- The n bytes of a number, least significant first. -/
def leBytes : Nat → Nat → List Nat
  | 0, _ => []
  | n + 1, v => v % 256 :: leBytes n (v / 256)

/-- A symbol defined; a second definition is an error (Table 15-11). -/
def Pass.define (p : Pass) (s : String) (v : SymAt) : Asm Pass := do
  need (!p.syms.any (fun x => x.1 == s)) ("symbol defined twice: " ++ s)
  .ok { p with syms := p.syms ++ [(s, v)] }

/-- Where sections begin: the image's in it, .svc in its own segment. -/
def secBase (secs : List (List Nat)) (sec : Nat) : Nat :=
  let ro := up16K (secs.getD 0 []).length
  if sec = 1 then ro else if sec = 2 then up16K (ro + (secs.getD 1 []).length) else 0

/-- A label's address, with whose load address it takes. -/
def addrIn (secs : List (List Nat)) (sec off : Nat) : Num :=
  if sec = 3 then { v := off, svc := 1 } else { v := (secBase secs sec + off : Nat), img := 1 }

/-- The symbols that a pass has found, for the next one. -/
def Pass.names (p : Pass) (strict : Bool) : Syms :=
  { strict := strict, tab := p.syms.map (fun x => (x.1, match x.2 with
      | .at_ sec off => addrIn p.secs sec off
      | .val n => n)) }

/-- A value of n bytes emitted, with its relocation. -/
def Pass.value (p : Pass) (n : Nat) (x : Num) : Asm Pass := do
  let v ← efield (8 * n) x.v
  let fs ← fixFor (p.sec == 3) p.here 0 (8 * n) 1 x
  .ok { p.emit (leBytes n v) with fixes := p.fixes ++ fs.map (fun f => (p.sec, f)) }

def Pass.values (p : Pass) (n : Nat) : List Num → Asm Pass
  | [] => .ok p
  | x :: r => do (← p.value n x).values n r

/-! ## Descriptors -/

/-- A field of a descriptor: its key, its doubleword, its bits, and whether it holds an address whose low bits are 0. -/
abbrev DescField := String × Nat × Nat × Nat × Bool

/-- Table 04-7, by the keys of .task; msi, sig and succ set two fields each. -/
def taskFields : List DescField := [
  ("asid", 0, 63, 48, false), ("deps", 0, 39, 32, false), ("nthr", 0, 31, 20, false), ("msi", 0, 18, 8, false),
  ("barrier", 0, 2, 2, false), ("kind", 0, 1, 0, false), ("cut", 1, 55, 6, true), ("entry", 2, 55, 2, true),
  ("arg", 3, 63, 0, true), ("sig", 4, 55, 3, true), ("sigval", 5, 63, 0, true), ("res", 7, 55, 3, true)]

/-- Table 18-6. index is the doubleword that holds the address or the identifier of the indices of a gather. -/
def streamFields : List DescField := [
  ("gather", 0, 59, 59, false), ("drain", 0, 58, 58, false), ("idxmem", 0, 57, 57, false), ("class", 0, 56, 54, false),
  ("esz", 0, 53, 51, false), ("cmask", 0, 50, 47, false), ("pfd", 0, 46, 36, false), ("markint", 0, 23, 0, false),
  ("base", 1, 55, 0, true), ("qid", 2, 63, 0, true), ("count0", 3, 31, 0, false), ("count1", 3, 63, 32, false),
  ("count2", 4, 31, 0, false), ("count3", 4, 63, 32, false), ("stride0", 5, 31, 0, false), ("stride1", 5, 63, 32, false),
  ("index", 5, 63, 0, true), ("stride2", 6, 31, 0, false), ("stride3", 6, 63, 32, false), ("craddr", 7, 55, 5, true)]

/-- Table 18-8. -/
def copyFields : List DescField := [
  ("class", 0, 59, 57, false), ("role", 0, 56, 55, false), ("op", 0, 54, 52, false), ("fmt", 0, 51, 46, false),
  ("sat", 0, 45, 45, false), ("side", 0, 44, 44, false), ("retry", 0, 43, 40, false), ("peer", 0, 39, 30, false),
  ("sslot", 0, 29, 18, false), ("src", 1, 55, 0, true), ("dst", 2, 55, 0, true), ("opnd", 3, 55, 0, true),
  ("len", 4, 39, 0, true), ("craddr", 5, 55, 5, true), ("next", 7, 55, 6, true)]

/-- Table 18-9. -/
def commandFields : List DescField := [("entry", 1, 55, 2, true), ("arg", 2, 63, 0, true)]

/-- The group block of Table 05-2. -/
def groupFields : List DescField := [
  ("nbrg", 0, 15, 8, false), ("mustdie", 0, 3, 3, false), ("prot", 0, 2, 2, false), ("ncutm1", 0, 1, 0, false),
  ("brgptr", 1, 55, 4, true), ("bordptr", 2, 55, 4, true), ("nbord", 3, 7, 0, false)]

/-- A cut entry of Table 05-2, that of cut c under keys that end in c. -/
def cutFields (c : Nat) : List DescField :=
  let k := fun (s : String) => s ++ toString c
  let d := fun (n : Nat) => 8 + 8 * c + n
  [(k "nthr", d 0, 43, 32, false), (k "die", d 0, 13, 12, false), (k "hm1", d 0, 11, 8, false), (k "wm1", d 0, 7, 4, false),
   (k "entry", d 1, 55, 2, true), (k "cfgptr", d 2, 55, 6, true), (k "qstore", d 3, 44, 32, false),
   (k "cfglen", d 3, 23, 0, false), (k "facptr", d 4, 55, 4, true)]

/-- The kinds of .desc: the bits that the kind itself sets in doubleword 0 (CTYPE), and the fields. -/
def descKinds : List (String × Nat × List DescField) := [
  ("stream", 1 * 2 ^ 60, streamFields), ("copy", 2 * 2 ^ 60, copyFields), ("command", 3 * 2 ^ 60, commandFields),
  ("cutgroup", 0, groupFields ++ (List.range 4).flatMap cutFields)]

/-- A value put into a doubleword. -/
def putField (ds : List Num) (dw lo : Nat) (x : Num) : List Num :=
  let old := ds.getD dw { v := 0 }
  ds.set dw { v := old.v + x.v * (2 ^ lo : Nat), img := old.img + x.img, svc := old.svc + x.svc }

/-- One key of a descriptor given its value. -/
def descField (f : DescField) (ds : List Num) (x : Num) : Asm (List Num) := do
  let (_, dw, hi, lo, addr) := f
  if addr then do
    let v ← (if hi = 63 then efield 64 x.v else ufield (hi + 1) x.v)
    need (v % 2 ^ lo == 0) "an address that is not aligned"
    .ok (putField ds dw 0 { x with v := v })
  else do
    need x.plain "a label in a field that is no address"
    let n := hi - lo + 1
    let v ← (if n = 32 then efield 32 x.v else ufield n x.v)
    .ok (putField ds dw lo { v := v })

/-- The value of a key: an expression, or the name of a format. -/
def descValue (e : Syms) (k : String) (ts : List Tok) : Asm Num :=
  match k, ts with
  | "fmt", [.id s] => do .ok { v := (← nameIn fmtNames s : Nat) }
  | _, _ => exprOf e ts

/-- The keys of a descriptor, in the order of the text; the three keys of .task that set two fields are taken here. -/
def descKeys (e : Syms) (fs : List DescField) (task : Bool) (ds : List Num) : List (String × List Tok) → Asm (List Num)
  | [] => .ok ds
  | (k, ts) :: r => do
    need (!r.any (fun x => x.1 == k)) "a key given twice"
    if task && k == "succ" then do
      let (a, l) ← exprHead e ts
      let n ← match l with
        | .sym ":" :: l => uexpr e 6 l
        | _ => (.error "succ=list:count expected" : Asm Nat)
      let ds ← descField ("succ", 6, 55, 6, true) ds a
      descKeys e fs task (putField ds 6 0 { v := n }) r
    else match fs.find? (fun f => f.1 == k) with
      | none => .error ("unknown key " ++ k)
      | some f => do
        let ds ← descField f ds (← descValue e k ts)
        let ds := if task && k == "msi" then putField ds 0 4 { v := 1 } else if task && k == "sig" then putField ds 0 3 { v := 1 } else ds
        descKeys e fs task ds r

/-- A descriptor of n doublewords, aligned to 64 bytes, under a name. -/
def Pass.descriptor (p : Pass) (e : Syms) (name : String) (fs : List DescField) (task : Bool) (top n : Nat) (r : List Tok) : Asm Pass := do
  let l := cutLine r
  need (l.bare.isEmpty && l.dest.isEmpty) "key=value expected"
  let ds ← descKeys e fs task ((List.replicate n { v := 0 }).set 0 { v := top }) l.keys
  let p := p.pad 64
  let p ← p.define name (.at_ p.sec p.here)
  p.values 8 (ds.map (fun x => { x with v := sintOf (x.v % ((2 ^ 64 : Nat) : Int)).toNat 64 }))

/-! ## Statements (Table 15-11) -/

/-- A number of bytes in a directive. -/
def Pass.count (e : Syms) (ts : List Tok) : Asm Nat := do
  let i ← plainOf { e with strict := true } ts
  ufield 32 i

/-- The sizes of the data directives. -/
def dataSizes : List (String × Nat) := [(".byte", 1), (".half", 2), (".word", 4), (".dword", 8), (".quad", 16)]
def secNames : List (String × Nat) := [(".text", 0), (".rodata", 1), (".data", 2), (".svc", 3)]

/-- The symbols of earlier passes, with the values that .equ has given in this one. -/
def Pass.env (p : Pass) (e : Syms) : Syms :=
  { e with tab := p.syms.filterMap (fun x => match x.2 with | .val n => some (x.1, n) | .at_ .. => none) ++ e.tab }

/-- A directive. -/
def Pass.directive (p : Pass) (e : Syms) (d : String) (r : List Tok) : Asm Pass :=
  match secNames.find? (fun x => x.1 == d), dataSizes.find? (fun x => x.1 == d) with
  | some x, _ => do need r.isEmpty "operand of a section"; .ok { p with sec := x.2 }
  | none, some x => do
    let vs ← asmAll (exprOf e) (operandsOf r)
    p.values x.2 vs
  | none, none =>
    match d, r with
    | ".align", r => do
      let n ← Pass.count e r
      need (n != 0 && n == 2 ^ Nat.log2 n) "a power of two expected"
      .ok (p.pad n)
    | ".space", r => do .ok (p.space (← Pass.count e r))
    | ".equ", .id s :: .sym "," :: r => do p.define s (.val (← exprOf e r))
    | ".global", [.id s] => .ok { p with globals := p.globals ++ [s] }
    | ".thread", [.id s] => .ok { p with threads := p.threads ++ [s] }
    | ".task", .id s :: r => p.descriptor e s taskFields true 0 8 r
    | ".desc", .id k :: .id s :: r => do
      let (top, fs) ← nameIn descKinds k
      let cuts := match (cutLine r).get "ncutm1" with | some ts => (match uexpr e 2 ts with | .ok n => n + 1 | .error _ => 1) | none => 1
      p.descriptor e s fs false top (if k == "cutgroup" then 8 + 8 * cuts else 8) r
    | ".cut", r => .ok { p with open_ := some (r, []) }
    | _, _ => .error ("unknown directive " ++ d)

/-- A block that .endcut closes: its stream, and its facet-need table on the next 16-byte boundary. -/
def Pass.closeCut (p : Pass) (e : Syms) (head : List Tok) (body : List (List Tok)) : Asm Pass := do
  let (c, ws, ns) ← cutBlock e head body
  let p ← p.values 4 (ws.map (fun w => { w with v := w.v }))
  let p := p.pad 16
  let p ← p.values 8 (ns.flatMap (fun x => [Num.of x.1, Num.of x.2]))
  .ok { p with cuts := p.cuts ++ [c], open_ := none }

/-- A statement without its label. -/
def Pass.statement (p : Pass) (e : Syms) (ts : List Tok) : Asm Pass :=
  match ts with
  | [] => .ok p
  | .id s :: r =>
    if s.toList.head? = some '.' then p.directive e s r
    else if e.strict then do
      need (p.here % 4 == 0) "an instruction that is not word-aligned"
      let (w, fs) ← codeWord e (p.sec == 3) p.here (addrIn p.prev p.sec p.here) s (operandsOf r)
      .ok { p.emit (leBytes 4 w) with fixes := p.fixes ++ fs.map (fun f => (p.sec, f)) }
    else .ok (p.space 4)
  | _ => .error "statement expected"

/-- A line: at most one label and at most one statement (R325); lines between .cut and .endcut are kept for the block. -/
def Pass.line (p : Pass) (e : Syms) (ts : List Tok) : Asm Pass :=
  match p.open_ with
  | some (h, body) =>
    if ts = [.id ".endcut"] then p.closeCut (p.env e) h body else .ok { p with open_ := some (h, body ++ [ts]) }
  | none =>
    match ts with
    | .id s :: .sym ":" :: r => do
      need (s.toList.head? != some '.') "label"
      (← p.define s (.at_ p.sec p.here)).statement (p.env e) r
    | _ => p.statement (p.env e) ts

def Pass.lines (p : Pass) (e : Syms) : List (List Tok) → Asm Pass
  | [] => .ok p
  | l :: r => do (← p.line e l).lines e r

/-- The text of a file, with every .include of it replaced by the file's lines; fuel bounds the depth. -/
def expandLines (files : List (String × List String)) : Nat → List String → Asm (List (List Tok))
  | 0, _ => .error "too many nested .include"
  | n + 1, ls => do
    let parts ← asmAll (fun s => do
      let ts ← lexText s
      match ts with
      | [.id ".include", .str f] => do expandLines files n (← nameIn files f)
      | _ => .ok [ts]) ls
    .ok parts.flatten

/-- The image of a finished pass: a thread entry is word-aligned in .text, and every global symbol is defined. -/
def Pass.image (p : Pass) : Asm UImage := do
  need p.open_.isNone "a .cut without its .endcut"
  let e := p.names true
  let gs ← asmAll (fun s => do .ok (s, ← e.find s)) p.globals
  let ths ← asmAll (fun s => do
    match p.syms.find? (fun x => x.1 == s) with
    | some (_, .at_ 0 off) => do need (off % 4 == 0) "a thread entry that is not word-aligned"; (.ok (s, off) : Asm (String × Nat))
    | _ => .error "a thread entry outside .text") p.threads
  .ok { text := p.secs.getD 0 [], rodata := p.secs.getD 1 [], data := p.secs.getD 2 [], svc := p.secs.getD 3 [],
        fixes := p.fixes.map (fun x => { x.2 with off := secBase p.secs x.1 + x.2.off }), globals := gs, threads := ths, cuts := p.cuts }

/-- The .equ symbols whose expressions need no label, n rounds over the lines. -/
def equRounds (ls : List (List Tok)) : Nat → List (String × Num) → List (String × Num)
  | 0, t => t
  | n + 1, t => equRounds ls n (ls.foldl (fun t l =>
      match l with
      | .id ".equ" :: .id s :: .sym "," :: r =>
        if t.any (fun x => x.1 == s) then t
        else match exprOf { strict := true, tab := t } r with
          | .ok v => (s, v) :: t
          | .error _ => t
      | _ => t) t)

/-- umas: the image of a program given as the lines of its text and the files that it includes, or the error that it reports.
The first pass finds the sizes, the second the values of .equ symbols, the third writes the image. -/
def umas (files : List (String × List String)) (src : List String) : Asm UImage := do
  let ls ← expandLines files (files.length + 1) src
  let p1 ← (Pass.start []).lines { strict := false, tab := equRounds ls 4 [] } ls
  let p2 ← (Pass.start p1.secs).lines (p1.names false) ls
  let p3 ← (Pass.start p1.secs).lines (p2.names true) ls
  need ((p3.names true).tab == (p2.names true).tab) "symbols that do not settle"
  p3.image

end Sys2Proof.Machine
end

