-- ==== Sys2Proof/Laws/Umas.lean ====
section
/-! SUPPORT. umas: it emits no illegal word, and its sections and descriptors stand where R328 and Table 15-11 put them. -/

namespace Sys2Proof.Machine

/-- A word that umas answers is the word of its instruction (15 R327). -/
theorem legalWord_decode {i : Instr} {w : Nat} (h : legalWord i = .ok w) : decode w = some i := by
  unfold legalWord at h
  split at h
  · split at h
    · rename_i hd; cases h; exact hd
    · cases h
  · cases h

/-- umas emits no illegal word (15 R327). -/
theorem codeWord_legal {e : Syms} {b : Bool} {off : Nat} {pc : Num} {mn : String} {ops : List (List Tok)} {w : Nat} {fs : List Fix}
    (h : codeWord e b off pc mn ops = .ok (w, fs)) : ∃ i, decode w = some i := by
  simp only [codeWord, bind, Except.bind] at h
  split at h
  · cases h
  · split at h
    · cases h
    · rename_i w' hw
      split at h
      · cases h
      · cases h
        exact ⟨_, legalWord_decode hw⟩

/-- The next multiple of 16 KiB is one, and no smaller. -/
theorem up16K_mod (n : Nat) : up16K n % 16384 = 0 := by simp [up16K]
theorem le_up16K (n : Nat) : n ≤ up16K n := by simp only [up16K]; omega

/-- Each section of an image starts on a 16 KiB boundary, and they stand in the order .text, .rodata, .data (15 R328). -/
theorem image_sections (m : UImage) : m.rodataAt % 16384 = 0 ∧ m.dataAt % 16384 = 0 ∧ m.text.length ≤ m.rodataAt ∧
    m.rodataAt + m.rodata.length ≤ m.dataAt :=
  ⟨up16K_mod _, up16K_mod _, le_up16K _, le_up16K _⟩

/-- Padding ends on a multiple (15 Table 15-11). -/
theorem pad_here (p : Pass) (n : Nat) (hn : 0 < n) (hs : p.sec < p.secs.length) : (p.pad n).here % n = 0 := by
  have h : (p.pad n).here = p.here + (n - p.here % n) % n := by
    simp [Pass.pad, Pass.space, Pass.emit, Pass.here, Nat.ne_of_gt hn, hs]
  rw [h]
  have h1 := Nat.mod_lt p.here hn
  have h2 := Nat.div_add_mod p.here n
  by_cases hz : p.here % n = 0
  · simp [hz]
  · rw [Nat.mod_eq_of_lt (a := n - p.here % n) (by omega)]
    have h3 : p.here + (n - p.here % n) = n * (p.here / n + 1) := by rw [Nat.mul_add, Nat.mul_one]; omega
    rw [h3, Nat.mul_mod_right]

end Sys2Proof.Machine
end

