-- ==== Sys2Proof/Laws/Words.lean ====
section
/-! SUPPORT. Residues: what a unit predicts is the residue of its result, and a single-bit error changes it (12 R249, R250). -/

namespace Sys2Proof.Machine

theorem predAdd_eq (n a b : Nat) : predAdd n (res7 a) (res7 b) ((a + b) / 2 ^ n) = res7 ((a + b) % 2 ^ n) := by
  unfold predAdd res7
  have h := Nat.div_add_mod (a + b) (2 ^ n)
  generalize (a + b) / 2 ^ n = c at *
  generalize (a + b) % 2 ^ n = r at *
  have h2 : (2 ^ n * c) % 7 = (c * (2 ^ n % 7)) % 7 := by rw [Nat.mul_comm, Nat.mul_mod c (2 ^ n), Nat.mul_mod c (2 ^ n % 7), Nat.mod_mod]
  generalize 2 ^ n * c = p at *
  generalize c * (2 ^ n % 7) = q at *
  omega

theorem predMul_eq (a b : Nat) : predMul (res7 a) (res7 b) = res7 (a * b) := (Nat.mul_mod a b 7).symm

theorem predShl_eq (n a k : Nat) : predShl n (res7 a) k (a * 2 ^ k / 2 ^ n) = res7 (a * 2 ^ k % 2 ^ n) := by
  unfold predShl res7
  have h := Nat.div_add_mod (a * 2 ^ k) (2 ^ n)
  have h3 : (a % 7 * 2 ^ k) % 7 = (a * 2 ^ k) % 7 := by rw [Nat.mul_mod, Nat.mod_mod, ← Nat.mul_mod]
  generalize a * 2 ^ k / 2 ^ n = c at *
  generalize a * 2 ^ k % 2 ^ n = r at *
  have h2 : (2 ^ n * c) % 7 = (c * (2 ^ n % 7)) % 7 := by rw [Nat.mul_comm, Nat.mul_mod c (2 ^ n), Nat.mul_mod c (2 ^ n % 7), Nat.mod_mod]
  generalize 2 ^ n * c = p at *
  generalize c * (2 ^ n % 7) = q at *
  generalize a % 7 * 2 ^ k = u at *
  generalize a * 2 ^ k = v at *
  omega

theorem and_add_or (n : Nat) : ∀ a b : Nat, a < 2 ^ n → b < 2 ^ n → (a &&& b) + (a ||| b) = a + b := by
  induction n with
  | zero => intro a b ha hb; have : a = 0 := by omega
            have : b = 0 := by omega
            subst_vars; rfl
  | succ n ih =>
    intro a b ha hb
    have := ih (a / 2) (b / 2) (by omega) (by omega)
    have h1 := Nat.div_add_mod (a &&& b) 2
    have h2 := Nat.div_add_mod (a ||| b) 2
    rw [Nat.and_div_two] at h1
    rw [Nat.or_div_two] at h2
    have m1 : (a &&& b) % 2 + (a ||| b) % 2 = a % 2 + b % 2 := by
      rw [show (a &&& b) % 2 = (a % 2 &&& b % 2) from by have := @Nat.and_mod_two_pow a b 1; simpa using this,
          show (a ||| b) % 2 = (a % 2 ||| b % 2) from by have := @Nat.or_mod_two_pow a b 1; simpa using this]
      rcases Nat.mod_two_eq_zero_or_one a with h | h <;> rcases Nat.mod_two_eq_zero_or_one b with h' | h' <;> simp [h, h']
    omega

theorem predId_eq (n a b : Nat) (ha : a < 2 ^ n) (hb : b < 2 ^ n) :
    res7 ((a &&& b) + (a ||| b)) = predId (res7 a) (res7 b) := by
  rw [and_add_or n a b ha hb]
  unfold predId res7
  omega

/-- A single-bit error changes the residue (12 R250). -/
theorem res7_bit (a k : Nat) : res7 (a + 2 ^ k) ≠ res7 a := by
  unfold res7
  have h : 2 ^ k % 7 = 1 ∨ 2 ^ k % 7 = 2 ∨ 2 ^ k % 7 = 4 := by
    induction k with
    | zero => simp
    | succ k ih => rw [Nat.pow_succ]; omega
  generalize 2 ^ k = p at h
  omega

end Sys2Proof.Machine
end

