-- ==== Sys2Proof/Tests/Slice0.lean ====
section
/-! SUPPORT. Tests: ill-formed terms that WellFormed refuses, words of the spec's encodings, one step of some
instructions with results worked out from the spec, and for every statement with hypotheses a state and operands that
meet them. -/

namespace Sys2Proof.Tests

open Sys2Proof.Machine

set_option Elab.async false

/-! ## States -/

/-- A package that has booted, its service region the first 64 GiB of the LPDDR of die 0. -/
def up : State := { State.reset with cycle := 5000, clock := 9, pkg := { Package.reset with
  devState := 6, svcBase := 0x100000000000, svcSize := 0x1000000000 } }

/-- A ready thread in a mode, with registers. -/
def thr (mode : Nat) (regs : List (Nat × Word)) : Slot :=
  { Slot.reset with st := .ready, tstat := field 0 2 mode, pc := 0x1000, regs := regs }

/-- A package in which slot k runs such a thread. -/
def onAt (k mode : Nat) (regs : List (Nat × Word)) : State := { up.setSlot k (thr mode regs) with cur := k }

/-- Slot 0 of core 0. -/
def on (mode : Nat) (regs : List (Nat × Word)) : State := onAt 0 mode regs

/-- A state after the word w is placed where the threads of these tests stand. -/
def withWord (s : State) (w : Nat) : State := { s with mem := Mem.writeN s.mem 0x1000 4 w }

/-- A state whose next turn is t. -/
def withTurn (s : State) (t : Turn) : State := { s with agenda := [t] }

/-- A state with doublewords in memory from an offset upward. -/
def withMem (s : State) (off : Nat) (ws : List Nat) : State := { s with mem := Mem.writeN s.mem off (8 * ws.length) (joinN 64 ws) }

/-- A state after a slot's record is changed. -/
def withSlot (s : State) (k : Nat) (f : Slot → Slot) : State := s.setSlot k (f (s.slot k))
def withCore (s : State) (c : Nat) (f : Core → Core) : State := s.setCore c (f (s.core c))
def withDie (s : State) (d : Nat) (f : Die → Die) : State := s.setDie d (f (s.die d))

/-- A load of a slot, and an entry of a buffer. -/
def load0 : OutLoad :=
  { seq := 0, dst := 31, size := 1, signed := true, cls := 0, path := 1, mt := 0, va := 0x507F, pa := 0x507F, epc := 0x1000,
    issued := 4990, isPf := false, tag := 0, fwd := [] }
def wcb0 : Wcb :=
  { slot := 4095, line := 0x141, bytes := lineBytes 60 0xA1B2C3D4 4, sts := [(0, 7)], mt := 0, merge := true, va := 0x507C,
    last := 4744, phase := 0, tag := 0, load := 0, wave := 0, mode := 2, force := false }

/-- A page table at 0x100000 whose one leaf, of 64 GiB, maps the addresses from 0 to themselves. -/
def mapped (s : State) (leaf : Nat) : State := withMem (withMem s 0x100000 [0x104003]) 0x104000 [leaf]

/-- A user thread in slot 0 with that table: the leaf allows everything and is accessed and dirty. -/
def user (regs : List (Nat × Word)) : State :=
  withSlot (withCore (mapped (on 0 regs) 0x1BD) 0 (fun c => { c with tlb1 := [{ asid := 0, va := 0, bits := 36, pa := 0, leaf := 0x1BD }] }))
    0 (fun x => { x with ptbase := 0x100000 })

/-! ## Well-formed instructions -/

/-- For each check of WellFormed a term that breaks it alone. -/
theorem test_ill_formed_is_refused :
    ([.add 32 0 0, .add 0 32 0, .add 0 0 32, .lea 0 0 0 4, .clz 32 0, .clz 0 32, .addi 0 0 65536, .slli 0 0 64, .lui 0 4 0,
      .lui 0 0 65536, .addpc 0 65536, .extr 0 0 64 0, .extr 0 0 0 64, .extru 0 0 1 63, .ins 0 0 32 32, .beq 32 0 0, .bgeu 0 0 65536,
      .jal 0x4000000, .jalr 32 0, .jalr 0 65536, .ldB 32 0 0 0 0, .ldD 0 32 0 0 0, .ldW 0 0 8 0 0, .ldHu 0 0 0 3 0,
      .ldBu 0 0 0 0 2048, .ldX 16 0 0 0 0, .stB 32 0 0 0 0, .stW 0 0 0 2 0, .stX 16 0 0 0 0, .pf 2 0 0 0 0, .pf 0 0 0 2 0,
      .amoAdd 0 0 0 4 0 0, .amoMax 0 0 0 0 5 0, .cas 0 0 0 0 0 2, .aincb 0 0 32 0 0 0, .adecz 0 0 0 5 0] : List Instr).all
      (fun i => !i.wf) = true := by decide

theorem test_ill_formed_is_refused_2 :
    ([.fenceAcq 6 0, .fenceRel 0 256, .fenceFull 7 0, .fencePersist 6 0, .l1inv 0, .l1inv 4, .dinv 32, .waitwNe 0 0 0 2,
      .waitwEq 32 0 0 0, .qpush 1 0 0 0 0, .qpush 0 0 16 0 0, .qpop 0 1 0 0 0, .qpeek 0 0 0 2 0, .qclasp 0 0 0 0 0, .qclasp 0 0 0 0 8,
      .qclasp 1 0 0 0 1, .qstat 0 0 4, .bqpop 0 0 0 64, .bqpop 0 0 2 0, .qbind 0 0 1 1, .strm 32 0, .strmwait 32, .strmkill 32,
      .copy 0 32, .cwait 32, .cpoll 32 0, .place 32 0, .sect 0 32, .mark 32, .cutwait 32, .release 32, .tqpush 32 0, .renq 0 32,
      .tspawn 0 0 32, .tresume 32, .trap 4096, .crr 0 8, .crr 32 0, .crw 0 0x12, .crs 0 0 0x41, .crc 0 0 0x190, .tlbinv 0 0 2 0,
      .tlbinv 0 0 0 5, .selftest 0 32] : List Instr).all (fun i => !i.wf) = true := by decide

/-! ## Words of the spec's encodings -/

/-- Tables 15-9 and 15-16. -/
theorem test_decode_formats :
    [0x04642800, 0x78A44002, 0x70C70800, 0x9865202B, 0x9865250B, 0x9C104800, 0xB0053080, 0xB0A02280, 0xB0C53100, 0x10810000,
     0x10C6FFFF, 0x44C0FFFC, 0xC8000030, 0x78E40000].map decode =
    [some (.add 3 4 5), some (.ldD 5 4 2 0 2), some (.ldW 6 7 0 1 0), some (.amoAdd 3 5 4 1 2 1), some (.aincb 3 5 4 0 2 1),
     some (.fenceAcq 2 9), some (.qpush 0 5 3 0 1), some (.qpop 5 0 2 0 1), some (.qpush 6 5 3 1 0), some (.addi 4 1 0),
     some (.addi 6 6 0xFFFF), some (.bne 6 0 0xFFFC), some .texit, some (.ldD 7 4 0 0 0)] := by decide

/-- Table 16-10. -/
theorem test_decode_integer :
    [0x18A0CDEF, 0x2CA189AB, 0x2CA24567, 0x2CA30123, 0x58000002, 0x34C50C1C, 0x34E54C1C, 0x34A0803C, 0x5C1F0000].map decode =
    [some (.ori 5 0 0xCDEF), some (.lui 5 1 0x89AB), some (.lui 5 2 0x4567), some (.lui 5 3 0x0123), some (.jal 2),
     some (.extr 6 5 12 7), some (.extru 7 5 12 7), some (.ins 5 0 0 15), some (.jalr 31 0)] := by decide

/-- Majors, fn and mod of Tables 15-2, 15-3 and 15-4, written out bit by bit: major, d, a, b, fn, mod. -/
theorem test_decode_bits :
    [0b00000111111111111111100000000000, 0b00000100001000100000000111110010,
     0b00101000001000100000000010111111, 0b00110000001000001000000000000000].map decode =
    [some (.add 31 31 31), some (.sextW 1 2), some (.srai 1 2 63), some (.addpc 1 0x8000)] ∧
    decode 0b00000100001000100001100110100011 = some (.lea 1 2 3 3) := by decide

/-- Table 17-8. -/
theorem test_decode_memory :
    [0x8C282000, 0x90C91002, 0x7CC40001, 0x94242001, 0x98652046, 0x986524F3, 0x9865058B, 0x9CA7F800, 0x9CD00000, 0xA0000003,
     0xA0051000, 0xA4853002].map decode =
    [some (.stD 1 8 1 0 0), some (.stX 3 9 0 1 2), some (.ldX 3 4 0 0 1), some (.pf 1 4 1 0 1), some (.amoAdd 3 5 4 2 1 0),
     some (.cas 3 5 4 3 4 1), some (.adecz 3 5 0 2 1), some (.fenceFull 4 255), some (.fencePersist 2 0), some (.l1inv 3),
     some (.dinv 5), some (.waitwNe 4 5 6 0)] := by decide

/-- Tables 18-4 and 18-15. -/
theorem test_decode_queues :
    [0xB0053C01, 0xB0003602, 0xB0E82380, 0xB1602200, 0xB0C02802, 0xB0E01A83, 0xC0860000, 0xC0040010, 0xC1090030, 0xC0A80050,
     0xC54B0000, 0xC40C6810, 0xC5C00020, 0xC40A0030, 0xC40A0040, 0xC8042800, 0xC8063810, 0xC8642820, 0xC8000040, 0xC8040050].map
      decode =
    [some (.qbind 5 3 0 1), some (.qclasp 0 3 0 0 2), some (.qpop 7 8 2 1 1), some (.qpop 11 0 2 0 0), some (.qstat 6 2 2),
     some (.bqpop 7 1 1 3), some (.strm 4 6), some (.strmwait 4), some (.copy 8 9), some (.cpoll 5 8), some (.place 10 11),
     some (.sect 12 13), some (.mark 14), some (.cutwait 10), some (.release 10), some (.tqpush 4 5), some (.renq 6 7),
     some (.tspawn 3 4 5), some .yield, some (.tresume 4)] := by decide

/-- Table 19-7. -/
theorem test_decode_system :
    [0xF0000005, 0xF0202000, 0xF0402006, 0xF0053022, 0xF0C74000, 0xF0856008, 0xF0648000].map decode =
    [some (.trap 5), some (.crr 1 0), some (.crr 2 6), some (.crw 5 0x22), some (.crs 6 7 0), some (.tlbinv 4 5 1 0),
     some (.selftest 3 4)] := by decide

/-- R323: unassigned majors, reserved values, fields that must be 0, odd registers. -/
theorem test_illegal_words :
    [0, 0xB0000E00, 0x70C71800, 0x04642A20, 0x7CE40001, 0x0C000000, 0xFC000000, 0xF0200005, 0x98652028, 0xA0000000].map
      decode = [none, none, none, none, none, none, none, none, none, none] := by decide

/-! ## Statements: the hypotheses are met -/

theorem witness_DecodeEncode :
    (Instr.add 31 0 31).wf = true ∧ encode (.add 31 0 31) = some 0x07E0F800 ∧
    (Instr.trap 4095).wf = true ∧ encode (.trap 4095) = some 0xF0000FFF := by decide

theorem witness_EncodeDecode : 0xFFFFFFFF < 2 ^ 32 ∧ decode 0xF0000FFF = some (.trap 4095) := by decide

/-- An agenda of one turn that issues slot 15 of core 255, one of an event, and one after two issues of the cycle. -/
theorem witness_StepRunsDecoded :
    let t : Turn := { core := 0, fab := 0, net := 0, act := .issue 255 15 }
    let u : Turn := { core := 1, fab := 0, net := 1, act := .event .occupancySweep }
    let s := withTurn (withWord (onAt 4095 2 []) 0x04642800) t
    let s1 := ({ s with agenda := [], clock := s.clock + 1 } : State).pass 0 0 0
    let q := s1.core 255
    (255 < 256 ∧ 15 < 16 ∧ q.issuedNow s1.cycle < 2 ∧ q.scanNow s1.cycle ≤ q.placeOf 15 ∧
      s1.issuable 255 (q.scanNow s1.cycle) (q.placeOf 15 - q.scanNow s1.cycle) = false ∧ s.agenda = t :: [] ∧
      (s1.ready (slotKey 255 15) (q.issuedNow s1.cycle)).2 = some 0x04642800 ∧ decode 0x04642800 = some (.add 3 4 5)) ∧
    (withTurn up u).agenda = u :: [] := by decide +kernel

theorem witness_StepRunsDecoded_third_issue :
    let t : Turn := { core := 0, fab := 0, net := 0, act := .issue 255 15 }
    let s := withCore (withTurn (withWord (onAt 4095 2 []) 0x04642800) t) 255 (fun c => { c with stamp := 5001, issued := 2 })
    let s1 := ({ s with agenda := [], clock := s.clock + 1 } : State).pass 0 0 0
    let r := s1.ready (slotKey 255 15) 2
    2 ≤ (s1.core 255).issuedNow s1.cycle ∧ (s1.core 255).issuedNow s1.cycle = 2 ∧ r.2 = some 0x04642800 ∧
      (match exec (.add 3 4 5) r.1 with
       | .next v => ((v.issuedBy (slotKey 255 15)).hasIssued r.1 (slotKey 255 15)).core 255
       | _ => Core.reset).issuedNow s1.cycle ≠ 2 := by decide +kernel

theorem witness_StepRunsBytesAtPc :
    let t : Turn := { core := 0, fab := 0, net := 0, act := .issue 255 15 }
    let s := withTurn (withWord (onAt 4095 2 []) 0x04642800) t
    let x := s.slot (slotKey 255 15)
    let q := s.core 255
    let s0 : State := { s with agenda := [], clock := s.clock + 1 }
    255 < 256 ∧ 15 < 16 ∧ s.agenda = t :: [] ∧ q.issuedNow s.cycle < 2 ∧ q.scanNow s.cycle ≤ q.placeOf 15 ∧
      s0.issuable 255 (q.scanNow s.cycle) (q.placeOf 15 - q.scanNow s.cycle) = false ∧
      x.st = .ready ∧ x.nextAt ≤ s.cycle ∧ x.mode = 2 ∧ x.sync = none ∧ x.fetched = none ∧ x.wait = .none ∧ x.outs = [] ∧
      x.pend = [] ∧ s.timerDue 4095 = false ∧ s.running = true ∧ s.testing x.load = false ∧
      s.place (x.pc.toNat % 2 ^ 56) = .dram 0 0x1000 ∧
      0x1000 = offOf (x.pc.toNat % 2 ^ 56) ∧ Tab.get none (s.core 255).l1i (lineOf 0x1000) = none ∧
      s.poisoned (x.pc.toNat % 2 ^ 56) = false ∧ s.mustSnoop (lineOf 0x1000) false = false ∧
      0x04642800 = Mem.readN s.mem 0x1000 4 ∧ decode 0x04642800 = some (.add 3 4 5) := by decide +kernel

theorem witness_IllegalWordTraps :
    let r := (withWord (on 2 []) 0xFFFFFFFF).ready 0 0
    r.2 = some 0xFFFFFFFF ∧ decode 0xFFFFFFFF = none ∧ r.1.issues [] [] = true := by decide +kernel

theorem witness_ThreeRegisterResults :
    let s := on 0 [(30, 0x8000000000000000), (31, 64)]
    s.issues [31, 30, 31] [(5, 0), (0, 1)] = true ∧ s.issues [0, 30, 31] [(5, 0), (1, 1)] = true ∧
      s.issues [31, 31, 30] [(5, 0), (0, 2)] = true := by decide +kernel

theorem witness_OneRegisterResults : (on 0 [(31, 0xFF)]).issues [31, 31] [(5, 0), (1, 2)] = true := by decide +kernel

theorem witness_BitCounts : 2 ^ 64 - 1 < 2 ^ 64 ∧ (2 ^ 64 - 1 ≠ 0) := by decide +kernel

theorem witness_ImmediateResults :
    let s := on 0 [(31, 1)]
    65535 < 65536 ∧ 63 < 64 ∧ s.issues [31, 0] [(5, 0), (0, 1)] = true ∧ s.issues [0, 31] [(5, 0), (0, 2)] = true ∧
      s.issues [31, 31] [(5, 0), (1, 1)] = true := by decide +kernel

theorem witness_FieldResults :
    let s := on 0 [(31, 1)]
    3 < 4 ∧ 65535 < 65536 ∧ 63 + 0 < 64 ∧ s.issues [31] [(5, 0), (1, 1)] = true ∧ s.issues [31] [(4, 1)] = true ∧
      s.issues [31, 0] [(5, 0), (1, 1)] = true := by decide +kernel

theorem witness_MultiplyDivideIssue :
    let s := on 0 [(31, 5)]
    s.issues [31, 0, 31] [(5, 0), (2, 1)] = true ∧ s.issues [0, 31, 0] [(5, 0), (3, 2)] = true := by decide +kernel

theorem witness_MultiplyDivideIssue_completes :
    let m : OutMul := { dst := 31, val := 7, done := 5000 }
    let s := withSlot up 4095 (fun x => { x with st := .ready, muls := [m] })
    (s.slot (slotKey 255 15)).muls = m :: [] ∧ m.done ≤ s.cycle ∧ (s.slot (slotKey 255 15)).sync = none := by decide +kernel

theorem witness_DivisionRules :
    let A : Word := 0x8000000000000000
    let s := on 0 [(1, A), (2, 0xFFFFFFFFFFFFFFFF), (3, 3)]
    (s.rg 2 ≠ 0 ∧ A.toInt = -2 ^ 63 ∧ (s.rg 2).toInt = -1) ∧ (s.rg 3 ≠ 0 ∧ ¬ (A.toInt = -2 ^ 63 ∧ (s.rg 3).toInt = -1)) ∧
      (0 < 64 ∧ 2 ^ (64 - 1) ≤ A.toInt.natAbs ∧ A.toInt.natAbs < 2 ^ 64) ∧ (0 = 0 ∧ (s.rg 0).toNat = 0) ∧
      s.issues [31, 1, 2] [(5, 0), (3, 2)] = true ∧ s.rg 1 = A := by decide +kernel

theorem witness_BranchesAndJumps :
    let s := on 0 [(31, 0x2000)]
    s.issues [31, 0] [(5, 0), (0, 2), (4, 1)] = true ∧ s.issues [31] [(4, 1)] = true ∧
      s.issues [31, 31] [(5, 0), (4, 1)] = true ∧ (s.rg 31 + 4 * sext64 0xFFFF 16).toNat % 4 = 0 := by decide +kernel

theorem witness_JalrMisaligned :
    let s := on 0 [(31, 0x2003)]
    s.issues [31, 31] [(5, 0), (4, 1)] = true ∧ (s.rg 31 + 4 * sext64 0xFFFF 16).toNat % 4 ≠ 0 := by decide +kernel

/-! Memory -/

/-- Base g29 at the last 16 bytes of a line, destination g30 and g31. -/
theorem witness_LoadsIssue :
    let s := on 2 [(29, 0x5070)]
    let ea := s.rg 29 + sext64 0x7FF 11 * BitVec.ofNat 64 16
    s.issues [29, 30, 30 + 1] [(5, 0), (4, 1), (6, 1)] = true ∧ s.outsOfCore s.myCore < 64 ∧ ea.toNat % 16 = 0 ∧
      s.touches ea 0 0x5060 0 0x5060 ∧
    s.issues [29, 0] [(5, 0), (4, 1), (6, 1)] = true ∧ (s.rg 29 + sext64 3 11 * BitVec.ofNat 64 1).toNat % 1 = 0 ∧
      s.touches (s.rg 29 + sext64 3 11 * BitVec.ofNat 64 1) 0 0x5073 0 0x5073 := by unfold State.touches; decide +kernel

/-- A load's destinations g30 and g31, and one of g31 alone. -/
theorem witness_LoadReturns :
    let e : OutLoad := { load0 with dst := 30, size := 16, signed := false, va := 0x5070, pa := 0x5070, cls := 7 }
    let f := load0
    let s := withSlot up 4095 (fun x => { x with st := .ready, outs := [e] })
    let r := withSlot up 4095 (fun x => { x with st := .ready, outs := [f] })
    ((s.slot (slotKey 255 15)).outs[0]? = some e ∧ e.tag = 0 ∧ e.isPf = false ∧ s.earlierLoad 4095 e = false ∧ e.mt ≠ 2 ∧
      s.place e.pa = .dram 0 (offOf e.pa) ∧ e.path = 1 ∧ e.fwd = [] ∧ s.mustSnoop (lineOf (offOf e.pa)) false = false ∧
      (s.slot 4095).sync = none ∧ 4095 < 4096 ∧ e.size = 16 ∧ s.poisoned e.pa = false) ∧
    ((r.slot (slotKey 255 15)).outs[0]? = some f ∧ r.earlierLoad 4095 f = false ∧ f.size ≠ 16) ∧
    (s.setPoison (lineOf (offOf e.pa)) true).poisoned e.pa = true := by decide +kernel

theorem witness_StoresEnterBuffer :
    let s := on 2 [(29, 0x5070), (31, 9)]
    let ea := s.rg 29 + sext64 0x7FF 11 * BitVec.ofNat 64 16
    s.issues [29, 30, 31] [(5, 0), (4, 1), (7, 1)] = true ∧ ea.toNat % 16 = 0 ∧ s.touches ea 1 0x5060 0 0x5060 ∧
      (∀ e ∈ (s.core s.myCore).wcb, e.slot ≠ s.cur) ∧ (s.core s.myCore).wcb.length < 16 ∧
      s.issues [29, 31] [(5, 0), (4, 1), (7, 1)] = true ∧
      s.touches (s.rg 29 + sext64 15 11 * BitVec.ofNat 64 1) 1 0x507F 0 0x507F := by unfold State.touches; decide +kernel

theorem witness_StorePerforms :
    let s := withCore (withSlot up 4095 (fun x => { x with st := .ready })) 255 (fun c => { c with wcb := [wcb0] })
    let e : Wcb := { wcb0 with phase := 1 }
    let t := withCore up 255 (fun c => { c with wcb := [e] })
    (wcb0.line * 64 < 2 ^ 58 ∧ (s.core 255).wcb[0]? = some wcb0 ∧ wcb0.phase = 0 ∧ s.wcbDue wcb0 = true ∧
      s.wcbMay 255 0 wcb0 = true) ∧
    ((t.core 255).wcb[0]? = some e ∧ e.phase = 1 ∧ e.tag = 0 ∧ t.running = true ∧ placeOf (e.line * 64) = .dram 0 0x5040 ∧
      t.conflicts none e.line = false ∧ e.load = 0 ∧ t.mustSnoop e.line true = false ∧ e.bytes = lineBytes 60 0xA1B2C3D4 4 ∧
      60 + 4 ≤ 64 ∧ (t.slot e.slot).sync = none) := by decide +kernel

theorem witness_PrefetchIssues :
    let s := on 2 [(31, 0x507F)]
    let ea := s.rg 31 + sext64 0x7FF 11 * 64
    let la := ea - BitVec.ofNat 64 (ea.toNat % 64)
    s.issues [31] [(5, 0), (4, 1)] = true ∧ s.outsOfCore s.myCore < 64 ∧ s.touches la 0 0x5000 0 0x5000 ∧ (0 ≠ 2) := by
  unfold State.touches; decide +kernel

/-- An address outside the virtual space, and a page that may be executed only. -/
theorem witness_PrefetchIssues_dropped :
    let s := withSlot (mapped (on 0 [(31, 0x5040), (30, 0xFFFFFFFFFFFFFFFF)]) 0x131) 0 (fun x => { x with ptbase := 0x100000 })
    let la := s.rg 31 + sext64 0x7FF 11 * 64
    s.xlate s.cur (s.rg 30 - 63) 0 = .fault 1 0 ∧ s.xlate s.cur la 0 = .miss ∧ (s.die (dieOfSlot s.cur)).walks = [] ∧
      s.doWalk (dieOfSlot s.cur) s.me.asidN s.me.ptbase la 0 s.me.mode = (s, .perm) := by decide +kernel

/-- An atomic at the last doubleword of a line, in user mode. -/
theorem witness_AtomicsPerform :
    let s := user [(31, 0x5078), (30, 5)]
    s.issues [31, 31, 30] [(5, 0), (4, 1), (7, 1)] = true ∧ s.issues [31, 31, 0] [(5, 0), (4, 1), (7, 1)] = true ∧
      s.me.wait = .none ∧ (s.rg 31).toNat % (64 / 8) = 0 ∧ s.touches (s.rg 31) 2 0x5078 0 0x5078 ∧
      s.allPerformed s.cur (ordRel 3 && decide (4 ≥ 2)) = true ∧ s.held (lineOf 0x5078) = none ∧
      s.conflicts none (lineOf 0x5078) = false := by unfold State.touches; decide +kernel

theorem witness_FencesComplete :
    let s := on 0 []
    let p := { s with pkg := { s.pkg with persist := 1 } }
    let f := withSlot up 4095 (fun x => { x with wait := .flush true })
    let g := p.setMe { p.me with dur := 1 }
    (g.issues [] [] = true ∧ g.maskedDone g.cur 255 5 = true ∧ g.me.wait = .none ∧ g.mt4Done g.cur = true ∧ g.me.dur = 1) ∧
    s.issues [] [] = true ∧ s.me.outs.all (fun o => o.isPf) = true ∧ s.maskedDone s.cur 255 5 = true ∧ s.me.wait = .none ∧
      s.mt4Done s.cur = true ∧ s.me.dur = 0 ∧ bit s.pkg.persist 0 = false ∧ p.mt4Done p.cur = true ∧ bit p.pkg.persist 0 = true ∧
      (f.slot (slotKey 255 15)).wait = .flush true := by decide +kernel

theorem witness_InvalidationsComplete :
    let s := on 2 [(31, 0xBFFFFFFFC0)]
    s.issues [] [] = true ∧ s.issues [31] [(5, 0), (4, 1)] = true ∧ s.touches (s.rg 31) 0 0xBFFFFFFFC0 0 0xBFFFFFFFC0 ∧
      s.allPerformed s.cur false = true := by unfold State.touches; decide +kernel

theorem witness_WaitwCompletes :
    let s := withMem (user [(31, 0x507C), (30, 0x100000007)]) 0x5078 [0x700000000]
    let n := 32
    let v := s.view s.cur 0x507C (n / 8)
    let w := withSlot up 4095 (fun x => { x with st := .blockedWait, wait := .word 5 5000 })
    s.issues [31, 31, 30] [(5, 0), (4, 1), (6, 1)] = true ∧ s.me.wait = .none ∧ s.me.outs = [] ∧ 0 ≠ 2 ∧
      (s.rg 31).toNat % (n / 8) = 0 ∧ s.touches (s.rg 31) 0 0x507C 0 0x507C ∧ s.mustSnoop (lineOf 0x507C) false = false ∧
      (v == (s.rg 30).toNat % 2 ^ n) = true ∧ (v == (s.rg 31).toNat % 2 ^ n) = false ∧
      (w.slot (slotKey 255 15)).st = .blockedWait ∧ (w.slot (slotKey 255 15)).wait = .word 5 5000 ∧ 5000 ≤ w.cycle := by
  unfold State.touches; decide +kernel

theorem witness_MisalignedAccessTraps :
    let s := on 2 [(29, 0x5078)]
    s.issues [29, 30, 31] [(5, 0), (4, 1), (6, 1)] = true ∧ s.issues [29, 31] [(5, 0), (4, 1), (7, 1)] = true ∧
      s.outsOfCore s.myCore < 64 ∧ (s.rg 29 + sext64 0x400 11 * BitVec.ofNat 64 16).toNat % 16 ≠ 0 := by decide +kernel

/-! Traps and system instructions -/

/-- Slot 15 of core 255 with the last frames of the service region, in a mode and at a level. -/
def trapper (mode level : Nat) : State :=
  { withCore (withSlot up 4095 (fun _ => { thr mode [(1, 0x11), (31, 0x77)] with
      tstat := field 0 2 mode ||| field 2 2 1 ||| field 4 2 1 ||| field 8 2 level ||| field 16 16 3 })) 255
    (fun c => { c with tfbase := 0x100FFFFFF000, tvec := 0x4000, mtvec := 0x8000 }) with cur := 4095 }

theorem witness_TrapEntrySavesState :
    [0, 1, 2].all (fun l => [0, 1, 2].all (fun m =>
      let s := trapper m l
      bits (s.slot 4095).tstat 8 2 == l && l != 3 &&
        s.inSvc (bits (s.core 255).tfbase 12 44 * 4096 + 256 * (4095 % 16) + 64 * l) 64)) = true := by decide +kernel

theorem witness_NestedFaultTrapsSlot :
    bits ((trapper 2 3).slot 4095).tstat 8 2 = 3 ∧ (on 0 []).inSvc (bits ((on 0 []).core 0).tfbase 12 44 * 4096 + 0) 64 = false ∧
      bit (up.msixD 3) 32 = true ∧ bit (({ up with msix := [(3, 0x55)] } : State).msixD 3) 32 = false ∧
      ((on 0 []).die 0).fqNet ≠ (on 0 []).net + 1 := by decide +kernel

theorem witness_TrapReturnRestores :
    let s := trapper 1 2
    let x := s.slot 4095
    bits x.tstat 8 2 ≠ 3 ∧ s.inSvc (bits (s.core 255).tfbase 12 44 * 4096 + 256 * 15 + 64 * 2) 64 = true ∧
      s.drained 4095 = true ∧ bits x.tstat 2 2 ≠ 3 ∧ bits x.tstat 0 2 ≠ 3 := by decide +kernel

theorem witness_SoftwareTrapIsTaken :
    let s := trapper 0 0
    s.issues [] [] = true ∧ s.me.settled = true ∧ s.drained s.cur = true ∧ s.mustSnoop (s.frameLine s.cur) true = false ∧
      4095 < 4096 := by decide +kernel

theorem witness_EretReturns :
    let s := trapper 2 3
    s.issues [1, 2, 30, 31] [] = true ∧ s.me.mode ≠ 0 ∧ bits s.me.tstat 8 2 ≠ 0 ∧ s.poisoned 0x100FFFFFFF80 = false ∧
      (∀ l ∈ s.eretLines, s.mustSnoop l false = false) ∧
      bits (s.core s.myCore).tfbase 12 44 * 4096 + 256 * (s.cur % 16) + 64 * (bits s.me.tstat 8 2 - 1) = 0x100FFFFFFF80 := by
  decide

/-- eret from level 2: the frame of level 1 is reloaded too. -/
theorem witness_EretReturns_level2 :
    let s := trapper 1 2
    let t := (s.enter 4095 0x13 0 0x1004 false 0)
    (∀ l ∈ t.eretLines, t.mustSnoop l false = false) ∧ bits t.me.tstat 8 2 = 3 ∧ t.me.mode ≠ 0 ∧ bits (t.viewD t.cur (0x100FFFFFFF80 + 24)) 8 2 = 2 := by decide +kernel

theorem witness_PrivilegedInstructionsTrap :
    let u := on 0 []
    let v := on 1 []
    (u.me.mode = 0 ∧ u.issues [1, 2, 30, 31] [] = true ∧ u.issues [31, 31] [(5, 0)] = true ∧ u.issues [] [] = true ∧
      u.issues [31] [(5, 0)] = true) ∧
    (bits v.me.tstat 8 2 = 0 ∧ v.issues [1, 2, 30, 31] [] = true) ∧ (v.me.mode ≠ 2 ∧ v.issues [31, 31] [(5, 0)] = true) ∧
    (crAccess 7 v.me.mode = 0 ∧ crAccess 0x112 u.me.mode = 0 ∧ v.issues [31, 0] [] = true) ∧
    (crAccess 6 v.me.mode ≠ 2 ∧ crAccess 0 u.me.mode ≠ 2 ∧ v.issues [31] [(5, 0)] = true) := by decide +kernel

theorem witness_ControlRegisterMoves :
    let u := on 0 []
    let m := on 2 []
    0x33 < 0x100 ∧ crAccess 0x20 u.me.mode ≠ 0 ∧ u.issues [31, 0] [] = true ∧ crAccess 7 m.me.mode = 2 ∧
      m.issues [31] [(5, 0)] = true ∧ m.issues [31, 31] [(5, 0)] = true := by decide +kernel

theorem witness_SystemInstructionsComplete :
    let v := on 1 []
    let p := withSlot v 0 (fun x => { x with pend := [{ cause := 0x16, tval := 1, src := 0 }] })
    let m := on 2 [(1, 0x0), (2, 0xF000000000000000)]
    let h := withSlot v 4095 (fun x => { x with outs := [load0] })
    (v.issues [31, 31] [(5, 0)] = true ∧ v.me.mode ≠ 0 ∧ 1 < 2 ∧ v.me.wait = .none ∧ v.pendingOf true (dieOfSlot v.cur) = [] ∧
      h.pendingOf false (dieOfSlot h.cur) = [] ∧ h.pendingOf true (dieOfSlot h.cur) ≠ []) ∧
    (v.issues [] [] = true ∧ (p.nextPend p.cur).isSome = true ∧ v.nextPend v.cur = none) ∧
    (m.issues [31, 1] [(5, 0)] = true ∧ m.me.mode = 2 ∧ m.me.wait = .none ∧ m.testPart (m.rg 2) = .inl 4 ∧
      m.testPart (m.rg 1) = .inr [0, 0, 0, 0]) := by decide +kernel

/-- A tlbinv that waits, a yield that holds its slot back and one that no longer does, and a self-test that ends. -/
theorem witness_SystemInstructionsComplete_waits :
    let w := withSlot (on 1 []) 0 (fun x => { x with wait := .inval [(7, 3)] })
    let y := withSlot (withSlot up 4095 (fun x => { x with st := .ready, wait := .yield 5016 [4080] })) 4080 (fun x => { x with st := .ready })
    let z := withSlot up 4095 (fun x => { x with st := .ready, wait := .yield 5000 [4080] })
    let e : Test := { id := 9, part := [1, 2, 3, 4], due := 0, inj := false, slot := some 4095, recAt := none, load := 0 }
    let t := { withSlot up 4095 (fun x => { x with st := .ready, wait := .test 9 }) with tests := [e] }
    ((w.me.wait = .inval [(7, 3)] ∧ ∀ p ∈ [(7, 3)], p ∉ w.pendingOf true 0)) ∧
    ((y.slot 4095).wait = .yield 5016 [4080] ∧ y.cycle < 5016 ∧ (y.slot 4080).st = .ready ∧ 4080 ∈ y.otherReady 4095) ∧
    ((z.slot 4095).wait = .yield 5000 [4080] ∧ 5000 ≤ z.cycle) ∧
    (t.tests.find? (fun t => t.id == e.id) = some e ∧ e.slot = some 4095 ∧ (t.slot 4095).wait = .test e.id ∧ t.running = true ∧
      e.part.headD 0 ≠ 0 ∧ t.fab ≥ e.due) := by decide +kernel

theorem witness_AsyncTrapsAreTaken :
    let p : Pend := { cause := 0x16, tval := 1, src := 0 }
    let q : Pend := { cause := 0x14, tval := 5000, src := 0 }
    let s := withSlot (trapper 0 0) 4095 (fun x => { x with pend := [{ p with cause := 0x17 }, p] })
    let r := withSlot (trapper 0 0) 4095 (fun x => { x with timecmp := 5000 })
    [(s, p), (r, q)].all (fun e =>
      let s := e.1
      let x := s.slot 4095
      x.st == .ready && x.sync == none && x.wait == .none && x.open_ && x.outs == [] && x.muls == [] && s.drained 4095 &&
        !(s.mustSnoop (s.frameLine 4095) true) && s.nextPend 4095 == some e.2 && e.2.src == 0) = true := by decide +kernel

theorem witness_ThreadsStartAndEnd :
    let s := on 0 [(30, 0xFFFFFFFFFFFFFFFC), (31, 9)]
    let full := { s with slots := (List.range 16).map (fun t => (t, thr 0 [(30, 0x2000)])) }
    let v := onAt 4095 1 [(31, 0x300000002)]
    (s.issues [31, 30, 31] [(5, 0)] = true ∧ (s.rg 30).toNat % 4 = 0 ∧ s.allPerformed s.cur false = true ∧
      s.freeSlots s.myCore s.me.asidN ≠ 0 ∧ s.lowSlot s.myCore = some 1 ∧ 1 ≠ s.cur) ∧
    (full.issues [31, 30, 31] [(5, 0)] = true ∧ (full.rg 30).toNat % 4 = 0 ∧ full.allPerformed full.cur false = true ∧
      full.freeSlots full.myCore full.me.asidN = 0) ∧
    (s.issues [] [] = true ∧ s.me.settled = true ∧ s.drained s.cur = true ∧ s.me.feedOf = 0 ∧ s.owned s.cur = []) ∧
    (v.issues [31] [(5, 0)] = true ∧ v.me.mode ≠ 0 ∧ v.allPerformed v.cur true = true) ∧ 3 < 4 ∧
    (let p := withSlot up 4095 (fun x => { x with st := .parked, parkDie := 3, parkSeq := 0xFFFFFFFF })
     (p.slot 4095).st = .parked ∧ (p.slot 4095).parkDie = 3 ∧ (p.slot 4095).parkSeq = 0xFFFFFFFF) := by decide +kernel

/-! Queues -/

/-- A link word with a payload, and one with a kind and level. -/
def word (v : Nat) : LW := mkWord (BitVec.ofNat 256 v) 0 0 0 0
def bare (kind level : Nat) : LW := mkWord 0 0 kind level 0

/-- Slot 0 with binding 15 of die queue 4,095 of 16 entries, holding words. -/
def queued (out branch : Bool) (ws : List LW) (regs : List (Nat × Word)) : State :=
  (withSlot (on 0 regs) 0 (fun x => { x with binds := [(15, some { key := 4095, qid := 0x40FFF, out := out, branch := branch, decthr := 0 })] })).setQueue
    4095 { Queue.none with live := true, bound := true, cap := 16, toks := ws.map (fun w => { w := w, set := [] }),
                           prods := if out then [15] else [], cons := if out then [] else [15] }

theorem witness_PushesAppend :
    let x : Bind := { key := 4095, qid := 0x40FFF, out := true, branch := false, decthr := 0 }
    let s := queued true false ((List.range 15).map word) [(31, 7)]
    let f := queued true false ((List.range 16).map word) [(31, 7)]
    s.issues [31, 31] [(5, 0), (7, 1)] = true ∧ s.issues [31] [(7, 1)] = true ∧ s.me.bind 15 = some x ∧ x.out = true ∧
      s.me.wait = .none ∧ s.me.st = .ready ∧ s.qFull x.key = false ∧ s.allPerformed s.cur true = true ∧
      f.me.bind 15 = some x ∧ f.qFull x.key = true ∧ bit f.me.qctl (3 * 15 + 1) = false := by decide +kernel

theorem witness_PopsTake :
    let x : Bind := { key := 4095, qid := 0x40FFF, out := false, branch := true, decthr := 0 }
    let s := queued false true [word 63] []
    let e := queued false true [] []
    s.me.bind 15 = some x ∧ x.out = false ∧ s.me.wait = .none ∧ s.me.st = .ready ∧ (s.queue x.key).mcast = false ∧
      s.tokenFor x.key (bindKey s.cur 15) (s.myOrder 15) = some 0 ∧ (s.queue x.key).toks[0]? = some { w := word 63, set := [] } ∧
      (word 63).poisoned = false ∧ (word 63).badResid = false ∧ s.issues [31, 31] [(6, 1)] = true ∧ s.issues [0, 31] [(6, 1)] = true ∧ x.branch = true ∧
      e.me.bind 15 = some x ∧ e.tokenFor x.key (bindKey e.cur 15) (e.myOrder 15) = none ∧
      e.tokenLater x.key (bindKey e.cur 15) (e.myOrder 15) = false ∧
      (let p := queued false true [{ word 0 with resid := poisonResid }] []
       p.tokenFor x.key (bindKey p.cur 15) (p.myOrder 15) = some 0 ∧
         ((p.queue x.key).toks[0]?.map (fun e => e.w.poisoned)) = some true) := by decide +kernel

theorem witness_QueueBindingsAndCounters :
    let s := on 0 [(30, 0x100FFF)]
    let b := queued false true [word 1] []
    let y := b.queue 4095
    let t := b.setQueue 4095 { y with lowAt := 4901, run := 0, armed := true, decthr := 0x6400000002, lod := 2 ^ 48 - 2 }
    (s.issues [0] [(5, 0)] = true ∧ s.rg 0 = 0) ∧
    (s.issues [30] [(5, 0)] = true ∧ s.rg 30 ≠ 0 ∧ qidLoad (s.rg 30) = 0 ∧ s.me.bind 15 = none ∧
      s.qidFault (s.rg 30) false s.me.asidN s.me.feedOf = none ∧ s.queue (queueKey 0 (s.rg 30) true) = Queue.none ∧
      keyIsCircuit (queueKey 0 (s.rg 30) true) = false ∧ qidCap (s.rg 30) * 64 ≤ s.freeCircuit (dieOfSlot s.cur)) ∧
    ((let t := withSlot s 0 (fun x => { x with regs := [(30, 0x10001)] })
      t.issues [30] [(5, 0)] = true ∧ t.rg 30 ≠ 0 ∧ ((t.unbind 0 15).qidFault (t.rg 30) false t.me.asidN t.me.feedOf).isSome = true)) ∧
    (b.issues [31] [] = true ∧ (b.me.bind 15).isSome = true ∧ b.me.bind 14 = none) ∧
    (bit (b.slot ((b.queue 4095).decBy / 16)).qctl 2 = false ∧ (b.queue 4095).decBy / 16 < 4096 ∧ (b.queue 4095).lowAt = 0 ∧
      (let r := withSlot t 0 (fun x => { x with qctl := 4 }); (t.queue 4095).decBy = 0 ∧ bit (r.slot 0).qctl 2 = true)) ∧
    (let y := t.queue 4095
     y.lowAt ≠ 0 ∧ y.armed = true ∧ bits y.decthr 32 32 ≤ y.run + (t.cycle + 1 - y.lowAt) ∧ y.lod < 2 ^ 48 - 1) := by decide +kernel

theorem witness_BlockedThreadsAndProbes :
    let s := withSlot (queued false true [] []) 0 (fun x => { x with st := .blockedQueue, wait := .queue 15, since := 0, blkthr := 5000 })
    let w := withSlot (queued false true [word 1] []) 0 (fun x => { x with st := .blockedQueue, wait := .queue 15, since := 0 })
    let e := withSlot s 0 (fun x => { x with wait := .engine 255 })
    let c := withSlot s 0 (fun x => { x with st := .blockedWait, wait := .cut 65535 })
    (w.me.st = .blockedQueue ∧ w.mayWake 0 = true ∧ s.mayWake 0 = false) ∧ (e.me.st = .blockedQueue ∧ e.me.wait = .engine 255) ∧
    (c.me.st = .blockedWait ∧ c.me.wait = .cut 65535 ∧ c.me.probed = false ∧ bits c.me.blkthr 0 32 ≠ 0) ∧
    (bits s.me.blkthr 0 32 ≠ 0 ∧ s.me.probed = false ∧ s.me.since + bits s.me.blkthr 0 32 ≤ s.cycle ∧ s.me.st = .blockedQueue ∧
      s.me.wait = .queue 15) := by decide +kernel

/-- Slot 0 waits on the empty queue whose producer is slot 1, which waits for its own part on another; a probe of slot 0. -/
def probed (back : Option (List (Nat × Nat))) (hops : Nat) : State :=
  let s := withSlot (queued false true [] []) 0 (fun x => { x with st := .blockedQueue, wait := .queue 15, since := 7 })
  let s := s.setQueue 4095 { s.queue 4095 with prods := [16] }
  let s := withSlot s 1 (fun _ => { thr 0 [] with st := .blockedQueue, wait := .queue 0, since := 9, binds := [(0, some { key := 4095, qid := 0x40FFF, out := true, branch := false, decthr := 0 })] })
  { s with probes := [{ id := 3, slot := 0, since := 7, wait := .queue 15, at_ := 0, hops := hops, paths := [[(0, s.mark 0)]], back := back }] }

theorem witness_BlockedThreadsAndProbes_hop :
    let s := probed none 4095
    let t := probed (some []) 9
    let o := { s with probes := s.probes.map (fun (p : Probe) => { p with slot := 1, since := 9, wait := .queue 0, paths := [[(0, 7), (1, 9)]] }) }
    let u := probed none 4096
    let v := probed (some [(0, 7)]) 9
    let w := probed (some [(1, 8)]) 9
    let p := s.probes.headD { id := 3, slot := 0, since := 7, wait := .none, at_ := 0, hops := 0, paths := [], back := none }
    let q := t.probes.headD p
    (s.running = true ∧ s.probes.find? (fun y => y.id == 3) = some p ∧ p.at_ ≠ s.net + 1 ∧ p.back = none ∧ p.hops < 4096 ∧
      p.paths = [[(p.slot, s.mark 0)]] ∧ s.waitsFor p.slot = [1] ∧ 1 ≠ p.slot ∧
      (s.extend p.slot [] [(p.slot, s.mark 0)]).2.1 = false ∧ (s.extend p.slot [] [(p.slot, s.mark 0)]).2.2 = []) ∧
    ((u.probes.headD p).hops ≥ 4096 ∧ (u.probes.headD p).back = none) ∧
    ((v.probes.headD p).back = some ((0, 7) :: []) ∧ v.mark 0 = 7 ∧ v.waitsFor 0 ≠ [] ∧
      (w.probes.headD p).back = some ((1, 8) :: []) ∧ w.mark 1 ≠ 8) ∧
    ((o.probes.headD p).paths = [[(0, 7), (1, 9)]] ∧ (o.extend (o.probes.headD p).slot [] [(0, 7), (1, 9)]).2.1 = true) ∧
    (t.probes.find? (fun y => y.id == 3) = some q ∧ q.at_ ≠ t.net + 1 ∧ q.back = some [] ∧ t.later q = false ∧
      (t.slot q.slot).since = q.since ∧ (t.slot q.slot).wait = q.wait ∧ (t.slot q.slot).st = .blockedQueue ∧
      (t.slot q.slot).wait = .queue 15 ∧ ((t.slot q.slot).bind 15).isSome = true) := by decide +kernel

/-! Engines -/

/-- A stream descriptor of elements of 2^esz bytes that walks n of them from an address, a copy descriptor and a thread
command, as doublewords. -/
def strmBlock (esz drain addr qid n cr : Nat) : List Nat :=
  [2 ^ 60 + esz * 2 ^ 51 + drain * 2 ^ 58, addr, qid, 2 ^ 32 + n, 2 ^ 32 + 1, 2 ^ esz, 0, cr]
def copyBlock (role peer src dst n : Nat) : List Nat := [2 * 2 ^ 60 + role * 2 ^ 55 + peer * 2 ^ 30, src, dst, 0, n, 0, 0, 0]
def thrBlock (entry : Nat) : List Nat := [3 * 2 ^ 60, entry, 9, 0, 0, 0, 0, 0]

/-- A command of slot 0 with a block. -/
def cmd (kind num : Nat) (ws : List Nat) : Cmd :=
  { kind := kind, num := num, blk := 0x6000, words := [ws.map (BitVec.ofNat 64)], asid := 0, ptb := 0x100000, mode := 0, by_ := 0,
    epc := 0x1000, insn := 0, load := 0, task := 0, wave := 0, dead := false }

/-- Slot 0 of a package whose second-level TLB maps the first 64 GiB to themselves; g31 holds the address of a block. -/
def eng (ws : List Nat) : State :=
  withDie (withMem (user [(31, 0x6000), (30, 255)]) 0x6000 ws) 0 (fun d => { d with tlb2 := [{ asid := 0, va := 0, bits := 36, pa := 0, leaf := 0x1BD }] })

def full (s : State) (c : Nat) : State := withCore s c (fun c => { c with engq := (List.range 64).map (fun i => cmd 1 i []) })

/-- The thread of eng reads the block that it names. -/
theorem witness_CommandsEnter_reads (ws : List Word)
    (h : ws = (splitN 64 ((eng (strmBlock 3 0 0x7000 0x40FFF 4 0)).view 0 0x6000 64) 8).map (BitVec.ofNat 64)) :
    (eng (strmBlock 3 0 0x7000 0x40FFF 4 0)).reads64 ((eng (strmBlock 3 0 0x7000 0x40FFF 4 0)).rg 31) ws :=
  ⟨by decide +kernel, 0x6000, 0, .dram 0x6000, by decide +kernel, by decide +kernel, by decide +kernel,
    by decide +kernel, by decide +kernel, by decide +kernel, by decide +kernel, h⟩

theorem witness_CommandsEnter :
    let s := eng (strmBlock 3 0 0x7000 0x40FFF 4 0)
    let ws := (strmBlock 3 0 0x7000 0x40FFF 4 0).map (BitVec.ofNat 64)
    let bad := eng (strmBlock 7 0 0x7000 0x40FFF 4 0)
    (s.issues [31, 31] [(5, 0), (4, 1), (6, 1)] = true ∧ (full s 0).engFull (full s 0).myCore = true ∧
      (full s 0).issues [31, 31] [(5, 0), (4, 1), (6, 1)] = true ∧ s.engFull s.myCore = false ∧
      ws = (splitN 64 (s.view 0 0x6000 64) 8).map (BitVec.ofNat 64) ∧
      s.streamFault (dieOfCore s.myCore) ws s.me.asid s.me.feedOf (s.rg 31) = none ∧
      (full s 0).streamFault 0 ws s.me.asid s.me.feedOf (s.rg 31) = none ∧
      ws = (splitN 64 ((full s 0).view 0 0x6000 64) 8).map (BitVec.ofNat 64) ∧
      (bad.streamFault 0 ((splitN 64 (bad.view 0 0x6000 64) 8).map (BitVec.ofNat 64)) bad.me.asid bad.me.feedOf (bad.rg 31)).isSome = true) ∧
    (s.issues [31, 30] [(5, 0)] = true ∧ (s.rg 30).toNat < 256 ∧ s.mappedOut 255 = false ∧ s.allPerformed s.cur true = true ∧
      (full s 255).engFull 255 = true ∧ s.engFull 255 = false ∧
      (withSlot s 0 (fun x => { x with regs := [(30, 256)] })).rg 30 ≥ 256) := by decide +kernel

/-- A chain of two copy descriptors. -/
def chain (next : Nat) : List Nat := (copyBlock 0 0 0x7000 0x8000 64).take 7 ++ [next]
def chain2 : State := eng (chain 0x6040 ++ copyBlock 0 0 0x7040 0x8040 64)
def chain2a : List Word := (splitN 64 (chain2.view 0 0x6000 64) 8).map (BitVec.ofNat 64)
def chain2b : List Word := (splitN 64 (chain2.view 0 0x6040 64) 8).map (BitVec.ofNat 64)

theorem witness_CommandsEnter_chain : chain2.readsChain (chain2.rg 31) [chain2a, chain2b] ∧ [chain2a, chain2b].length ≤ 64 := by
  refine ⟨⟨⟨by decide +kernel, 0x6000, 0, .dram 0x6000, by decide +kernel, by decide +kernel, by decide +kernel,
    by decide +kernel, by decide +kernel, by decide +kernel, by decide +kernel, rfl⟩, by decide +kernel, by decide +kernel, ?_⟩, by decide⟩
  rw [if_neg (by decide)]
  refine ⟨by decide +kernel, ⟨by decide +kernel, 0x6040, 0, .dram 0x6040, by decide +kernel, by decide +kernel, by decide +kernel,
    by decide +kernel, by decide +kernel, by decide +kernel, by decide +kernel, rfl⟩, by decide +kernel, by decide +kernel, ?_⟩
  rw [if_pos rfl]
  decide +kernel

/-- A handle of a command that has ended, and one of a command that waits. -/
theorem witness_CommandsEnter_handles :
    let s := withSlot (full (on 0 []) 0) 0 (fun x => { x with regs := [(30, handleOf 0 2 0xFFFFFFFF), (31, handleOf 0 1 63)] })
    s.issues [30] [(5, 0)] = true ∧ s.handleOk (s.rg 30) [2] = true ∧ s.cmdDone (s.rg 30) = true ∧
      s.issues [31] [(5, 0)] = true ∧ s.handleOk (s.rg 31) [1] = true ∧ s.cmdDone (s.rg 31) = false ∧
      s.issues [31, 31] [(5, 0)] = true ∧ s.handleOk (s.rg 31) [1, 2] = true ∧ s.handleOk (s.rg 30) [1] = false ∧
      s.handleOk (s.rg 29) [1, 2] = false := by decide +kernel

theorem witness_CommandsStart :
    let at_ := fun (m : Cmd) => withCore (eng []) 255 (fun c => { c with engq := [m] })
    let m := cmd 1 0xFFFFFFFF (strmBlock 5 0 0x7000 0x40FFF 4 0)
    let y := cmd 2 0 (copyBlock 0 0 0x7000 0x8000 64)
    let z := cmd 3 0 (thrBlock 0x2000)
    ((((at_ m).core 255).engq[0]? = some m ∧ (at_ m).cmdHeld m = false ∧ firstOf 1 0 ((at_ m).core 255).engq = some 0 ∧
      firstFree ((at_ m).core 255).streams 32 = some 0 ∧ m.kind = 1 ∧ m.dead = false ∧ (at_ m).startable 255 m = true ∧
      ((at_ m).dropCmd 255 0).joinable 255 m = true ∧ qidCfg (m.dw 0 2) = false ∧ bit (m.dw 0 0) 59 = false)) ∧
    (let d := { m with dead := true }
     ((at_ d).core 255).engq[0]? = some d ∧ firstOf 1 0 ((at_ d).core 255).engq = some 0 ∧ (at_ d).startable 255 d = true) ∧
    (let j := cmd 1 0 (strmBlock 5 0 0x7000 0x10001 4 0)
     ((at_ j).core 255).engq[0]? = some j ∧ (at_ j).startable 255 j = true ∧ ((at_ j).dropCmd 255 0).joinable 255 j = false ∧
       ((at_ j).context j.by_).st ≠ .free ∧ ((at_ j).context j.by_).pend.length < 14) ∧
    (((at_ y).core 255).engq[0]? = some y ∧ (at_ y).cmdHeld y = false ∧ firstOf 2 0 ((at_ y).core 255).engq = some 0 ∧
      firstFree ((at_ y).core 255).copies 128 = some 0 ∧ y.kind = 2) ∧
    (((at_ z).core 255).engq[0]? = some z ∧ (at_ z).cmdHeld z = false ∧ firstOf 3 0 ((at_ z).core 255).engq = some 0 ∧
      (at_ z).running = true ∧ (at_ z).freeSlots 255 (bits z.asid 0 16) ≠ 0 ∧ (at_ z).lowSlot 255 = some 4080) := by decide +kernel

/-- What renq entered: a thread command, a copy and a block of another kind. -/
theorem witness_CommandsStart_renq :
    let m := cmd 0 (2 ^ 32) []
    let at_ := fun (ws : List Nat) => withCore (eng ws) 0 (fun c => { c with engq := [m] })
    let v := fun (ws : List Nat) => joinN 64 ws
    let ok := fun (ws : List Nat) => ((at_ ws).core 0).engq[0]? == some m && !(at_ ws).cmdHeld m && firstOf 0 0 ((at_ ws).core 0).engq == some 0 &&
      !(((at_ ws).core 0).engq.take 0).any (fun p => (at_ ws).startable 0 p) && aligned m.blk 64 &&
      (at_ ws).engLine 0 eidQueue m m.blk == (at_ ws, .data (v ws) false)
    let dw := fun (ws : List Nat) => (splitN 64 (v ws) 8).map (BitVec.ofNat 64)
    ok (thrBlock 0x2000) = true ∧ threadOk (dw (thrBlock 0x2000)) = true ∧
      ok (copyBlock 0 0 0x7000 0x8000 64) = true ∧ copyOk (dw (copyBlock 0 0 0x7000 0x8000 64)) up.pkg.pkgNo = true ∧
      copyOverlaps (dw (copyBlock 0 0 0x7000 0x8000 64)) = false ∧ nextOf (dw (copyBlock 0 0 0x7000 0x8000 64)) = 0 ∧
      ok [5, 0, 0, 0, 0, 0, 0, 1] = true ∧ ctypeOf (dw [5, 0, 0, 0, 0, 0, 0, 1]) = 0 ∧ threadOk (dw [5, 0, 0, 0, 0, 0, 0, 1]) = false ∧
      ((eng []).context m.by_).st ≠ .free ∧ ((eng []).context m.by_).pend.length < 14 ∧
      ok (strmBlock 3 0 0x7000 0x40FFF 4 0) = true ∧ ctypeOf (dw (strmBlock 3 0 0x7000 0x40FFF 4 0)) = 1 ∧
      (at_ []).streamFault 0 (dw (strmBlock 3 0 0x7000 0x40FFF 4 0)) m.asid m.load m.blk = none ∧
      ok (strmBlock 3 0 0x7000 0x10001 4 0) = true ∧ (at_ []).streamFault 0 (dw (strmBlock 3 0 0x7000 0x10001 4 0)) m.asid m.load m.blk ≠ none ∧
      ok (copyBlock 0 0 0x7000 0x7000 64) = true ∧ copyOverlaps (dw (copyBlock 0 0 0x7000 0x7000 64)) = true ∧
      aligned ({ m with blk := 0x6020 } : Cmd).blk 64 = false := by decide +kernel

/-- A chain that renq entered and that is read whole, and one whose second block is no copy. -/
theorem witness_CommandsStart_chains :
    let m := cmd 0 (2 ^ 32) []
    let at_ := fun (b : List Nat) => withCore (eng (chain 0x6040 ++ b)) 0 (fun c => { c with engq := [m] })
    let ws := chain2a
    nextOf ws ≠ 0 ∧ copyOk ws up.pkg.pkgNo = true ∧ copyOverlaps ws = false ∧
      ((at_ (copyBlock 0 0 0x7040 0x8040 64)).engChain 0 m (nextOf ws) [ws] 64).2 = some (some [chain2a, chain2b]) ∧
      ((at_ (copyBlock 0 0 0x7040 0x8040 64)).engChain 0 m (nextOf ws) [ws] 64).1 = at_ (copyBlock 0 0 0x7040 0x8040 64) ∧
      (at_ (thrBlock 0)).engChain 0 m (nextOf ws) [ws] 64 = (at_ (thrBlock 0), some none) := by decide +kernel

/-- A stream of core 0. -/
def strm0 : Stream :=
  { cmd := cmd 1 0 [], st := 1, status := 0, pos := 0, buf := [], lines := [], part := [], outw := [], key := 4095, ikey := 0, emptyAt := 0,
    emptyC := 0, idxAt := 0, idx := [], idxNext := 0, held := [], fault := none, parkSeq := 0, parkDie := 0, resumed := false,
    fetched := 0, consumed := 0, late := 0, dropped := 0, config := [], marked := 0, markPos := [], markHist := [], drained := false,
    ahead := false }

/-- A package in which stream 31 of core 0 stands on die queue 4,095 of 16 entries that holds words. -/
def streaming (x : Stream) (ws : List LW) : State :=
  (withCore (withDie (eng []) 0 (fun d => { d with fqbase := 0x100000001001 })) 0 (fun c => { c with streams := Tab.set none [] 31 (some x) })).setQueue 4095
    { Queue.none with live := true, bound := true, cap := 16, toks := ws.map (fun w => { w := w, set := [] }),
                      prods := if x.drain then [] else [streamKey 0 31], cons := if x.drain then [streamKey 0 31] else [] }

/-- A stream under way that strmkill stops, and one that has delivered all it had to. -/
theorem witness_CommandsEnter_kill :
    let x := { strm0 with cmd := cmd 1 0 (strmBlock 5 0 0x7020 0x40FFF 1 0) }
    let y := { x with pos := 1 }
    let s := streaming x []
    let t := streaming y []
    s.stream 0 31 = some x ∧ s.killable 0 31 x = true ∧ t.stream 0 31 = some y ∧ t.killable 0 31 y = false := by decide +kernel

theorem witness_StreamsMove_line :
    let x := { strm0 with cmd := cmd 1 0 (strmBlock 5 0 0x7020 0x40FFF 1 0) }
    let s := streaming x ((List.range 15).map word)
    s.stream 0 31 = some x ∧ s.testing x.cmd.load = false ∧ x.st = 1 ∧ x.drain = false ∧ x.gather = false ∧ qidCfg x.qid = false ∧
      x.fault = none ∧ x.drained = false ∧ x.total = x.pos + 1 ∧ x.buf = [] ∧ x.lines = [] ∧ x.part = [] ∧ x.outw = [] ∧ x.markPos = [] ∧
      x.clasps x.pos = [] ∧ s.askedFor 0 31 x x.pos = false ∧ s.mayFetch 0 31 x x.pos = true ∧ (x.addr x.pos 0).toNat % 64 + x.esz ≤ 64 ∧ s.qFull x.key = false ∧
      x.pos ≤ 0 ∧ 0 < x.limit ∧ x.addrOf 0 = some (x.addr x.pos 0) ∧
      s.engLine 0 (eidStream 31) x.cmd (x.addr x.pos 0) = (s, .data 0 false) := by decide +kernel

theorem witness_StreamsMove_drain :
    let x := { strm0 with cmd := cmd 1 0 (strmBlock 3 1 0x7038 0x40FFF 1 0) }
    let y := { x with held := [{ val := 2 ^ 64 - 1, pois := false }] }
    let s := streaming x [bare kNull 0]
    let t := streaming y []
    (s.stream 0 31 = some x ∧ s.testing x.cmd.load = false ∧ x.drain = true ∧ x.st = 1 ∧ x.fault = none ∧ x.drained = false ∧
      x.pos < x.total ∧ x.held = [] ∧ x.emptyAt = 0 ∧ (s.queue x.key).mcast = false ∧
      s.tokenFor x.key (streamKey 0 31) (reqOrder s.cycle 0 (16 + 31)) = some 0 ∧
      (s.queue x.key).toks[0]? = some { w := bare kNull 0, set := [] } ∧ (bare kNull 0).kind = kNull) ∧
    (t.stream 0 31 = some y ∧ y.drain = true ∧ t.fillsLine 0 31 y = false ∧ Tab.get 0 (t.core 0).pendW (eidStream 31) = 0 ∧
      (x.addr x.pos 0).toNat % 64 + x.esz ≤ 64) ∧
    (let z := { x with cmd := cmd 1 0 (strmBlock 3 1 0x7000 0x40FFF 8 0) }
     let u := streaming z [word 7]
     u.stream 0 31 = some z ∧ u.fillsLine 0 31 z = false ∧ z.held = [] ∧ (word 7).kind = kData ∧ (word 7).badResid = false ∧
       u.tokenFor z.key (streamKey 0 31) (reqOrder u.cycle 0 (16 + 31)) = some 0 ∧ u.protOf z.cmd = none) := by decide +kernel

/-- The accesses of the engines of core 0 in a state go through: what reads, and what writes. -/
theorem engine_writes (s : State) (m : Cmd) (va : Word) (off : Nat) (h : s.engXlate 0 m va 1 = (s, .ok off 0))
    (h2 : (s.routeOf off 0 == some (.dram off) && off == offOf off && (s.protOf m).isNone && !s.stackRefused (bits m.asid 0 16) off &&
      !s.conflicts none (lineOf off) && !s.mustSnoop (lineOf off) true) = true) : s.engineWrites 0 m va off := by
  simp only [Bool.and_eq_true, beq_iff_eq, Bool.not_eq_true', Option.isNone_iff_eq_none] at h2
  obtain ⟨⟨⟨⟨⟨a, b⟩, c⟩, d⟩, e⟩, f⟩ := h2
  exact ⟨off, 0, h, a, b, c, d, e, f⟩

theorem engine_reads (s : State) (m : Cmd) (va : Word) (off : Nat) (h : s.engXlate 0 m va 0 = (s, .ok off 0))
    (h2 : (s.routeOf off 0 == some (.dram off) && off == offOf off && !s.stackRefused (bits m.asid 0 16) off &&
      !s.mustSnoop (lineOf off) false && !s.poisoned off) = true) : s.engineReads 0 m va off := by
  simp only [Bool.and_eq_true, beq_iff_eq, Bool.not_eq_true'] at h2
  obtain ⟨⟨⟨⟨a, b⟩, c⟩, d⟩, e⟩ := h2
  exact ⟨off, 0, h, a, b, c, d, e⟩

def drain0 : Stream :=
  { strm0 with cmd := cmd 1 0 (strmBlock 3 1 0x7038 0x40FFF 1 0), held := [{ val := 2 ^ 64 - 1, pois := false }] }

theorem witness_StreamsMove_write : (streaming drain0 []).engineWrites 0 drain0.cmd (drain0.addr drain0.pos 0) 0x7038 :=
  engine_writes _ _ _ _ (by decide +kernel) (by decide +kernel)

theorem witness_StreamsMove_faults :
    let f : EFault := { pos := 0, va := 0x7000, reason := 0, level := 3, acc := 0 }
    let x := { strm0 with cmd := cmd 1 0 (strmBlock 3 0 0x7000 0x40FFF 1 0), fault := some f }
    let y := { x with fault := some { f with reason := 8 } }
    let s := streaming x []
    let t := streaming y []
    (s.stream 0 31 = some x ∧ x.st = 1 ∧ s.parks 0 f = true ∧ s.allBefore 0 31 x f.pos x.pos (f.pos - x.pos) = true ∧
      (s.die 0).fqNet ≠ s.net + 1) ∧
    (t.stream 0 31 = some y ∧ t.parks 0 { f with reason := 8 } = false ∧ y.pos = f.pos ∧ y.outw = [] ∧
      (t.context y.cmd.by_).st ≠ .free ∧ (t.context y.cmd.by_).pend.length < 14) := by decide +kernel

def killed0 : Stream := { strm0 with cmd := cmd 1 0 (strmBlock 3 0 0x7000 0x40FFF 1 0x8FE0), st := 4, status := 2 }

theorem witness_StreamsMove_completion :
    let x := { strm0 with cmd := cmd 1 0 (strmBlock 3 0 0x7000 0x40FFF 1 0), pos := 1 }
    let s := streaming x []
    (s.stream 0 31 = some x ∧ x.cmd.kind = 1 ∧ Tab.get 0 (s.core 0).pendW (eidStream 31) = 0 ∧ s.streamDone 0 31 x = true ∧
      x.craddr = 0) ∧
    (killed0.craddr ≠ 0 ∧ (streaming { killed0 with st := 3 } []).stream 0 31 = some { killed0 with st := 3 } ∧
      ((streaming { killed0 with st := 3 } []).writeRec 0 (eidStream 31) killed0.cmd (killed0.marked + 1) (killed0.craddr + 8)
        [field 0 48 killed0.consumed, field 0 48 killed0.late, field 0 48 killed0.dropped]).2 = .done) ∧
    (3 ≤ ({ killed0 with st := 5 } : Stream).st ∧ (streaming { killed0 with st := 5 } []).stream 0 31 = some { killed0 with st := 5 }) := by
  decide +kernel

/-- A stream that was killed writes the first doubleword of its record. -/
theorem witness_StreamsMove_record :
    ((streaming killed0 []).stream 0 31 = some killed0 ∧ killed0.st = 4 ∧ killed0.craddr ≠ 0) ∧
      (streaming killed0 []).engineWrites 0 killed0.cmd killed0.craddr 0x8FE0 :=
  ⟨by decide +kernel, engine_writes _ _ _ _ (by decide +kernel) (by decide +kernel)⟩

/-- A copy of core 0, and a package in which it is copy 127. -/
def copy0 (ws : List Nat) : CopyEng :=
  { cmd := cmd 2 0 ws, st := 1, status := 0, step := 0, off := 0, attempt := 0, sentAt := 0, recv := [], bytes := 0,
    steps := 0, fault := none, parkSeq := 0, parkDie := 0, resumed := false, peer := 0 }
def copying (x : CopyEng) : State := withCore (eng []) 0 (fun c => { c with copies := Tab.set none [] 127 (some x) })

theorem witness_CopiesMove_local :
    let x := copy0 (copyBlock 0 0 0x7000 0x8000 64)
    let y := { x with off := 64 }
    ((copying x).copy 0 127 = some x ∧ x.st = 1 ∧ (copying x).cmdHeld x.cmd = false ∧ x.role = 0 ∧ x.off < x.len ∧ x.op = 0) ∧
    ((copying y).copy 0 127 = some y ∧ y.len ≤ y.off ∧ Tab.get 0 ((copying y).core 0).pendW (eidCopy 127) = 0) := by decide +kernel

theorem witness_CopiesMove_collective :
    let x := copy0 (copyBlock 1 1023 0x7000 0 64)
    let y := { x with off := 64, sentAt := 1, attempt := 0 }
    let z := copy0 (copyBlock 2 1023 0 0x8000 128)
    let p : Packet := { dst := 0, src := 1023, kind := 8, circ := 0, seq := 0, len := 8, rsv := 0, addr := 64, hcrc := 0, data := [1, 2, 3, 4, 5, 6, 7, 8] }
    let s := { copying z with inbox := [(23, p)] }
    let t := { copying y with inbox := [(23, { p with kind := 9, addr := 0, len := 0, data := [] })] }
    let u := { copying y with cycle := 200000 + 10 ^ 6 }
    ((copying x).copy 0 127 = some x ∧ x.role = 1 ∧ x.off < x.len ∧ (copying x).cmdHeld x.cmd = false ∧
      (copying x).hasAsked 0 (eidCopy 127) ((copying x).engKey 0 x.cmd (x.d 1 + BitVec.ofNat 64 x.off)) = false) ∧
    (takeKind 8 s.inbox = some (p, []) ∧ s.findStep 2 p.src p.circ = some (0, 127, z) ∧ z.role = 2 ∧ z.op = 0 ∧ p.addr < z.len ∧
      p.addr % 64 = 0 ∧ p.data.length = 8 ∧ p.addr ∉ z.recv ∧ z.recv.length * 64 + 64 < z.len) ∧
    ((takeKind 9 t.inbox).isSome = true ∧ t.findStep 1 1023 0 = some (0, 127, y) ∧ y.sentAt ≠ 0 ∧ y.len ≤ y.off) ∧
    (u.copy 0 127 = some y ∧ y.role = 1 ∧ y.sentAt ≠ 0 ∧ y.sentAt + u.stepTo ≤ u.cycle + 1 ∧ y.retry ≤ y.attempt ∧
      (u.context y.cmd.by_).st ≠ .free ∧ (u.context y.cmd.by_).pend.length < 14) ∧
    (let w := { copy0 [2 * 2 ^ 60 + 2 ^ 55 + 15 * 2 ^ 40] with sentAt := 1, attempt := 14 }
     w.role = 1 ∧ w.attempt < w.retry) ∧
    (let w := { x with st := 3, status := 1 }
     (copying w).copy 0 127 = some w ∧ 3 ≤ w.st ∧ w.cmd.kind = 2 ∧ w.craddr = 0 ∧
      Tab.get 0 ((copying w).core 0).pendW (eidCopy 127) = 0) := by decide +kernel

theorem witness_CopiesMove_others :
    (let w := { copy0 (copyBlock 1 1023 0x7000 0 64) with attempt := 1, sentAt := 1 }; w.off < w.len ∧ w.attempt ≠ 0 ∧ w.sentAt ≠ 0) ∧
    (let z := copy0 (copyBlock 2 1023 0 0x8000 128)
     let e := { z with recv := [64] }
     let f := { z with recv := [0, 64] }
     e.recv.length * 64 + 64 = e.len ∧ e.recv.contains 0 = false ∧ (copying f).copy 0 127 = some f ∧
       (copying f).cmdHeld f.cmd = false ∧ f.len ≤ f.recv.length * 64) ∧
    (let w := copy0 ((copyBlock 0 0 0x7000 0x8000 64).take 5 ++ [0x8FE0, 0, 0])
     let v := { w with st := 3, status := 4, peer := 1023 }
     v.craddr ≠ 0 ∧ ((copying v).writeRec 0 (eidCopy 127) v.cmd ((copying v).cmdWave v.cmd) (v.craddr + 8)
       [field 0 48 v.steps, field 0 10 v.peer, 0]).2 = .done) := by decide +kernel

/-- The accesses of a local step, of a combining one, of a send and of a receive step, and of a record. -/
theorem witness_CopiesMove_accesses :
    (let x := copy0 (copyBlock 0 0 0x7000 0x8000 64)
     (copying x).engineReads 0 x.cmd (x.d 1 + BitVec.ofNat 64 x.off) 0x7000 ∧
       (copying x).engineWrites 0 x.cmd (x.d 2 + BitVec.ofNat 64 x.off) 0x8000) ∧
    (let x := copy0 [2 * 2 ^ 60 + 2 ^ 52, 0x7000, 0x8000, 0x9000, 64, 0, 0, 0]
     x.op ≠ 0 ∧ (copying x).engineReads 0 x.cmd (x.d 3 + BitVec.ofNat 64 x.off) 0x9000) ∧
    (let x := copy0 (copyBlock 1 1023 0x7000 0 64)
     (copying x).engineReads 0 x.cmd (x.d 1 + BitVec.ofNat 64 x.off) 0x7000) ∧
    (let x := copy0 (copyBlock 2 1023 0 0x8000 128)
     (copying x).engineWrites 0 x.cmd (x.d 2 + BitVec.ofNat 64 64) 0x8040) ∧
    (let x := { copy0 ((copyBlock 0 0 0x7000 0x8000 64).take 5 ++ [0x8FE0, 0, 0]) with st := 4 }
     (copying x).engineWrites 0 x.cmd x.craddr 0x8FE0) := by
  refine ⟨⟨engine_reads _ _ _ _ ?_ ?_, engine_writes _ _ _ _ ?_ ?_⟩, ⟨?_, engine_reads _ _ _ _ ?_ ?_⟩, engine_reads _ _ _ _ ?_ ?_,
    engine_writes _ _ _ _ ?_ ?_, engine_writes _ _ _ _ ?_ ?_⟩ <;> decide +kernel

/-! Tasks and loads -/

/-- A package in which the second-level TLB of every die maps the first 64 GiB to themselves. -/
def mappedAll (s : State) : State :=
  { s with dies := (List.range 4).map (fun d => (d, { s.die d with tlb2 := [{ asid := 0, va := 0, bits := 36, pa := 0, leaf := 0x1BD }] })) }

/-- Task queue 4,095, enabled, as f leaves it. -/
def tasked (f : TaskQ → TaskQ) : State :=
  let s := mappedAll (eng [0x100000, 0, 0x2000, 7, 0, 0, 0, 0])
  s.setTq 4095 (f { TaskQ.reset with qcfg := 1 })

/-- A thread task's descriptor: one thread, and its entry. -/
def desc0 : List Nat := [0x100000, 0, 0x2000, 7, 0, 0, 0, 0]
def descW : List Word := desc0.map (BitVec.ofNat 64)
/-- A spill area of 1,024 descriptors at the last page of the LPDDR of die 3. -/
def spill : Word := 0x10FFFFFF000A

theorem witness_TaskQueuesTake :
    let s := tasked (fun x => { x with stored := List.replicate 255 descW })
    let f := tasked (fun x => { x with stored := List.replicate 256 descW, qspill := spill, spCount := 1023 })
    let e := tasked (fun x => { x with qcfg := 0 })
    (4095 < 4096 ∧ desc0.length = 8 ∧ s.pkg.powered = true ∧ s.pkg.devState = 6 ∧ (s.tq 4095).en = true ∧
      bits (descW.headD 0) 32 8 = 0 ∧ s.refuses 4095 descW = false ∧ (s.enqueue 4095 descW).2 = .taken ∧ (s.tq 4095).spCount = 0 ∧ (s.tq 4095).stored.length < 256 ∧ s.taskPart (4095 / 1024) < 65536) ∧
    (f.refuses 4095 descW = false ∧ 256 ≤ (f.tq 4095).stored.length ∧ (f.tq 4095).spCount < (f.tq 4095).spCap ∧
      f.localDram (f.tq 4095).spBase = true ∧ f.mustSnoop (lineOf (offOf ((f.tq 4095).spAt (f.tq 4095).spCount))) true = false) ∧
    ((e.tq 4095).en = false ∧ e.refuses 4095 descW = true ∧ (e.enqueue 4095 descW).2 = .refused) ∧
    (let g := tasked (fun x => { x with stored := List.replicate 256 descW, qspill := spill, spCount := 1024 })
     (g.tq 4095).spCap ≤ (g.tq 4095).spCount ∧ g.refuses 4095 descW = false ∧ (g.enqueue 4095 descW).2 = .full) := by decide +kernel

theorem witness_TaskQueuesTake_others :
    let s := withSlot (tasked (fun x => { x with stored := List.replicate 255 descW })) 0 (fun x => { x with regs := [(30, 4095), (31, 0x6000)] })
    let r := withDie (tasked (fun x => { x with stored := List.replicate 255 descW })) 3 (fun d => { d with relBuf := [(4095, descW)] })
    let p := tasked (fun x => { x with stored := List.replicate 255 descW, qspill := spill, spCount := 1024, spHead := 1023 })
    let t := tasked (fun x => { x with stopped := true })
    let w := withSlot s 0 (fun x => { x with regs := [(30, 0x1000), (31, 0x6000)] })
    (s.issues [31, 30] [(5, 0), (4, 1), (6, 1)] = true ∧ bits (s.rg 30) 12 52 = 0 ∧ 4095 = bits (s.rg 30) 0 12 ∧
      s.me.asidN = bits (s.tq 4095).qcfg 16 16 ∧ s.allPerformed s.cur true = true ∧ (s.enqueue 4095 descW).2 = .taken) ∧
    (w.issues [31, 30] [(5, 0), (4, 1), (6, 1)] = true ∧ bits (w.rg 30) 12 52 ≠ 0) ∧
    (let v := withSlot s 0 (fun x => { x with asid := 1 }); v.me.asidN ≠ bits (v.tq 4095).qcfg 16 16) ∧
    ((r.die 3).relBuf = (4095, descW) :: [] ∧ r.pkg.devState = 6 ∧ (r.tq 4095).en = true ∧ (r.tq 4095).spCount = 0 ∧
      (r.tq 4095).stored.length < 256 ∧ r.taskPart (4095 / 1024) < 65536 ∧ (r.enqueue 4095 descW).2 = .taken) ∧
    ((p.tq 4095).spCount ≠ 0 ∧ (p.tq 4095).stored.length < 256 ∧ p.taskPart (4095 / 1024) < 65536 ∧
      p.mustSnoop (lineOf (offOf ((p.tq 4095).spAt 0))) false = false) ∧
    ((t.tq 4095).stopped = true ∧ (s.tq 4095).stopped = false) := by decide +kernel

/-- The thread reads the descriptor it pushes. -/
def pusher : State :=
  withSlot (tasked (fun x => { x with stored := List.replicate 255 descW })) 0 (fun x => { x with regs := [(30, 4095), (31, 0x6000)] })

theorem witness_TaskQueuesTake_reads : pusher.reads64 (pusher.rg 31) descW :=
  ⟨by decide +kernel, 0x6000, 0, .dram 0x6000, by decide +kernel, by decide +kernel, by decide +kernel,
    by decide +kernel, by decide +kernel, by decide +kernel, by decide +kernel, by decide +kernel⟩

/-- A started task of queue 4,095. -/
def task0 : Task := { q := 4095, desc := descW, asid := 0, ptb := 0x100000, load := 0, start := 0, phase := 0, next := 0, fault := false }
def running (t : Task) : State := (tasked id).setTask 1 (some t)

/-- A pick's state before it tries the queues of a die. -/
def picking (die : Nat) (s : State) : State :=
  let s0 := s.sweep.retireAll
  ((s0.setDie die { s0.die die with pickAt := s0.net + 1 }).dropCompaction).askHeads die

theorem witness_TasksRunAndComplete_pick :
    let s := tasked (fun x => { x with stored := [descW], qptb := 0x100000 })
    let s1 := picking 3 s
    s.mayPick 3 = true ∧ s1.waiting 3 = [] ∧ s1.placeFrom 3 [] = (s1, false) ∧
      s1.candidates 3 = 4095 :: [] ∧ s1.headOf 4095 = some descW ∧ taskKind descW ≠ 1 ∧
      (Rd.settle (s1.schedReader 4095) (s1.checkTask 4095 (s1.schedReader 4095) descW)).1 = s1 ∧
      (match (Rd.settle (s1.schedReader 4095) (s1.checkTask 4095 (s1.schedReader 4095) descW)).2 with
        | .ok (h, v) => h.isNone && v == 0
        | _ => false) = true ∧
      nthrOf descW ≤ s1.freeThreads (4095 / 1024) (s1.schedReader 4095).asid ∧ taskKind descW = 0 ∧ nthrOf descW = 1 ∧
      s1.pickSlot (4095 / 1024) (bits (s.tq 4095).asid 0 16) = some 3072 := by decide +kernel

theorem witness_TasksRunAndComplete_phases :
    let sig := [0x100008, 0, 0x2000, 7, 0x7FF8, 0xFFFFFFFFFFFFFFFF, 0, 0].map (BitVec.ofNat 64)
    let t1 := { task0 with phase := 1 }
    let t2 := { task0 with phase := 2 }
    let t3 := { task0 with phase := 3 }
    let ts := { task0 with phase := 1, desc := sig }
    let s := running ts
    let r : Reader := { s.schedReader 4095 with asid := 0, ptb := 0x100000, eid := 2048 + 1 }
    ((running task0).task 1 = some task0 ∧ (running task0).running = true ∧ task0.phase = 0 ∧ (running task0).taskQuiet 1 task0 = true ∧
      task0.fault = false) ∧
    (Tab.get 0 (s.core r.core).pendW r.eid = 0 ∧ (running t1).task 1 = some t1 ∧ sigEn t1.desc = false) ∧
    (s.task 1 = some ts ∧ ts.phase = 1 ∧ sigEn ts.desc = true ∧ (s.rdXlate r (sigAddr ts.desc) 1).1 = s ∧
      (match (s.rdXlate r (sigAddr ts.desc) 1).2 with | .ok p => p == (0x7FF8, 0) | _ => false) = true ∧
      s.routeOf 0x7FF8 0 = some (.dram 0x7FF8) ∧ 0x7FF8 = offOf 0x7FF8 ∧ s.stackRefused r.asid 0x7FF8 = false ∧
      s.mustSnoop (lineOf 0x7FF8) true = false) ∧
    ((running t2).task 1 = some t2 ∧ ((running t2).die r.die).relBuf.length < 64 ∧ t2.succ = none ∧
      (match (Rd.settle r ((running t2).rdTable r (succPtr t2.desc + 16 * BitVec.ofNat 64 t2.entries.1) t2.entries.2)).2 with
       | .ok l => l == [] | _ => false) = true) ∧
    (let t := { t2 with succ := some [(0x7FC0, 4095)] }
     let n := { t with next := 1 }
     let e : Word × Word := (0x7FC0, 4095)
     let v := running t
     let rel := Rd.settle r (v.releaseOne r 1 t e)
     t.succ = some [e] ∧ [e][t.next - t.first]? = some e ∧ succOk e = true ∧ (match rel.2 with | .ok _ => true | _ => false) = true ∧
       [e][n.next - n.first]? = none ∧ succOk (0x7FC1, 4095) = false ∧ t.dec = 0 ∧ (v.rdXlate r 0x7FC0 2).1 = v ∧
       (match (v.rdXlate r 0x7FC0 2).2 with | .ok p => p == (0x7FC0, 0) | _ => false) = true ∧
       v.routeOf 0x7FC0 0 = some (.dram 0x7FC0) ∧ v.stackRefused r.asid 0x7FC0 = false ∧ v.poisoned 0x7FC0 = false ∧
       v.mustSnoop (lineOf 0x7FC0) true = false) ∧
    ((running { task0 with fault := true }).task 1 = some { task0 with fault := true }) ∧
    ((running t3).task 1 = some t3 ∧ t3.phase = 3) := by decide +kernel

/-- A signal to host memory, which a leaf of MT 3 names. -/
theorem witness_TasksRunAndComplete_farSignal :
    let ts := { task0 with phase := 1, desc := [0x100008, 0, 0x2000, 7, 0x7FF8, 1, 0, 0].map (BitVec.ofNat 64) }
    let b := running ts
    let s := { b with dies := (List.range 4).map (fun d => (d, { b.die d with tlb2 := [{ asid := 0, va := 0, bits := 36, pa := 0, leaf := 0x7BD }] })) }
    let r : Reader := { s.schedReader 4095 with asid := 0, ptb := 0x100000, eid := 2048 + 1 }
    s.task 1 = some ts ∧ Tab.get 0 (s.core r.core).pendW r.eid = 0 ∧ (s.rdXlate r (sigAddr ts.desc) 1).1 = s ∧
      (match (s.rdXlate r (sigAddr ts.desc) 1).2 with | .ok p => p == (0x7FF8, 3) | _ => false) = true ∧
      s.routeOf 0x7FF8 3 = some (.host 0x7FF8) := by decide +kernel

/-- A load of one facet, in a state, whose need entry uses the tiles of a mask, placed on the last facet of die 3. -/
def cut0 (use : Nat) : Cut :=
  { w := 1, h := 1, nthr := 0, entry := 0, qstore := 1, dieReq := 3, need := [(BitVec.ofNat 64 use, 0)], die := 3,
    x0 := 11, y0 := 15 }
def loadIn (st : LoadState) (use : Nat) : Load :=
  { st := st, asid := 0, ptb := 0x100000, prot := false, mustdie := false, hdr := 0, cuts := [cut0 use], brg := [], bord := [],
    byPlace := true, owner := some 0, task := 0, q := 0, prio := 7, entry := 0, arg := 0, cgptr := 0x6000, granted := 1, gcycle := 0,
    pendAt := 0, told := false, pltime := 1, arms := [], bridges := [], result := none, wave := 0, top := 0, cmark := 0, rbacks := 0,
    snaps := [], reports := [], seen := [], zero := false, count := 0, cmdDie := none, why := 0, redrain := false, retire := false,
    quiet := false, cfg := [[]], img := [] }
/-- A package with load 65,535, slot 0 with g30 and g31. -/
def loaded (x : Load) (a b : Word) : State := (mappedAll (user [(30, b), (31, a)])).setLoad 65535 x

theorem witness_TasksRunAndComplete_load :
    let x := { loadIn .pending 4 with cuts := [{ cut0 4 with dieReq := 0, die := 0, x0 := 0, y0 := 0 }] }
    let s := { loaded x 0 0 with sweepAt := (loaded x 0 0).fab / 64 + 1 }
    let s1 := picking 0 s
    s.mayPick 0 = true ∧ s1.waiting 0 = (65535, x) :: [] ∧ s1.blockPrio ≤ x.prio + 1 ∧ x.st = .pending ∧ s1.circsFree x.bord = true ∧
      (s1.placesFor 4096 65535 (bits x.asid 0 16) x.mustdie x.wants).isSome = true := by decide +kernel

/-- A header of one facet at 0x6000, its cut entry, need table and configuration stream in the descriptor cache or memory. -/
def headed : State :=
  let h : List Nat := [0, 0, 0, 0, 0, 0, 0, 0]
  let c : List Nat := [0, 0, 0x6100, 2 ^ 32 + 1, 0x6200, 0, 0, 0]
  let s := withMem (withMem (withMem (mappedAll (eng h)) 0x6040 c) 0x6200 [4, 0]) 0x6100 [0x80000]
  withDie s 0 (fun d => { d with dcache := [(0x180, some (s.homeLine 0x180)), (0x181, some (s.homeLine 0x181)), (0x188, some (s.homeLine 0x188))] })

theorem witness_LoadsStartAndEnd_place :
    let s := headed
    let q := Rd.settle s.placeReader (s.rdHeader s.placeReader (s.rg 31))
    s.issues [31, 31] [(5, 0), (4, 1), (6, 1)] = true ∧ q.1 = s ∧
      (match q.2 with
        | .ok h => !h.cuts.any (fun c => c.nthr != 0 && c.entry == 0) && (badConfig 0 (h.cuts.zip h.cfg)).isNone
        | _ => false) = true := by decide +kernel

/-- A load task of queue 4,095 with that header. -/
def loadTask : State :=
  let s := (withDie headed 3 (fun d => { d with dcache := (headed.die 0).dcache })).setTq 4095
    { TaskQ.reset with qcfg := 1, stored := [[0x100001, 0x6000, 0x2000, 0, 0, 0, 0, 0].map (BitVec.ofNat 64)], qptb := 0x100000 }
  { s with sweepAt := s.fab / 64 + 1 }

theorem witness_TasksRunAndComplete_loadTask :
    let ws : List Word := [0x100001, 0x6000, 0x2000, 0, 0, 0, 0, 0].map (BitVec.ofNat 64)
    let s1 := picking 3 loadTask
    let q := Rd.settle (s1.schedReader 4095) (s1.checkTask 4095 (s1.schedReader 4095) ws)
    loadTask.mayPick 3 = true ∧ s1.waiting 3 = [] ∧ s1.candidates 3 = 4095 :: [] ∧ s1.headOf 4095 = some ws ∧ taskKind ws = 1 ∧
      s1.blockPrio ≤ s1.effPrio 4095 + 1 ∧ q.1 = s1 ∧
      (match q.2 with
        | .ok (some h, _) =>
          let x := h.load (s1.tq 4095).asid (s1.tq 4095).qptb (cgptrOf ws) (entryOf ws) (ws.getD 3 0) (nthrOf ws) false none
            s1.nTask 4095 (s1.effPrio 4095) s1.cycle
          (s1.placesFor 4095 0 (s1.schedReader 4095).asid x.mustdie x.wants).isSome && (badConfig 0 (x.cuts.zip x.cfg)).isNone
        | _ => false) = true := by decide +kernel

/-- That task's load has not been placed in its time. -/
theorem witness_LoadsStartAndEnd_queueTimeout :
    let x := { loadTask.tq 4095 with pend := true, pendAt := 1 }
    let s := { loadTask.setTq 4095 x with cycle := 3 * 10 ^ 7 }
    let ws : List Word := [0x100001, 0x6000, 0x2000, 0, 0, 0, 0, 0].map (BitVec.ofNat 64)
    (s.tq 4095).pend = true ∧ (s.tq 4095).told = false ∧ (s.tq 4095).pendAt + 2000 * max 1 (s.die 3).plto ≤ s.cycle ∧
      s.headOf 4095 = some ws ∧
      (match (Rd.settle (s.schedReader 4095) (s.rdHeader (s.schedReader 4095) (cgptrOf ws))).2 with
        | .ok _ => true | _ => false) = true := by decide +kernel

theorem witness_TasksRunAndComplete_restore :
    let n : Snap := { wave := 0, tiles := [], slots := [], streams := [], copies := [], cmds := [], queues := [], bridges := [], result := none }
    let x := { loadIn .restoring 4 with cuts := [{ cut0 4 with dieReq := 0, die := 0, x0 := 0, y0 := 0 }], snaps := [n] }
    let s := { loaded x 0 0 with sweepAt := (loaded x 0 0).fab / 64 + 1 }
    let s1 := picking 0 s
    s.mayPick 0 = true ∧ s1.waiting 0 = (65535, x) :: [] ∧ s1.blockPrio ≤ x.prio + 1 ∧
      (s1.placesFor 4096 65535 (bits x.asid 0 16) x.mustdie x.wants).isSome = true ∧
      (x.snaps.find? (fun z => z.wave == x.top)).isSome = true := by decide +kernel

/-- A header whose facet has threads and no entry, one with a word outside its limits and one that is not aligned. -/
theorem witness_LoadsStartAndEnd_badHeaders :
    let at_ := fun (d0 d2 : Nat) =>
      let s := withMem headed 0x6040 [d0, 0, 0x6100, d2, 0x6200, 0, 0, 0]
      withDie s 0 (fun d => { d with dcache := [(0x180, some (s.homeLine 0x180)), (0x181, some (s.homeLine 0x181)), (0x188, some (s.homeLine 0x188))] })
    let q := fun (s : State) => Rd.settle s.placeReader (s.rdHeader s.placeReader (s.rg 31))
    (match (q (withSlot headed 0 (fun x => { x with regs := [(31, 0x6001)] }))).2 with | .bad c _ => c == 7 | _ => false) = true ∧
    (match (q (at_ 0xFFFFFFFFFFFFFFFF (2 ^ 32 + 1))).2 with | .bad .. => true | _ => false) = true := by decide +kernel

theorem witness_LoadsStartAndEnd_sect :
    let x := loadIn .running 2
    let k := tileKey 3 191 1
    let s := (loaded x 0xFFFF0000000000FF 0xFFFFFFFF).setTile k { Tile.empty with kind := 1, bank0 := [(13, 0x100)] }
    let p := loaded (loadIn .saved 2) 0xFFFF0000000000FF 0xFFFFFFFF
    s.issues [31, 30] [(5, 0)] = true ∧ 65535 = bits (s.rg 31) 48 16 ∧ s.load 65535 = some x ∧ bits x.asid 0 16 = s.me.asidN ∧
      255 = bits (s.rg 31) 0 8 ∧ 0xFFFFFFFF = bits (s.rg 30) 0 32 ∧ x.st = .running ∧
      (x.elems.filter (fun e => e.2.2 == k)).length = 1 ∧ (s.tileOr k).kind = 1 ∧ (s.tileOr k).sectId = 255 ∧
      p.load 65535 = some (loadIn .saved 2) ∧ (loadIn .saved 2).st = .saved := by decide +kernel

theorem witness_LoadsStartAndEnd_mark :
    let x := { loadIn .running 0 with prot := true }
    let s := withSlot (loaded x 0 0) 0 (fun y => { y with load := 65535, isFeed := true, marks := 1 })
    let u := loaded x 0 0
    (u.issues [31] [] = true ∧ u.isProtFeed u.cur = false) ∧
    (s.issues [31] [] = true ∧ s.isProtFeed s.cur = true ∧ s.load s.me.load = some x ∧ s.me.marks ≤ x.wave + 1 ∧ s.me.outs = [] ∧
      s.me.muls = []) := by decide +kernel

theorem witness_LoadsStartAndEnd_ends :
    let at_ := fun (st : LoadState) => loaded (loadIn st 4) 0xFFFF 0
    ([LoadState.finished, .killed, .running, .pending].all (fun st =>
      let s := at_ st
      s.issues [31] [(5, 0)] && bits (s.rg 31) 0 16 == 65535 && s.load 65535 == some (loadIn st 4) && s.me.wait == .none &&
        s.me.st == .ready && (loadIn st 4).byPlace && (loadIn st 4).owner == some s.cur)) = true ∧
    (let s := at_ .configured
     s.load 65535 = some (loadIn .configured 4) ∧ s.running = true ∧ s.awaitsConfig 65535 = false) ∧
    (let x := { loadIn .running 4 with quiet := true }
     (loaded x 0 0).load 65535 = some x ∧ (loaded x 0 0).running = true ∧ (loaded x 0 0).finishes 65535 x = true) ∧
    (let x := { loadIn .pending 4 with pendAt := 3000 }
     let s := loaded x 0 0
     65535 < 65536 ∧ s.load 65535 = some x ∧ x.st = .pending ∧ x.told = false ∧ x.byPlace = true ∧ x.owner = some 0 ∧ 0 < 4096 ∧
      x.pendAt + 2000 * max 1 x.pltime ≤ s.cycle ∧ (s.slot 0).st ≠ .free) := by decide +kernel

theorem witness_LoadsDrainAndCommit_control :
    let u := up
    (3 < 4 ∧ u.noLoad 65535 = true) ∧
    (let x := loadIn .running 4
     let s := loaded x 0 0
     s.load 65535 = some x ∧ x.redrain = false ∧ s.poolFits x = true ∧ s.tested' 65535 = false) ∧
    (let x := { loadIn .saved 4 with why := 1 }
     (loaded x 0 0).load 65535 = some x ∧ x.why = 1) ∧
    (let x := { loadIn .draining 4 with quiet := true, why := 1 }
     let s := (loaded x 0 0).setTile (tileKey 3 191 2) { Tile.empty with kind := 2, saved := true }
     s.load 65535 = some x ∧ s.tested' 65535 = false ∧ (s.stopFeeds 65535).load 65535 = some x ∧ (s.stopFeeds 65535).drained' 65535 x = true ∧
      x.quiet = true ∧ x.count = 0 ∧ x.why ≠ 3 ∧ (s.stopFeeds 65535).blockLines 65535 x = []) ∧
    (let x := loadIn .placed 4
     (loaded x 0 0).running = true ∧ (loaded x 0 0).awaitsConfig 65535 = false) ∧
    (let x := { loadIn .killing 4 with zero := true }
     let s := loaded x 0 0
     s.loads = [(65535, some x)] ∧ s.running = true ∧ s.sweepAt ≠ s.fab / 64 + 1 ∧ s.tested' 65535 = false ∧ s.items 65535 x = 0 ∧
      x.count = 0 ∧ x.byPlace = true ∧ x.retire = false) := by decide +kernel


theorem witness_LoadsDrainAndCommit_sweep :
    let x := { loadIn .running 4 with zero := true }
    let s := loaded x 0 0
    s.loads = [(65535, some x)] ∧ s.running = true ∧ s.sweepAt ≠ s.fab / 64 + 1 ∧ x.st ≠ .killing ∧ x.st ≠ .killed := by decide +kernel

/-- A protected load whose next segment has one provisional line: bytes 60 to 63 of line 0x141. -/
def segment : State :=
  { loaded { loadIn .running 0 with prot := true, wave := 7, top := 8, cmark := 8 } 0 0 with
    prov := [{ load := 65535, wave := 8, line := 0x141, bytes := lineBytes 60 0xA1B2C3D4 4 }] }

theorem witness_LoadsDrainAndCommit_commit :
    let x := { loadIn .running 0 with prot := true, wave := 7, top := 8, cmark := 8 }
    let s := segment
    s.load 65535 = some x ∧ x.prot = true ∧ x.st = .running ∧ s.testing 65535 = false ∧ s.commitReady 65535 (x.wave + 1) x = true ∧
      s.lastReady 65535 x = false ∧
      s.commitLines 65535 (x.wave + 1) = [{ load := 65535, wave := 8, line := 0x141, bytes := lineBytes 60 0xA1B2C3D4 4 }] ∧
      s.snoopList ((s.commitLines 65535 (x.wave + 1)).map (fun p => p.line)) true = [] ∧
      (∀ p ∈ s.commitLines 65535 (x.wave + 1), ∀ e ∈ p.bytes, e.1 < 64) ∧
      60 + 4 ≤ 64 := by decide +kernel

/-- Stream 31 of core 0, which has collected the words of a configuration stream for cut 0 of load 65,535. -/
def configuring (ws : List Nat) : Stream :=
  { strm0 with cmd := cmd 1 0 (strmBlock 2 0 0x7000 0xFFFF000000400000 1 0), pos := 1, config := ws }

theorem witness_LoadsDrainAndCommit_config :
    let x := loadIn .running 4
    let s := fun (y : Stream) => withCore (loaded x 0 0) 0 (fun c => { c with streams := Tab.set none [] 31 (some y) })
    let r := fun (y : Stream) => runCfg (s y).fab (cut0 4).uses (cut0 4).lsNeed (decide (x.st ≠ .configured))
      ((cut0 4).elems.map (fun e => (e, (s y).tileOr ((cut0 4).tileAt e)))) y.config
    let good := fun (y : Stream) => (s y).stream 0 31 == some y && qidCfg y.qid && y.st == 1 && decide (y.total ≤ y.pos) && (s y).running &&
      (s y).load (qidLoad y.qid) == some x && x.st == .running && y.status == 0 && x.cuts[qidCut y.qid]? == some (cut0 4) &&
      qidVc y.qid == 0
    good (configuring [0x4008DC01]) = true ∧ good (configuring [0x400C0007]) = true ∧
      (match r (configuring [0x4008DC01]), r (configuring [0x400C0007]) with | .inr _, .inl _ => true | _, _ => false) = true ∧
      ((s (configuring [])).context 0).st ≠ .free ∧ ((s (configuring [])).context 0).pend.length < 14 := by decide +kernel

/-! The fabric -/

/-- A load of one facet, all of whose tiles it uses. -/
def loadF : Load := loadIn .running (2 ^ 64 - 1)
/-- A tile of it, by its index. -/
def tk (i : Nat) : Nat := tileKey 3 191 i
/-- A running tile with fields written, and a word that its inputs may take. -/
def tile0 (kind : Nat) (fs : List (Nat × Nat)) : Tile :=
  { Tile.empty with kind := kind, bank0 := fs.map (fun e => (e.1, e.2 + 1)), started := true }
def met (w : LW) : ChTok := { w := w, at_ := 100, fwd := 0, local_ := true, met := true }
/-- A package in fabric cycle 100 whose load has such tiles. -/
def fab0 (ts : List (Nat × Tile)) : State :=
  ts.foldl (fun s e => s.setTile (tk e.1) e.2) { (on 0 []).setLoad 65535 loadF with fab := 100 }

theorem witness_WordsRoute :
    let h : ChTok := { w := mkWord 0xA5 31 0 0 511, at_ := 100, fwd := 0, local_ := false, met := false }
    let v := 2 ^ 31 + 3 * 2 ^ 28 + 2 ^ 22 + 511
    let f := 2 ^ 31 + 2 ^ 26 + 511
    let s := fab0 [(1, (tile0 0 [(135, 2 ^ 31), (167, v)]).setCh 3 31 [h])]
    let u := fab0 [(62, (tile0 1 [(21, f)]).setCh 0 31 [h]), (61, (tile0 2 []).setCh 1 31 [met h.w])]
    let d := fab0 [(63, (tile0 2 []).setCh 0 31 [h])]
    (s.liveTile (tk 1) = some (65535, loadF) ∧ s.load 65535 = some loadF ∧ (s.tileOr (tk 1)).ch 3 31 = [h] ∧ h.at_ ≤ s.fab ∧ h.met = false ∧
      h.w.badPar = false ∧ (s.tileOr (tk 1)).dropReason 3 h.w = none ∧ (s.tileOr (tk 1)).routeOf 3 h.w.route = some v ∧
      v.testBit 22 = true ∧ fld v 23 5 = 0) ∧
    (u.liveTile (tk 62) = some (65535, loadF) ∧ u.load 65535 = some loadF ∧ (u.tileOr (tk 62)).ch 0 31 = [h] ∧
      (u.tileOr (tk 62)).dropReason 0 h.w = none ∧ (u.tileOr (tk 62)).routeOf 0 h.w.route = some f ∧
      f.testBit 22 = false ∧ fld f 23 5 = 2 ^ 3 ∧ neighbour (tk 62) 3 = some (tk 61) ∧ tk 61 ≠ tk 62 ∧
      loadF.sameCut (tk 62) (tk 61) = true ∧ (u.tile (tk 62)).holdsFor 3 h.w.vc = false ∧
      (u.tile (tk 62)).linkFree 3 u.fab = true ∧ (u.tile (tk 61)).hasCredit u.fab 1 h.w.vc = true) ∧
    (d.liveTile (tk 63) = some (65535, loadF) ∧ d.load 65535 = some loadF ∧ (d.tileOr (tk 63)).ch 0 31 = [h] ∧
      (d.tileOr (tk 63)).dropReason 0 h.w = some 1 ∧ loadF.elemOn (tk 63) = some (0, 63) ∧ loadF.owner = some 0 ∧
      loadF.reports.find? (fun y => y.src == tileSrc 65535 (tk 63)) = none ∧ (d.context 0).st ≠ .free ∧
      (d.context 0).pend.length < 14) ∧
    (let m := fab0 [(1, (tile0 0 []).setCh 3 31 [met h.w])]
     m.liveTile (tk 1) = some (65535, loadF) ∧ (m.tileOr (tk 1)).ch 3 31 = [met h.w] ∧ (met h.w).met = true ∧ (met h.w).at_ ≤ m.fab) ∧
    (let b := { h with w := { h.w with sbpar := ~~~h.w.sbpar } }; b.met = false ∧ b.w.badPar = true) ∧
    (let n := fab0 [(1, (tile0 0 [(135, 2 ^ 31), (167, 2 ^ 31 + 3 * 2 ^ 28 + 511)]).setCh 3 31 [h])]
     (n.tileOr (tk 1)).dropReason 3 h.w = none ∧ (n.tileOr (tk 1)).routeOf 3 h.w.route = some (2 ^ 31 + 3 * 2 ^ 28 + 511) ∧
       (2 ^ 31 + 3 * 2 ^ 28 + 511).testBit 22 = false ∧ fld (2 ^ 31 + 3 * 2 ^ 28 + 511) 23 5 = 0) := by decide +kernel

/-- A vector tile whose slot 15 adds a channel's binary32 lanes to a constant, with a word there. -/
def adds : Tile :=
  (tile0 0 [(98, 0x810), (99, 19 + 31 * 32), (100, 21), (101, 31), (102, 8), (135, 8), (168, 0x3F800000)]).setCh 3 31 [met (mkWord 0x40000000 31 0 0 0)]

theorem witness_SlotsFire_fire :
    let s := fab0 [(1, adds)]
    let t := s.tile (tk 1)
    s.liveTile (tk 1) = some (65535, loadF) ∧ 15 < 16 ∧ t.firesNow = true ∧ Tab.get 0 t.pipeAt (15 % 4) ≠ s.fab + 1 ∧ t.startAt ≤ s.fab ∧
      (t.pipeOrder (15 % 4)).find? (fun j => t.fireable s.fab j) = some 15 ∧
      (match t.firing s.fab 15 with
        | .fire f => f.toks.length == 1 && ((f.take.filterMap (fun i => t.head s.fab 15 i)).find? (fun h => h.1.kind == 0 && h.1.badResid)).isNone
        | _ => false) = true ∧
      loadF.elemOn (tk 1) = some (0, 1) ∧ s.armedElem 65535 0 1 15 0 = none := by decide +kernel

/-- The same slot with a word whose residues do not fit, with a poisoned one, with a sequence token, and with a fault injected. -/
theorem witness_SlotsFire_others :
    let at_ := fun (w : LW) => fab0 [(1, adds.setCh 3 31 [met w])]
    let word := mkWord 0x40000000 31 0 0 0
    let ok := fun (s : State) => let t := s.tile (tk 1)
      t.firesNow && decide (t.startAt ≤ s.fab) && (t.pipeOrder (15 % 4)).find? (fun j => t.fireable s.fab j) == some 15
    let f := fun (w : LW) => ((at_ w).tile (tk 1)).firing 100 15
    let z := at_ { word with resid := word.resid ^^^ 1 }
    ok z = true ∧ (match f { word with resid := word.resid ^^^ 1 } with
      | .fire f => ((f.take.filterMap (fun i => (z.tile (tk 1)).head 100 15 i)).find? (fun h => h.1.kind == 0 && h.1.badResid)).isSome
      | _ => false) = true ∧
    ok (at_ { word with resid := poisonResid }) = true ∧ f { word with resid := poisonResid } = .poison ∧
    ok (at_ { word with kind := 5 }) = true ∧ f { word with kind := 5 } = .misalign := by decide +kernel

/-- A result that is due, and a csrc slot that has two tokens to emit. -/
def result0 : OutTok := { w := mkWord 7 0 0 0 0, ports := 0, takes := [3], paths := [] }
def flying : Tile :=
  (tile0 0 []).setSlot 15 { OpSlot.empty with flight := [{ due := 100, toks := [result0], ls := 63 }] }
def emitting : Tile :=
  (tile0 0 [(98, 0x1855), (102, 8), (103, 0xFFFFFFFF)]).setSlot 15 { OpSlot.empty with st := { OpSt.zero with mode := 1, n := 2 } }

theorem witness_SlotsFire_out :
    let s := fab0 [(1, flying)]
    let t := s.tile (tk 1)
    let c := fab0 [(1, emitting)]
    let e := c.tile (tk 1)
    (s.liveTile (tk 1) = some (65535, loadF) ∧ (t.slot 15).flight = [{ due := 100, toks := [result0], ls := 63 }] ∧ 100 ≤ s.fab ∧
      result0.ports = 0 ∧ result0.paths = [] ∧ result0.takes ≠ [] ∧ 63 < 64 ∧ result0.w.kind = 0) ∧
    (c.liveTile (tk 1) = some (65535, loadF) ∧ e.firesNow = true ∧ e.pending 15 = true ∧ (e.slot 15).free = true ∧ e.owes 15 = false ∧
      (e.slot 15).st.j + 1 < (e.slot 15).st.n ∧ e.outPorts 15 ≠ 0) := by decide +kernel

/-- Timed tiles of group 15: one that pops an empty channel at tick 0, and one at the last tick of its period. -/
def timed (tick frozen : Nat) (fs : List (Nat × Nat)) : Tile :=
  { tile0 0 ([(0, 241), (3, 4096)] ++ fs) with tick := tick, frozen := frozen }

theorem witness_SlotsFire_timed :
    let s := fab0 [(1, timed 0 (2 ^ 48 - 1) [(4, 1), (8, 0x810), (9, 16), (10, 21), (11, 31), (200, 0)]), (3, timed 7 5 [])]
    let u := fab0 [(1, timed 4095 5 [])]
    let ok := fun (s : State) => let t := s.tile (tk 1)
      s.liveTile (tk 1) == some (65535, loadF) && t.kind == 0 && t.started && !t.aligned && t.field 0 % 2 == 1 && !t.halted &&
        t.tickAt != s.fab + 1 && decide (t.startAt ≤ s.fab)
    (ok s = true ∧ ((s.timedGroup loadF (tk 1)).any (fun k => ((s.timedGroup loadF (tk 1)).foldl (fun s k => s.timedClasp 65535 k) s).timedBlocked 65535 k)) = true ∧
      s.timedGroup loadF (tk 1) = [tk 1, tk 3]) ∧
    (let u1 := u.timedClasp 65535 (tk 1)
     let t1 := { u1.tile (tk 1) with tickAt := u1.fab + 1 }
     ok u = true ∧ u.timedGroup loadF (tk 1) = [tk 1] ∧ u1.timedBlocked 65535 (tk 1) = false ∧ t1.dueOps = [] ∧ t1.landing = [] ∧
      t1.tick ≠ 0) := by decide +kernel

/-- A timed tile whose one entry adds the word of a channel to a constant at tick 5. -/
theorem witness_SlotsFire_entry :
    let u := fab0 [(1, (timed 5 0 [(4, 1), (8, 0x810), (9, 19 + 31 * 32), (10, 21), (11, 31), (12, 8), (200, 5 * 2 ^ 20)]).setCh 3 31 [met (mkWord 7 31 0 0 0)])]
    let u1 := u.timedClasp 65535 (tk 1)
    let t1 := { u1.tile (tk 1) with tickAt := u1.fab + 1 }
    u.timedGroup loadF (tk 1) = [tk 1] ∧ u1.timedBlocked 65535 (tk 1) = false ∧ t1.landing = [] ∧ t1.dueOps = [0] ∧
      u1.tileLoad (tk 1) = some (65535, loadF) ∧ loadF.elemOn (tk 1) = some (0, 1) ∧
      ((t1.readEntry u1.fab 0).1.filterMap id).all (fun w => w.kind == 0 && !w.poisoned && !w.badResid) = true ∧
      u1.armedElem 65535 0 1 0 0 = none := by decide +kernel

/-- A vector tile with the swap clasp on SWIN and on the channel that its slot 0 reads, which sends it on to the west. -/
def swapping : Tile :=
  ((tile0 0 [(0, 3 * 256 + 31 * 2048 + 8 * 65536 + 31 * 2 ^ 21), (6, 511), (8, 0x810), (9, 16 + 5 * 32), (10, 21), (11, 31), (12, 1)]).setCh 3 31
    [met (mkWord 0 31 2 7 0)]).setCh 0 5 [met (mkWord 0 5 2 7 0)]

theorem witness_SlotsFire_swap :
    let s := fab0 [(1, swapping)]
    let t := s.tile (tk 1)
    let a := fab0 [(1, { tile0 0 [] with aligned := true, akind := 4 })]
    let u := a.tile (tk 1)
    (s.liveTile (tk 1) = some (65535, loadF) ∧ t.started = true ∧ t.aligned = false ∧ t.startAt ≤ s.fab ∧ t.sendq = [] ∧ t.isTimed = false ∧
      fld (t.field 0) 8 3 ≠ 7 ∧ t.headOf s.fab (fld (t.field 0) 8 3) (fld (t.field 0) 11 5) = some (mkWord 0 31 2 7 0) ∧
      (mkWord 0 31 2 7 0).kind = 2 ∧ t.quiet s.fab = true ∧ t.awaited = [(0, 5)] ∧
      t.awaited.all (fun c => t.headKind s.fab c == some 2) = true ∧ fld (t.field 0) 16 5 ≠ 0) ∧
    (a.liveTile (tk 1) = some (65535, loadF) ∧ u.started = true ∧ u.saved = false ∧ u.startAt ≤ a.fab ∧ u.sendq = [] ∧
      loadF.elemOn (tk 1) = some (0, 1) ∧ u.aligned = true ∧
      (u.keep a.fab).complete = true) ∧
    (let c := fab0 [(1, (tile0 0 [(0, 7 * 256)]).setCh 3 30 [met (mkWord 0 30 2 7 0)])]
     let v := c.tile (tk 1)
     fld (v.field 0) 8 3 = 7 ∧ v.started = true ∧ v.aligned = false ∧
       (v.chans.map (fun e => (e.1 / 32, e.1 % 32))).filter (fun d => v.headKind c.fab d == some 2 && (!v.pops d || v.swapsNow c.fab)) = [(3, 30)]) := by
  decide +kernel

/-- A matrix tile of section 255, armed for rem output blocks: 8-bit integers, A on west VC 31, B on east VC 30 and south VC
29, out to the east on VC 28. -/
def section0 (rem : Nat) (m : Mat) : Tile :=
  { tile0 1 [(1, 65535 + 3 * 2 ^ 17), (8, 0x14 + 64 * 0x14 + 4096), (10, 0x18),
      (11, 3 + 31 * 8 + 256 + 30 * 2048 + 2 * 65536 + 29 * 2 ^ 19 + 2 ^ 25), (12, 511 + 28 * 512), (13, 255)] with mat := { m with remain := rem } }
/-- A block of 64 columns of the same word, and one of which n words have come. -/
def block0 (v : Nat) (ready : Bool) : Block :=
  { words := List.replicate 64 { mkWord (BitVec.ofNat 256 v) 0 0 0 0 with route := 0x14 }, full := true, due := 100, ready := ready }
def block1 (n : Nat) : Block :=
  { words := List.replicate n { mkWord 1 0 0 0 0 with route := 0x14 }, full := false, due := 100, ready := false }

theorem witness_MatrixTilesAdvance_ports :
    let w := mkWord 0x55 31 0 0 0
    let s := fab0 [(8, (section0 1 { Mat.zero with aWords := List.replicate 7 w }).setCh 3 31 [met w])]
    let t := s.tile (tk 8)
    let v := mkWord 0x66 29 0 0 0
    let u := fab0 [(8, (section0 1 { Mat.zero with blocks := [block0 1 true, block1 63] }).setCh 2 29 [met v])]
    let b := u.tile (tk 8)
    let r := fab0 [(8, section0 1 { Mat.zero with blocks := [block0 1 true, block0 1 false] })]
    (s.liveTile (tk 8) = some (65535, loadF) ∧ t.armed = true ∧ t.rowsHeld = 7 ∧ Tab.get 0 t.pipeAt 8 ≠ s.fab + 1 ∧
      t.headOf s.fab t.aPort.1 t.aPort.2 = some w ∧ w.kind = 0 ∧ w.poisoned = false ∧ w.badResid = false) ∧
    (u.liveTile (tk 8) = some (65535, loadF) ∧ b.armed = true ∧ b.mat.loading = some 1 ∧
      1 = (if (b.bPort 1).1 ≠ 7 then
        (b.mat.blocks.getD 1 { words := [], full := false, due := 0, ready := false }).words.length % 2 else 0) ∧
      Tab.get 0 b.pipeAt (9 + 1) ≠ u.fab + 1 ∧ b.headOf u.fab (b.bPort 1).1 (b.bPort 1).2 = some v ∧ v.kind = 0 ∧
      v.poisoned = false) ∧
    (r.liveTile (tk 8) = some (65535, loadF) ∧
      (r.tile (tk 8)).mat.blocks.findIdx? (fun b => b.full && !b.ready && decide (b.due ≤ r.fab)) = some 1 ∧
      (r.tile (tk 8)).mat.blocks[1]? = some (block0 1 false)) := by decide +kernel

theorem witness_MatrixTilesAdvance_group :
    let s := fab0 [(8, section0 1 { Mat.zero with blocks := [block0 3 true], aWords := List.replicate 32 (mkWord 5 31 0 0 0), groups := (List.range 8).map (fun i => (i, { Group.zero with d := 31, p := 62, ret := if i = 7 then 34 else 31 })) })]
    let t := s.tile (tk 8)
    let m := t.mat
    let y := m.group 7
    s.liveTile (tk 8) = some (65535, loadF) ∧ t.armed = true ∧ y.last ≠ s.fab + 1 ∧ t.held s.fab = false ∧ y.chunk < m.outBase + t.kch ∧
      m.base ≤ y.chunk ∧ m.blocks[y.chunk - m.base]? = some (block0 3 true) ∧ (block0 3 true).ready = true ∧ y.d < t.avail y.chunk ∧
      y.ret < m.lag s.fab + 4 ∧ loadF.elemOn (tk 8) = some (0, 8) ∧ s.armedElem 65535 0 8 7 1 = none ∧
      s.armedElem 65535 0 8 7 2 = none := by decide +kernel

theorem witness_MatrixTilesAdvance_out :
    let s := fab0 [(8, section0 1 { Mat.zero with due := 101, acc := [(2047, 9)] })]
    let w := mkWord 0x77 28 0 0 511
    let u := fab0 [(8, section0 1 { Mat.zero with stage := [w], left := 2 }), (9, (tile0 2 []).setCh 3 28 [met w])]
    let t := u.tile (tk 8)
    (s.liveTile (tk 8) = some (65535, loadF) ∧ (s.tile (tk 8)).kind = 1 ∧ (s.tile (tk 8)).mat.due = s.fab + 1 ∧
      (s.tile (tk 8)).mat.stop = false ∧ (s.tile (tk 8)).mat.stage = []) ∧
    (u.liveTile (tk 8) = some (65535, loadF) ∧ t.kind = 1 ∧ t.mat.stage = w :: [] ∧ Tab.get 0 t.pipeAt 20 ≠ u.fab + 1 ∧
      u.load 65535 = some loadF ∧ t.mat.left = 2 ^ 1 ∧ neighbour (tk 8) 1 = some (tk 9) ∧ tk 9 ≠ tk 8 ∧ loadF.sameCut (tk 8) (tk 9) = true ∧
      t.aligned = false ∧ t.saved = false ∧ t.holdsFor 1 w.vc = false ∧ t.linkFree 1 u.fab = true ∧
      (u.tile (tk 9)).hasCredit u.fab 3 w.vc = true) := by decide +kernel

/-- A memory tile in a mode: write input west VC 31, control input north VC 30, mode output west VC 29, 4,096 rows. -/
def memory0 (mode f4 : Nat) (fs : List (Nat × Nat)) (m : MemT) (w c : List ChTok) : Tile :=
  (({ tile0 2 ([(1, mode), (4, f4)] ++ fs ++ [(40, 4096 * 4096), (41, 3 + 31 * 8), (42, 30 * 8), (43, 8 + 29 * 32 + 511 * 1024)]) with mem := m }).setCh 3 31 w).setCh 0 30 c
def wordOf (v : Nat) : LW := mkWord (BitVec.ofNat 256 v) 31 0 0 0
def word0 : LW := wordOf 0x1234
/-- Tile 0 of a state runs a mode with it, has nothing to send, and its inputs offer no word whose residues do not fit. -/
def runsMode (mode : Nat) (t : Tile) : Bool :=
  let s := fab0 [(0, t)]
  s.flushed (tk 0) == s && s.memTile (tk 0) mode == some (65535, t) && t.outRoom s.fab && t.unsent == 0 &&
    (([t.inHead s.fab 0, t.inHead s.fab 1].filterMap id).find? (fun w => w.kind == 0 && w.badResid)).isNone

theorem witness_MemoryModesRun_tstore :
    let t := memory0 1 8 [] { MemT.zero with wbuf := 7, woff := 510 } [met word0] []
    let gen := fun (k : Nat) => [(32, 2 ^ 31 + k * 2 ^ 30 + 2 ^ 16 + 4095), (33, 65536), (34, 65536), (35, 65536), (36, 65536), (37, 8), (38, 8 + 31 * 32 + 511 * 1024)]
    let g := memory0 1 8 (gen 0) { MemT.zero with bufs := [(0, 2)] } [] []
    let b := memory0 1 8 [] { MemT.zero with wbuf := 7, woff := 510 } [met { word0 with resid := word0.resid ^^^ 1 }] []
    (runsMode 1 t = true ∧ t.hasWriter = false ∧ t.inHead 100 0 = some word0 ∧ word0.kind = 0 ∧
      t.mem.buf t.mem.wbuf ≠ 2 ∧ 4094 = t.rbase + t.mem.wbuf * t.bsize + t.mem.woff ∧ t.bankFree 4094 100 = true ∧
      t.mem.woff + 1 < t.bsize) ∧
    (runsMode 1 g = true ∧ g.reads 3 = true ∧ g.genReady 100 3 = true ∧
      g.bankFree (g.genRow 3) 100 = true ∧ g.genw 3 6 % 32 ≠ 0 ∧ g.writeBank 100 ≠ some (g.genRow 3 % 4) ∧
      (g.gensBefore 3).any (fun i => g.reads i && g.genReady 100 i && g.genRow i % 4 == g.genRow 3 % 4) = false) ∧
    (([b.inHead 100 0, b.inHead 100 1].filterMap id).find? (fun w => w.kind == 0 && w.badResid)).isSome = true := by decide +kernel

theorem witness_MemoryModesRun_fifo :
    let t := memory0 2 0 [] { MemT.zero with head := 4095, count := 4095 } [met word0] []
    let g := memory0 2 0 [] { MemT.zero with head := 4095, count := 1, ages := [99] } [] []
    (runsMode 2 t = true ∧ t.inHead 100 0 = some word0 ∧ t.mem.count + t.unsent < t.rsize ∧
      t.bankFree (t.rbase + (t.mem.head + t.mem.count) % t.rsize) 100 = true) ∧
    (runsMode 2 g = true ∧ g.mem.count ≠ 0 ∧ Tab.get 0 g.pipeAt 62 ≠ 101 ∧ g.mem.ages.headD 0 + 1 ≤ 100 ∧
      g.bankFree (g.rbase + g.mem.head) 100 = true ∧ g.field 43 % 32 ≠ 0) := by decide +kernel

theorem witness_MemoryModesRun_lbuf :
    let b := fun (m : MemT) (w : List ChTok) => memory0 3 (4096 + 8192 + 65536) [] m w []
    let t := b { MemT.zero with x := 4095 } [met word0]
    let e := b { MemT.zero with x := 4095, rpos := 1 } []
    let c := b MemT.zero [met (mkWord 0 31 1 7 0)]
    (runsMode 3 t = true ∧ t.mem.rpos = 0 ∧ t.inHead 100 0 = some word0 ∧ word0.kind = 0 ∧ t.bankFree (t.pixRow t.mem.y t.mem.x) 100 = true) ∧
    (runsMode 3 e = true ∧ e.mem.rpos ≠ 0 ∧ Tab.get 0 e.pipeAt 62 ≠ 101 ∧
      e.bankFree (e.pixRow (e.mem.y + 1 - e.wh) (e.mem.x + 1 - e.ww)) 100 = true) ∧
    (runsMode 3 c = true ∧ c.mem.x = 0 ∧ c.mem.rpos = 0 ∧ (c.inHead 100 0).map (fun w => w.kind) = some 1) := by decide +kernel

theorem witness_MemoryModesRun_rpt :
    let r := fun (m : MemT) (w c : List ChTok) => memory0 4 1 [] m w c
    let t := r MemT.zero [] [met (wordOf (2 ^ 33 - 1))]
    let u := r { MemT.zero with rst := 1, rn := 2, count := 4095 } [met word0] []
    let o := r { MemT.zero with rst := 1, rn := 0, count := 4096 } [met word0] []
    let k := r { MemT.zero with rst := 1, rn := 1 } [met (mkWord 0 31 1 1 0)] []
    let v := r { MemT.zero with rst := 2, rn := 1, count := 1 } [] []
    (runsMode 4 t = true ∧ t.mem.rst = 0 ∧ t.inHead 100 1 = some (wordOf (2 ^ 33 - 1))) ∧
    (runsMode 4 u = true ∧ u.mem.rst = 1 ∧ u.inHead 100 0 = some word0 ∧ u.mem.count < u.rsize ∧ u.bankFree (u.rbase + u.mem.count) 100 = true) ∧
    (runsMode 4 o = true ∧ o.rsize ≤ o.mem.count ∧ o.inHead 100 0 = some word0 ∧ o.mem.rn = 0) ∧
    (runsMode 4 k = true ∧ k.field 4 ≤ 1 ∧ k.inHead 100 0 = some (mkWord 0 31 1 1 0)) ∧
    (runsMode 4 v = true ∧ v.mem.rst = 2 ∧ v.mem.rpos < v.mem.count ∧ Tab.get 0 v.pipeAt 62 ≠ 101 ∧ v.bankFree (v.rbase + v.mem.rpos) 100 = true) := by
  decide +kernel

theorem witness_MemoryModesRun_cdown :
    let row := fun (v : Nat) => { MemT.zero with scan := 16, rows := [(0, { Row.zero with v := BitVec.ofNat 256 (v * 2 ^ 240) })] }
    let t := memory0 5 16 [] { MemT.zero with scan := 15, rows := [(0, { Row.zero with v := BitVec.ofNat 256 (2 ^ 255) })] } [] []
    let g := fun (n v : Nat) => memory0 5 16 [] (row n) [] [met (wordOf v)]
    (runsMode 5 t = true ∧ t.mem.scan < t.field 4 ∧ t.mem.scanAt + t.mem.scan + 1 ≤ 100 ∧
      Tab.get 0 t.pipeAt 62 ≠ 101 ∧ t.bankFree (t.cdRow t.mem.scan) 100 = true ∧ t.cdGet t.mem.scan ≠ 0) ∧
    ([0, 1, 2].all (fun n => runsMode 5 (g n 15) && decide ((g n 15).field 4 ≤ (g n 15).mem.scan) && (g n 15).inHead 100 1 == some (wordOf 15) &&
      decide (15 < (g n 15).field 4) && (g n 15).bankFree ((g n 15).cdRow 15) 100 && (g n 15).cdGet 15 == n)) = true ∧
    (runsMode 5 (g 0 16) = true ∧ (g 0 16).inHead 100 1 = some (wordOf 16) ∧ (g 0 16).field 4 ≤ 16) := by decide +kernel

theorem witness_MemoryModesRun_ltab :
    let w := wordOf (joinN 32 [15, 7, 0xFFFFFFFF, 16, 0, 0, 0, 0])
    let t := fun (p : Bool) => memory0 6 16 [] { MemT.zero with rows := [(0, { Row.zero with v := BitVec.ofNat 256 (2 ^ 255) }), (1, { Row.zero with v := 1, pois := p })] } [] [met w]
    let ix := splitN 32 w.pay.toNat 8
    [false, true].all (fun p => runsMode 6 (t p) && decide ((t p).mem.takeAt ≤ 100) && (t p).inHead 100 1 == some w && w.kind == 0 && !w.poisoned &&
      ((t p).ltRows ix).any (fun r => ((t p).mem.row r).pois) == p && (t p).field 43 % 32 != 0) = true := by decide +kernel

/-! The package, its host and its links -/

/-- A user thread in slot 4,095 that waits for the last of 32 walks of die 3, through the table of `mapped`; die 3 has a fault queue of
64 entries. -/
def walking (va : Word) : State :=
  withDie (withSlot (mapped (onAt 4095 0 []) 0x1BD) 4095 (fun x => { x with ptbase := 0x100000, wait := .walk })) 3
    (fun d => { d with fqbase := 0x100000001001, walks := List.replicate 31 { slot := 0, va := 0, acc := 0 } ++ [{ slot := 4095, va := va, acc := 1 }] })

theorem witness_FaultsAndRegisters_walk :
    let s := walking 0xFFFFFFFF8
    let f := walking 0x1000000000
    let r := s.doWalk 3 (s.slot 4095).asidN (s.slot 4095).ptbase 0xFFFFFFFF8 1 (s.slot 4095).mode
    let q := f.doWalk 3 (f.slot 4095).asidN (f.slot 4095).ptbase 0x1000000000 1 (f.slot 4095).mode
    (31 < 32 ∧ (s.die 3).walks[31]? = some { slot := 4095, va := 0xFFFFFFFF8, acc := 1 } ∧ (s.slot 4095).wait = .walk ∧
      (match r.2 with | .ok .. => true | _ => false) = true ∧ r.1.slots = s.slots ∧ (r.1.die 3).walks = (s.die 3).walks ∧
      (r.1.die 3).tlb2 ≠ []) ∧
    ((f.die 3).walks[31]? = some { slot := 4095, va := 0x1000000000, acc := 1 } ∧ (f.slot 4095).wait = .walk ∧ q.1 = f ∧
      (match q.2 with | .fault .. => true | _ => false) = true ∧ (f.slot 4095).mode = 0 ∧ dieOfSlot 4095 = 3 ∧ f.fqPark 3 = true ∧
      (f.die 3).fqNet ≠ f.net + 1) ∧
    (let p := walking 0xFFFFFFFF8
     let m := withDie p 3 (fun d => { d with walks := (List.replicate 31 { slot := 0, va := 0, acc := 0 }) ++ [{ slot := 4095, va := 0xFFFFFFFF8, acc := 3 }] })
     let e := withDie (mapped up 0x1BD) 3 (fun d => { d with walks := [{ slot := engineParty 255, va := 0x5040, acc := 0, asid := 0, ptb := 0x100000, mode := 0 }] })
     (m.slot 4095).wait = .walk ∧ (e.die 3).walks[0]?.isSome = true ∧ decide (engineParty 255 < 4096) = false) := by
  decide +kernel

/-- A walk that finds a page which may not be executed, and one whose table's line the host holds modified. -/
theorem witness_FaultsAndRegisters_walks :
    let s := withSlot (mapped (onAt 4095 0 []) 0x131) 4095 (fun x => { x with ptbase := 0x100000, wait := .walk })
    let h := { mapped (onAt 4095 0 []) 0x1BD with snoop := [(lineOf 0x104000, true)] }
    (s.doWalk 3 0 0x100000 0x5040 1 0).2 = .perm ∧
      (match (h.doWalk 3 0 0x100000 0x5040 0 0).2 with | .held _ => true | _ => false) = true := by decide +kernel

/-- A fault queue of die 3 with an entry to write, between HEAD and TAIL. -/
def fq0 : List Word := [1, 2, 3, 4, 5, 6, 7, 0xFFFFFFFFFFFFFFFF]
def faulting (head tail : Nat) : State :=
  { withDie up 3 (fun d => { d with fqbase := 0x100000001001, fqhead := head, fqtail := tail, fqWait := [(7, fq0)] }) with msix := [(10, 0xFEE00000), (11, 0x41)] }

theorem witness_FaultsAndRegisters_queue :
    let s := faulting 0xFFFFFFC0 0xFFFFFFFF
    let e := faulting 0xFFFFFFFF 0xFFFFFFFF
    let ok := fun (s : State) => let x := s.die 3
      x.fqWait == (7, fq0) :: [] && fq0.length == 8 && s.running && s.fqOn 3 &&
        !s.numbering 3 7 && decide ((x.fqtail + 2 ^ 32 - x.fqhead) % 2 ^ 32 < x.ringSize) && !s.mustSnoop (lineOf (offOf x.tailAt)) true &&
        !s.conflicts none (lineOf (offOf x.tailAt))
    ok s = true ∧ ok e = true ∧ (e.die 3).fqtail = (e.die 3).fqhead ∧ bit (e.msixD (2 * (2 + 3) + 1)) 32 = false ∧
      3 < 4 ∧ s.pkg.powered = true ∧ bit (s.die 3).fqbase 0 = true ∧ bit (up.die 3).fqbase 0 = false ∧ 1 % 2 = 1 ∧ 0 % 2 = 0 ∧
      ((s.die 3).fqtail + 2 ^ 32 - 0xFFFFFFBF % 2 ^ 32) % 2 ^ 32 = (s.die 3).ringSize ∧
      (s.die 3).ringSize < ((s.die 3).fqtail + 2 ^ 32 - 0 % 2 ^ 32) % 2 ^ 32 ∧ up.pkg.powered = true := by decide +kernel

/-- A self-test of the multiplier lane of slot 15 of core 255, which slot 4,095 waits for. -/
def testing0 : Test := { id := 6, part := [0, 255, 15, 0], due := 5000, slot := some 4095, inj := false, recAt := none, load := 0 }
theorem witness_FaultsAndRegisters_repair :
    let s := { up with tests := [testing0] }
    (3 < 4 ∧ 15 < 16 ∧ up.running = true ∧ 4 / 4 % 2 = 1) ∧ up.pkg.powered = true ∧
    (s.tests.find? (fun t => t.id == 6) = some testing0 ∧ s.running = true ∧ testing0.part = [0, 255, 15, 0] ∧ testing0.due ≤ s.cycle ∧
      testing0.slot ≠ none) ∧
    (dieOfLine (0x10FFFFFFFFC0 / 64) = some 3 ∧ up.running = true ∧ Tab.get false up.poison (0x10FFFFFFFFC0 / 64) = false ∧
      up.mustSnoop (0x10FFFFFFFFC0 / 64) true = false) ∧
    (up.pkg.powered = true ∧ up.ctlSnoop 3 0x3F0000000018 8 (2 ^ 64 - 1) = none ∧ 0x18 % 8 = 0 ∧ 0x1C % 8 ≠ 0 ∧
      (0x100000000 ≤ 0x100FFF020 ∧ 0x100FFF020 < 0x101000000 ∧ 0x100FFF020 % 0x1000 < 0x40)) := by decide +kernel

/-- A package with its package-wide part changed. -/
def withPkg (s : State) (f : Package → Package) : State := { s with pkg := f s.pkg }

theorem witness_PackageEvents_power :
    let low := withPkg up (fun p => { p with fclk := 0x1D })
    let q := fun (n c : Nat) => withPkg up (fun p => { p with quiet := n, fclk := c })
    let hot := fun (w : Bool) => withPkg up (fun p => { p with devState := 8, warmWait := w })
    (low.running = true ∧ low.pkg.causes 2801 105 1 = [1] ∧ 0x1C < low.pkg.fclk) ∧
    ([q 8 0x33, q 9 0x33].all (fun s => s.running && s.pkg.causes 2799 104 0 == [] && s.pkg.below 2799 104 0) = true ∧
      (q 8 0x33).pkg.quiet < 9 ∧ 9 ≤ (q 9 0x33).pkg.quiet ∧ (q 9 0x33).pkg.fclk < 0x34) ∧
    (up.running = true ∧ 115 ≤ 115) ∧
    ([hot false, hot true].all (fun s => s.pkg.powered && s.pkg.devState == 8) = true ∧ (hot true).pkg.warmWait = true ∧ 94 < 95 ∧ (hot true).holdsMem = true) := by
  decide +kernel

theorem witness_PackageEvents_resets :
    let f := up.pkg.facts
    let k := slotKey (0xFFF00001 / 2 ^ 24 % 256) (0xFFF00001 / 2 ^ 20 % 16)
    (f.image = some (0, f.imageA) ∧ f.minSvn ≤ f.imageA.svn ∧ f.puf = true ∧ f.fatal = false ∧ f.memOk = true ∧ f.domain = true ∧
      f.longest ≤ 3 ∧ f.pkg < 1024 ∧ f.cfgOk = true) ∧
    (up.pkg.powered = true ∧ up.pkg.devState ≠ 8 ∧ up.pkg.devState = 6) ∧
    (0xA501 % 2 = 1 ∧ 0xA501 / 256 % 256 = 0xA5 ∧ 0x5A01 / 256 % 256 ≠ 0xA5) ∧
    (k = 4095 ∧ 0xFFF00001 % 2 = 1 ∧ (up.core (k / 16)).retired = false ∧ (up.slot k).st = .free) ∧
    ((withSlot up 4095 (fun x => { x with st := .ready })).slot k).st ≠ .free ∧ 0xFFF00000 % 2 = 0 := by decide +kernel

theorem witness_HostAccesses_memory :
    let s := { up with snoop := [(lineOf 0x10FFFFFFFFC0, true)] }
    let down := withPkg up (fun p => { p with devState := 5 })
    let b := { up with snooped := [7], snoop := [(7, true)] }
    (up.pkg.powered = true ∧ up.pkg.hostUp = true ∧ up.hdmUp = true ∧ hdmOffset 1 0xFFFFFFFFFF = some 0x10FFFFFFFFFF) ∧
    (s.hdmUp = true ∧ s.pkg.hostUp = true ∧ (s.held (lineOf 0x10FFFFFFFFFF)).isSome = true ∧
      (up.heldOn ((dieOfLine (lineOf 0x10FFFFFFFFFF)).getD 0)).length < snoopSize) ∧
    (down.hdmUp = false ∧ down.holdsMem = false ∧ down.pkg.powered = true ∧ down.pkg.hostUp = true ∧ hdmOffset 0 0xC000000000 = none ∧
      hdmOffset 0 0xBFFFFFFFFF = some 0xBFFFFFFFFF) ∧
    (b.snooped.contains 7 = true ∧ b.running = true) := by decide +kernel

/-- Slot 4,095 waits for a load from afar, of 8 bytes, with sequence number 3. -/
def far (mt tag : Nat) : State :=
  withSlot (onAt 4095 0 []) 4095 (fun x => { x with outs := [{ load0 with seq := 3, size := 8, mt := mt, tag := tag }] })

theorem witness_HostAccesses_others :
    let r : HostReq := { kind := 0, a := 4095, b := 3, addr := 0x7038 }
    let s := { far 3 6 with hostRq := Tab.set none [] 5 (some r) }
    let o : OutLoad := { load0 with seq := 3, size := 8, mt := 3, tag := 6 }
    let p := { up with msixP := [2047] }
    (Tab.get none s.hostRq 5 = some r ∧ s.running = true ∧ s.pkg.hostUp = true ∧ r.kind = 0 ∧
      (s.slot r.a).outs.find? (fun o => o.seq == r.b && o.tag == 5 + 1) = some o ∧
      (s.slot r.a).outs.find? (fun o => o.seq == r.b && o.tag == 5 + 1 && decide (3 ≤ o.mt) == true) = some o ∧ o.isPf = false ∧
      o.fwd = [] ∧ o.size < 16 ∧ (s.slot r.a).sync = none) ∧
    (s.pkg.powered = true ∧ ∀ e ∈ s.slots, e.2.wait = .none) ∧
    (p.pkg.powered = true ∧ 2047 < 2048 ∧ p.msixP.contains 2047 = true) := by decide +kernel

theorem witness_ManagementAnswers :
    let a := withPkg up (fun p => { p with spdmVer := 0x13, spdmNeg := true })
    let b := withPkg up (fun p => { p with bootSlot := 1 })
    up.firmware = true ∧ (0x12 = 0x12 ∨ 0x12 = 0x13) ∧ a.firmware = true ∧ a.pkg.spdmVer ≠ 0 ∧ a.pkg.spdmNeg = true ∧
      (5 ≤ 5 ∨ 5 = 255) ∧ up.pkg.spdmNeg = false ∧ up.pkg.bootSlot = 0 ∧ b.verified = true ∧ up.verified = true ∧ b.pkg.bootSlot ≠ 0 ∧ 6 > 5 ∧ 6 ≠ 255 ∧
      (withPkg up (fun p => { p with devState := 7, errCode := 3 })).firmware = false ∧ up.running = true ∧
      up.pkg.powered = true ∧ (1 ≠ 1 ∨ 2 ≠ 1) := by decide

/-- A package whose port 23 is as f leaves it. -/
def port23 (f : Port → Port) : State := up.setPort 23 (f { Port.reset with ctl := 1 ||| Port.reset.ctl })

theorem witness_LinksAndPackets_port :
    let s := port23 (fun x => { x with st := 2 })
    let f := port23 (fun x => { x with st := 2, resent := 16 })
    let a := port23 (fun x => { x with st := 2, unack := [(0, 0, up.packet 5 0 0 0 0 [])], ackAt := 0 })
    let l := { a with cycle := 2000000 }
    let t := fun (n : Nat) => port23 (fun x => { x with st := 1, tries := n })
    let off := up.setPort 23 { Port.reset with ctl := 0, st := 3 }
    (s.portUp 23 = true ∧ (s.port 23).unack = [] ∧ 0 < 1) ∧ (f.portUp 23 = true ∧ 16 ≤ (f.port 23).resent) ∧
    (l.portUp 23 = true ∧ (l.port 23).unack ≠ [] ∧ (l.port 23).ackAt + 2000000 ≤ l.cycle) ∧ 2 ≤ 2 ∧
    (23 < 24 ∧ (t 1).running = true ∧ ((t 1).port 23).st = 1 ∧ ((t 1).port 23).tries < 2 ∧ ((t 2).port 23).st = 1 ∧
      2 ≤ ((t 2).port 23).tries) ∧ (s.port 23).en = true ∧ ((off.port 23).en = false ∧ off.running = true) := by decide +kernel

/-- Packets that port 23 has received: one for this package, one for a package it can reach and one for one it cannot, and one that the
checks refuse. -/
theorem witness_LinksAndPackets_packet :
    let at_ := fun (k : Packet) => port23 (fun x => { x with st := 2, rxq := [k] })
    let r := { at_ (up.packet 1 9 4095 65535 0 []) with droute := Tab.set 0 [] 1 (field 16 1 1 ||| 23) }
    let k := up.packet 1023 9 4095 65535 0 [1]
    let h := up.packet 0 6 0 0 0 []
    let b := { h with rsv := 1 }
    ((at_ k).port 23).rxq = k :: [] ∧ (at_ k).running = true ∧ packetOk k = true ∧ k.dst ≠ (at_ k).pkg.pkgNo ∧ (at_ k).reachable k.dst = false ∧
      packetOk h = true ∧ h.dst = (at_ h).pkg.pkgNo ∧ packetOk b = false ∧ r.reachable 1 = true := by
  refine ⟨rfl, by decide, by simp [packetOk, State.packet], by decide, by decide, by simp [packetOk, State.packet], by decide,
    by simp [packetOk, State.packet], by decide⟩

/-- A flit received and its packet's parts: a packet of 2,056 bytes has nine flits. -/
theorem witness_LinksAndPackets_flits :
    let k := up.packet 1 6 0 0 0 (List.replicate 255 0)
    let s := port23 (fun x => { x with st := 2, rxNext := 7, wire := [(8, k)] })
    (s.port 23).wire = (8, k) :: [] ∧ ((port23 (fun x => { x with st := 2 })).port 23).wire = [] ∧ s.portUp 23 = true ∧ 0 < 16 ∧ (7 = (s.port 23).rxNext) ∧ 6 < (s.port 23).rxNext ∧ (s.port 23).rxNext < 8 ∧
      flitsOf k = 9 ∧ 8 + 1 = 9 := by
  refine ⟨rfl, rfl, by decide +kernel, by decide, by decide +kernel, by decide +kernel, by decide +kernel, by decide +kernel, rfl⟩

/-- A packet from package 1 to this one. -/
def pkt (kind circ seq addr : Nat) (data : List Nat) : Packet :=
  { dst := 0, src := 1, kind := kind, circ := circ, seq := seq, len := data.length, rsv := 0, addr := addr, hcrc := 0, data := data }
def arrived (k : Packet) (s : State) : State := { s with inbox := [(0, pkt 8 0 0 0 []), (23, k), (0, k)] }

theorem witness_LinksAndPackets_requests :
    let r := pkt 0 0 7 0x10FFFFFFFFC0 [64]
    let w := pkt 2 0 7 0x10FFFFFFFFF8 [8, 0x1122334455667788]
    let rest := fun (k : Packet) => [(0, pkt 8 0 0 0 []), (0, k)]
    let s := arrived r up
    let u := arrived w up
    (s.running = true ∧ takeFrom (fun n => n == 0 || n == 2 || n == 3) s.inbox = some (23, r, rest r) ∧
      s.place r.addr = .dram 3 0x10FFFFFFFFC0 ∧ 0x10FFFFFFFFC0 = offOf r.addr ∧ r.kind = 0 ∧
      s.mustSnoop (lineOf 0x10FFFFFFFFC0) false = false) ∧
    (takeFrom (fun n => n == 0 || n == 2 || n == 3) u.inbox = some (23, w, rest w) ∧ u.place w.addr = .dram 3 0x10FFFFFFFFF8 ∧
      w.kind = 2 ∧ u.conflicts none (lineOf 0x10FFFFFFFFF8) = false ∧ u.mustSnoop (lineOf 0x10FFFFFFFFF8) true = false) := by
  decide +kernel

theorem witness_LinksAndPackets_atomic :
    let k := pkt 3 0 65535 0x10FFFFFFFFF8 [8 * 16, 1, 0]
    let s := arrived k up
    let t := { s with served := [(1, 65535, pkt 4 0 65535 0 [])] }
    (takeFrom (fun n => n == 0 || n == 2 || n == 3) s.inbox).isSome = true ∧ s.place k.addr = .dram 3 0x10FFFFFFFFF8 ∧
      0x10FFFFFFFFF8 = offOf k.addr ∧ k.kind = 3 ∧
      (servedKeep k.src k.seq s.served).find? (fun e => e.1 == k.src && e.2.1 == k.seq) = none ∧ s.poisoned k.addr = false ∧
      s.mustSnoop (lineOf 0x10FFFFFFFFF8) true = false ∧ s.conflicts none (lineOf 0x10FFFFFFFFF8) = false ∧
      atomNew (k.data.getD 0 0 % 16) 64 0 1 0 = some 1 ∧
      ((servedKeep k.src k.seq t.served).find? (fun e => e.1 == k.src && e.2.1 == k.seq)).isSome = true ∧
      ({ s with prov := [{ load := 65535, wave := 8, line := lineOf 0x10FFFFFFFFF8, bytes := [] }] } : State).conflicts none
        (lineOf 0x10FFFFFFFFF8) = true := by decide +kernel

theorem witness_LinksAndPackets_answers :
    let k := pkt 1 0 65535 0 [0, 0x1122334455667788]
    let r : Remote := { pkt := pkt 0 0 65535 0x7038 [8], who := 0, a := 4095, b := 3, tries := 0, sent := 0 }
    let o : OutLoad := { load0 with seq := 3, size := 8, mt := 0, tag := 65536 }
    let s := arrived k { far 0 65536 with remotes := Tab.set none [] 65535 (some r) }
    let t := arrived k up
    (takeFrom (fun n => n == 1 || n == 4 || n == 5) s.inbox = some (23, k, [(0, pkt 8 0 0 0 []), (0, k)]) ∧ s.running = true ∧
      Tab.get none s.remotes k.seq = some r ∧ k.kind = answerKind r.pkt.kind ∧ r.who = 0 ∧ k.data.headD 0 = 0 ∧
      (s.slot r.a).outs.find? (fun o => o.seq == r.b && o.tag == k.seq + 1 && decide (3 ≤ o.mt) == false) = some o ∧ o.isPf = false ∧
      o.fwd = [] ∧ o.size < 16 ∧ (s.slot r.a).sync = none) ∧
    Tab.get none t.remotes k.seq = none := by decide +kernel

theorem witness_LinksAndPackets_circuits :
    let d := pkt 6 4095 62 0 [1, 2, 3, 4, 5]
    let b : Border := { load := 65535, entry := field 25 1 1 ||| field 26 12 4095, seq := 65535, open_ := [], held := [], words := [mkWord 1 0 0 0 0] }
    let c := pkt 7 4095 9 0 []
    let e : Border := { load := 65535, entry := field 50 10 1 ||| field 38 12 4095 ||| field 26 12 9, seq := 0, open_ := [9, 10], held := [], words := [] }
    let s := arrived d { up with borders := Tab.set none [] (borderKey 4095 true) (some b) }
    let u := arrived c { up with borders := Tab.set none [] (borderKey 9 false) (some e) }
    let n := arrived d up
    let h := { b with held := [(62, 1, [])] }
    let z := { b with words := [], seq := 62 }
    let q := (arrived d { up with borders := Tab.set none [] (borderKey 4095 true) (some z) }).setLoad 65535 (loadIn .running 4)
    (takeFrom (fun n => n == 6) s.inbox = some (23, d, [(0, pkt 8 0 0 0 []), (0, d)]) ∧ s.running = true ∧
      Tab.get none s.borders (borderKey d.circ true) = some b ∧ inWindow d.seq b.seq = true ∧
      b.held.any (fun h => h.1 == d.seq) = false ∧ b.words ≠ [] ∧ h.held.any (fun h => h.1 == d.seq) = true ∧ inWindow 63 65535 = false) ∧
    (Tab.get none n.borders (borderKey d.circ true) = none ∧ inWindow d.seq 0 = true ∧
      n.early.any (fun e => e.1 == d.circ && e.2.1 == d.seq) = false ∧ inWindow 64 0 = false) ∧
    (z.words = [] ∧ q.load z.load = some (loadIn .running 4) ∧ (loadIn .running 4).st = .running ∧ d.seq = z.seq) ∧
    (takeFrom (fun n => n == 7) u.inbox = some (23, c, [(0, pkt 8 0 0 0 []), (0, c)]) ∧
      Tab.get none u.borders (borderKey 9 false) = some e ∧ bit e.entry 25 = false ∧ bits e.entry 50 10 = c.src ∧
      bits e.entry 38 12 = c.circ) := by decide +kernel

theorem witness_LinksAndPackets_timeouts :
    let r : Remote := { pkt := pkt 0 0 65535 0x7038 [8], who := 0, a := 4095, b := 3, tries := 0, sent := 0 }
    let f : Remote := { r with who := 1, a := 255, tries := 1 }
    let e : Wcb := { wcb0 with tag := 65536 }
    let at_ := fun (x : Remote) => { onAt 4095 0 [] with remotes := Tab.set none [] 65535 (some x), cycle := 2000000 }
    let s := at_ r
    let u := withCore (at_ f) 255 (fun c => { c with wcb := [e] })
    (Tab.get none s.remotes 65535 = some r ∧ s.running = true ∧ r.sent + s.reqTo ≤ s.cycle ∧ r.tries = 0 ∧
      ({ s with remotes := Tab.set none s.remotes 65535 none } : State).newTag ≠ 65535) ∧
    (Tab.get none u.remotes 65535 = some f ∧ u.running = true ∧ f.sent + u.reqTo ≤ u.cycle ∧ f.tries ≠ 0 ∧ f.who = 1 ∧
      (u.core f.a).wcb.findIdx? (fun e => e.tag == 65535 + 1 && decide (2 ^ 59 ≤ e.line * 64) == false) = some 0 ∧
      (u.core f.a).wcb[0]? = some e ∧ (u.context e.slot).st ≠ .free ∧ (u.context e.slot).pend.length < 14 ∧ (u.slot e.slot).sync = none) := by
  decide +kernel

/-! Invariants -/

/-- A store of slot 4,095 is performed in the next step: memory and modes are legal before and after, and memory is not empty. -/
theorem witness_MemoryStaysCanonical :
    let s := withTurn (withCore (onAt 4095 2 [(31, 1)]) 255 (fun c => { c with wcb := [{ wcb0 with phase := 1 }] }))
      { core := 0, fab := 0, net := 0, act := .event (.storePerformed 255 0) }
    memoryLegal s = true ∧ modesLegal s = true ∧
      (match step s with | .next t => memoryLegal t && modesLegal t && decide (t.mem.length = 4) | _ => false) = true := by decide +kernel

/-- A return to user mode from a trap changes the mode in the next step. -/
theorem witness_ModesStayLegal :
    let s := withTurn (withWord (withSlot (on 2 []) 0 (fun x => { x with tepc := 0x2000, tstat := 0x102 })) 0xF0001000)
      { core := 0, fab := 0, net := 0, act := .issue 0 0 }
    memoryLegal s = true ∧ modesLegal s = true ∧
      (match step s with | .next t => modesLegal t && (t.slot 0).mode == 0 | _ => false) = true := by decide +kernel

/-! Worked examples of the spec -/

/-- The value that a divide or multiply of slot 0 will write, the operands in g30 and g31. -/
def product (i : Instr) (a b : Word) : Option Word :=
  match exec i (on 0 [(30, a), (31, b)]) with
  | .next u => (u.me.muls.head?).map (fun m => m.val)
  | _ => none

/-- Table 16-2: g[29] gets the value of each row. -/
theorem test_table_16_2 :
    product (.div 29 30 31) (-7) 2 = some (-3) ∧ product (.rem 29 30 31) (-7) 2 = some (-1) ∧ product (.div 29 30 31) 7 (-2) = some (-3) ∧
      product (.rem 29 30 31) 7 (-2) = some 1 ∧ product (.divu 29 30 31) 0xFFFFFFFFFFFFFFF9 2 = some 0x7FFFFFFFFFFFFFFC ∧
      product (.remu 29 30 31) 0xFFFFFFFFFFFFFFF9 2 = some 1 ∧ product (.div 29 30 31) 12 0 = some 0xFFFFFFFFFFFFFFFF ∧
      product (.rem 29 30 31) 12 0 = some 12 ∧ product (.divu 29 30 31) 12 0 = some 0xFFFFFFFFFFFFFFFF ∧
      product (.remu 29 30 31) 12 0 = some 12 ∧ product (.div 29 30 31) 0x8000000000000000 (-1) = some 0x8000000000000000 ∧
      product (.rem 29 30 31) 0x8000000000000000 (-1) = some 0 ∧ product (.mulh 29 30 31) (-1) (-1) = some 0 ∧
      product (.mulhu 29 30 31) 0xFFFFFFFFFFFFFFFF 0xFFFFFFFFFFFFFFFF = some 0xFFFFFFFFFFFFFFFE ∧
      product (.mul 29 30 31) 0x8000000000000000 2 = some 0 := by decide +kernel

/-- 01, after R19: the address of package 5 and offset 0x0061_2345_6C00, on die 2. -/
theorem test_physical_address :
    (withPkg up (fun p => { p with pkgNo := 5 })).place 0x0001406123456C00 = .dram 2 0x006123456C00 ∧
      up.place 0x0001406123456C00 = .remote 5 := by decide +kernel

/-- 12, after R249: residues, and 14, after R304: 464 and 470 to e4m3. -/
theorem test_residues : res7 0x9 = 2 ∧ res7 0xFFFFFFFC = 0 ∧ res7 5 = 5 := by decide
theorem test_e4m3_rounding :
    encodeVal 0x04 0 false 0 (.fin false 464 0) = encodeVal 0x04 0 false 0 (.fin false 448 0) ∧
      encodeVal 0x04 0 true 0 (.fin false 470 0) = encodeVal 0x04 0 false 0 (.fin false 448 0) ∧
      (decodeVal 0x04 (encodeVal 0x04 0 false 0 (.fin false 470 0))).isNaN = true := by decide +kernel

/-- 09, after R199: 1.375 under a term cap of 2 becomes 1.5; without one it has three terms. -/
theorem test_term_cap :
    recode 2 (.fin false 11 (-3)) = (.fin false 12 (-3), 2) ∧ recode 0 (.fin false 11 (-3)) = (.fin false 11 (-3), 3) := by decide +kernel

/-- 14, after R306: a block step of mx.e2m1 that gains 4, 0.25 at readout. -/
theorem test_block_step :
    let rec0 := fun (scale byte : Nat) => rowElems 0x20 [mkWord (BitVec.ofNat 256 (scale + 256 * byte)) 0 0 0 0] 0
    stepSum 4 (rec0 0x7C 0x53) (rec0 0x7E 0xB7) = 4 := by decide +kernel

/-- 08, after R180: slot 4 sends east on VC 1 with ROUTE 12, and its long write. -/
theorem test_out_word :
    let t := tile0 0 [(36, 0x00180042), (34, 0x00401C14)]
    t.outPorts 4 = 2 ∧ t.outVc 4 = 1 ∧ t.outRoute 4 = 12 ∧ stickyOf (t.inw false 4 1) = 64 ∧ entOf (t.inw false 4 1) = 7 ∧
      srcOf (t.inw false 4 1) = 20 ∧ parseCfg false 0 0 0 [0x81049001, 0x00180042] = .inr [(false, 0x041, 36, 0x00180042)] := by decide +kernel

/-- 20, Tables 20-7 and 20-8: rsum over X and Y. -/
theorem test_rsum :
    let t := tile0 0 [(14, 0x00100840), (15, 0x53), (16, 0x1F), (17, 0x1F), (18, 0x000A0002), (106, 8)]
    let x := joinN 32 [0x4B800000, 0x3F800000, 0x3F800000, 0x3F800000, 0xCB800000, 0x3F800000, 0, 0]
    let y := joinN 32 [0x3F000000, 0x3E800000, 0, 0, 0, 0, 0, 0]
    let a := (t.ctx 1).accum [] x
    (t.ctx 1).op = 0x40 ∧ t.slotLatency false 1 = 7 ∧ a = [0x40400000] ∧ (t.ctx 1).accum a y = [0x40700000] := by decide +kernel

/-- 19, after R403: `trap 0` in user mode at P on core 9, slot 4, with g1 = 41, and the frame at F + 1,024. -/
theorem test_trap_frame :
    let k := 9 * 16 + 4
    let f := 0x100000002000
    let s := withCore (onAt k 0 [(1, 41), (2, 7)]) 9 (fun c => { c with tvec := 0x3000, tfbase := BitVec.ofNat 64 f })
    (match exec (.trap 0) s with
      | .next u => (u.homeD (f + 1024), u.homeD (f + 1032), u.homeD (f + 1040), u.homeD (f + 1048), u.homeD (f + 1056), u.homeD (f + 1064),
          u.me.level, u.me.mode, u.pc) == ((0x13, 0x1004, 0, 0, 41, 7, 1, 1, 0x3000) : Word × Word × Word × Word × Word × Word × Nat × Nat × Word)
      | _ => false) = true := by decide +kernel

/-- 06, after R134: five loads seen by a monitor of SHIFT 4. -/
theorem test_monitor :
    let m := [4, 4, 130, 181, 361].foldl Monitor.sample { Monitor.reset with sel := 4 * 2 ^ 28 }
    m.cnt = 5 ∧ m.sum = 680 ∧ m.min_ = 4 ∧ m.max_ = 361 ∧ m.hist = [(0, 2), (4, 2), (5, 1)] := by decide +kernel

/-! umas: the worked examples of chapters 15, 18 and 21 -/

/-- The words of a section's bytes. -/
def wordsFrom : List Nat → List Nat
  | b0 :: b1 :: b2 :: b3 :: r => (b0 + 256 * b1 + 65536 * b2 + 16777216 * b3) :: wordsFrom r
  | _ => []

/-- The words of .text that umas makes of a program. -/
def textOf (src : List String) : Option (List Nat) :=
  match umas [] src with
  | .ok m => some (wordsFrom m.text)
  | .error _ => none

/-- The first words of .rodata that umas makes of one cut of two facets. -/
def cutOf (n : Nat) (body : List String) : Option (List Nat) :=
  match umas [] ([".rodata", ".cut x, shape=2x1"] ++ body ++ [".endcut"]) with
  | .ok m => some ((wordsFrom m.rodata).take n)
  | .error _ => none

/-- Table 15-16. -/
theorem test_umas_sum8 :
    textOf [".thread sum8", "sum8:   addi    g4, g1, 0          // g4: element address", "addi g5, g0, 0", "addi g6, g0, 8",
      "loop: ld.d.c0 g7, 0(g4)", "add g5, g5, g7", "addi g4, g4, 8", "addi g6, g6, -1", "bne g6, g0, loop", "texit"] =
    some [0x10810000, 0x10A00000, 0x10C00008, 0x78E40000, 0x04A53800, 0x10840008, 0x10C6FFFF, 0x44C0FFFC, 0xC8000030] := by
  decide +kernel

/-- Tables 15-9 and 18-15. -/
theorem test_umas_words :
    textOf ["amo.add.acq.pk g3, g4, (g5)", "fence.acq.pk 0x09", "qpush.try q3, g5, g6", "bqpop.acq g7, q1, 3"] =
    some [0x9865202B, 0x9C104800, 0xB0C53100, 0xB0E01A83] := by decide +kernel

/-- umas emits no illegal word: an offset that is no multiple, an odd register, a missing scope, a value out of range. -/
theorem test_umas_errors :
    textOf ["ld.d g5, 4(g2)"] = none ∧ textOf ["ld.x g5, 0(g2)"] = none ∧ textOf ["amo.add g5, g1, (g2)"] = none ∧
      textOf ["addi g5, g0, 0xCDEF"] = none ∧ textOf ["lui g5, 0x0123, 4"] = none := by decide +kernel

/-- Table 15-14: a slot line. -/
theorem test_umas_slot_line :
    cutOf 7 [".facet 1", ".tile (1,0) vector", ".vc 3, f64", "s4: ffma.f64 a=W.vc3, b=v7 sticky 64, c=s2 -> E.vc1 route 12"] =
      some [0x81048006, 0x00000913, 0x00000073, 0x00401C14, 0x00000002, 0x00180042, 0x00000000] := by decide +kernel

/-- Table 15-15: what umas rejects. -/
theorem test_umas_slot_rejects :
    cutOf 7 [".tile (1,0) vector", ".vc 3, f64", "s4: ffma.f64 a=W.vc3, b=v7, c=s2 sticky 8 -> E.vc1 route 12"] = none ∧
      cutOf 7 [".tile (1,0) vector", ".vc 3, f64", "s4: ffma.f64 a=W.vc3, b=v7, c=s2 -> E.vc1, N.vc2"] = none ∧
      cutOf 7 [".tile (2,0) vector"] = none := by decide +kernel

/-- Table 21-6 and the countdown tile after R446. -/
theorem test_umas_modes :
    cutOf 9 [".tile (0,1) matrix",
      "mma afmt=mx.e4m3, bfmt=mx.e4m3, acc=exa, bp=20, cap=2, kch=4, a=W.vc0, b0=N.vc1, b1=S.vc2, sect=3, level=2",
      "mmacc fmt=bf16, k=k5 -> E, vc=4, route 33"] =
      some [0x80200401, 0x00040004, 0x80202001, 0x002508E3, 0x80202804, 0x00001406, 0x02120803, 0x00000821, 3] ∧
    cutOf 9 [".tile (1,1) memory", "cdown n=4, region=0:1, ctl=W.vc2 -> E, vc=3, route 40", "mem 0 = 0x0001_0000, 0x0002_0001"] =
      some [0x80240401, 5, 0x80241001, 4, 0x8024A001, 0x1000, 0x8024A802, 0x13, 0xA062] := by decide +kernel

/-- A timed entry whose result would land at the period is rejected (15 R331). -/
theorem test_umas_timed :
    (cutOf 1 [".tile (1,0) vector", ".vc 1, f32", ".timed period=6, group=2", "s0: fadd.f32 a=W.vc1, b=v3 -> v4", "at 3 pipe 0: s0",
      ".endtimed"]).isSome ∧
    cutOf 1 [".tile (1,0) vector", ".vc 1, f32", ".timed period=5, group=2", "s0: fadd.f32 a=W.vc1, b=v3 -> v4", "at 3 pipe 0: s0",
      ".endtimed"] = none := by decide +kernel

end Sys2Proof.Tests
end

section
/-! # Division (16 R336)

The four results in every case and the latencies, and what the four instructions put on the slot's list of multiplies and
divides on their way. -/

namespace Sys2Proof.Machine

/-! ## A multiply or divide on its way -/

@[simp] theorem State.advance_me_muls (s : State) : s.advance.me.muls = s.me.muls := by
  rw [State.advance, State.setPc, State.me_setMe]

/-- A slow instruction that issues joins the end of the slot's list, done after its latency. -/
theorem State.slow_me_muls {s : State} {rs : List Nat} {us : List (Nat × Nat)} {d : Nat} (v : Word) (time : Nat)
    (h : s.issues (d :: rs) us = true) :
    (s.slow rs us d v time).me.muls = s.me.muls ++ [{ dst := d, val := v, done := s.cycle + time }] := by
  rw [State.slow, State.run_issues h, State.advance_me_muls, State.me_setMe]

theorem exec_div (s : State) (d a b : Nat) :
    exec (.div d a b) s =
      .next (s.slow [a, b] [(5, 0), (3, 2)] d (div64 (s.rg a) (s.rg b)) (divTime (s.rg a) (s.rg b))) := rfl

theorem exec_divu (s : State) (d a b : Nat) :
    exec (.divu d a b) s =
      .next (s.slow [a, b] [(5, 0), (3, 2)] d (divu64 (s.rg a) (s.rg b)) (divuTime (s.rg a) (s.rg b))) := rfl

theorem exec_rem (s : State) (d a b : Nat) :
    exec (.rem d a b) s =
      .next (s.slow [a, b] [(5, 0), (3, 2)] d (rem64 (s.rg a) (s.rg b)) (divTime (s.rg a) (s.rg b))) := rfl

theorem exec_remu (s : State) (d a b : Nat) :
    exec (.remu d a b) s =
      .next (s.slow [a, b] [(5, 0), (3, 2)] d (remu64 (s.rg a) (s.rg b)) (divuTime (s.rg a) (s.rg b))) := rfl

/-! ## A zero divisor -/

@[simp] theorem div64_zero (A : Word) : div64 A 0 = 0xFFFFFFFFFFFFFFFF := if_pos rfl
@[simp] theorem rem64_zero (A : Word) : rem64 A 0 = A := if_pos rfl
@[simp] theorem divu64_zero (A : Word) : divu64 A 0 = 0xFFFFFFFFFFFFFFFF := if_pos rfl
@[simp] theorem remu64_zero (A : Word) : remu64 A 0 = A := if_pos rfl
@[simp] theorem divTime_zero (A : Word) : divTime A 0 = 6 := if_pos (.inl rfl)
@[simp] theorem divuTime_zero (A : Word) : divuTime A 0 = 6 := if_pos rfl

/-! ## Significant bits -/

/-- What characterises the number of significant bits. -/
theorem sigBits_eq {x n : Nat} (h : n = 0 ∧ x = 0 ∨ 0 < n ∧ 2 ^ (n - 1) ≤ x ∧ x < 2 ^ n) : sigBits x = n := by
  obtain ⟨rfl, rfl⟩ | ⟨hn, hlo, hhi⟩ := h
  · rfl
  · have hx : x ≠ 0 := Nat.ne_of_gt (Nat.lt_of_lt_of_le (Nat.two_pow_pos _) hlo)
    have hlog : x.log2 = n - 1 := (Nat.log2_eq_iff hx).mpr ⟨hlo, by rwa [Nat.sub_add_cancel hn]⟩
    rw [sigBits, if_neg hx, hlog, Nat.sub_add_cancel hn]

/-! ## The quotient that overflows -/

theorem divOver_iff (A B : Word) : divOver A B = true ↔ A.toInt = -2 ^ 63 ∧ B.toInt = -1 := by
  have hmin : (0x8000000000000000 : Word).toInt = -2 ^ 63 := by decide
  have hone : (0xFFFFFFFFFFFFFFFF : Word).toInt = -1 := by decide
  rw [← hmin, ← hone, BitVec.toInt_inj, BitVec.toInt_inj]
  simp only [divOver, Bool.and_eq_true, beq_iff_eq]

theorem divTime_of_divOver {A B : Word} (h : divOver A B = true) : divTime A B = 6 := if_pos (.inr h)

section
variable {A B : Word} (hB : B ≠ 0)
include hB

theorem div64_of_divOver (h : divOver A B = true) : div64 A B = A := by rw [div64, if_neg hB, if_pos h]
theorem rem64_of_divOver (h : divOver A B = true) : rem64 A B = 0 := by rw [rem64, if_neg hB, if_pos h]

/-! ## Every other signed division -/

/-- Only the overflowing quotient is outside the signed range, so the 64-bit word reads back as the quotient. -/
theorem toInt_div64 (h : ¬ divOver A B = true) : (div64 A B).toInt = A.toInt.tdiv B.toInt := by
  have hsdiv : (A.sdiv B).toInt = A.toInt.tdiv B.toInt := by
    refine BitVec.toInt_sdiv_of_ne_or_ne A B (Decidable.not_and_iff_not_or_not.mp ?_)
    rintro ⟨rfl, rfl⟩
    exact h (by decide)
  rw [div64, if_neg hB, if_neg h, BitVec.toInt_ofInt, ← BitVec.toInt_sdiv, hsdiv]

/-- The remainder is smaller than the divisor, so it fits. -/
theorem toInt_rem64 (h : ¬ divOver A B = true) :
    (rem64 A B).toInt = A.toInt - A.toInt.tdiv B.toInt * B.toInt := by
  have hmod : A.toInt - A.toInt.tdiv B.toInt * B.toInt = (A.srem B).toInt := by
    rw [BitVec.toInt_srem, Int.tmod_def, Int.mul_comm]
  rw [rem64, if_neg hB, if_neg h, hmod, BitVec.ofInt_toInt]

/-! ## The unsigned division -/

theorem toNat_divu64 : (divu64 A B).toNat = A.toNat / B.toNat := by
  have hlt : A.toNat / B.toNat < 2 ^ 64 := Nat.lt_of_le_of_lt (Nat.div_le_self _ _) A.isLt
  rw [divu64, if_neg hB, BitVec.toNat_ofNat, Nat.mod_eq_of_lt hlt]

theorem toNat_remu64 : (remu64 A B).toNat = A.toNat % B.toNat := by
  have hlt : A.toNat % B.toNat < 2 ^ 64 := Nat.lt_of_le_of_lt (Nat.mod_le _ _) A.isLt
  rw [remu64, if_neg hB, BitVec.toNat_ofNat, Nat.mod_eq_of_lt hlt]

/-! ## The latencies -/

theorem divTime_eq (h : ¬ divOver A B = true) : divTime A B = divLatency (sigBits A.toInt.natAbs) :=
  if_neg (not_or.mpr ⟨hB, h⟩)

theorem divuTime_eq : divuTime A B = divLatency (sigBits A.toNat) := if_neg hB

end

/-- Settles O12: a zero divisor, the overflowing quotient and every other division each by its lemmas above. -/
theorem divisionRules : Obligations.DivisionRules := by
  intro A B
  refine ⟨div64_zero A, rem64_zero A, divu64_zero A, remu64_zero A, divTime_zero A, divuTime_zero A,
    fun hB hA hB1 => ?_, fun hB hover => ?_, fun hB => ?_, fun s d a b hissue hA hB => ?_⟩
  case refine_1 =>
    have hover := (divOver_iff A B).mpr ⟨hA, hB1⟩
    exact ⟨div64_of_divOver hB hover, rem64_of_divOver hB hover, divTime_of_divOver hover⟩
  case refine_2 =>
    rw [← divOver_iff] at hover
    refine ⟨toInt_div64 hB hover, toInt_rem64 hB hover, fun n hn => ?_⟩
    rw [← Int.natAbs_eq_zero] at hn
    rw [divTime_eq hB hover, sigBits_eq hn, divLatency]
  case refine_3 =>
    refine ⟨toNat_divu64 hB, toNat_remu64 hB, fun n hn => ?_⟩
    rw [divuTime_eq hB, sigBits_eq hn, divLatency]
  case refine_4 =>
    subst hA hB
    exact ⟨_, _, _, _, exec_div s d a b, exec_divu s d a b, exec_rem s d a b, exec_remu s d a b,
      State.slow_me_muls _ _ hissue, State.slow_me_muls _ _ hissue, State.slow_me_muls _ _ hissue,
      State.slow_me_muls _ _ hissue⟩

end Sys2Proof.Machine
end

section
/-! # The software trap (19 R400, R404)

When a synchronous trap is entered at once, and that trap c raises the software trap after itself. -/

namespace Sys2Proof.Machine

/-! ## A synchronous trap that may be entered -/

theorem State.mayEnter_iff (s : State) (k : Nat) :
    s.mayEnter k = true ↔
      (s.slot k).settled = true ∧ s.drained k = true ∧ s.mustSnoop (s.frameLine k) true = false := by
  simp only [State.mayEnter, Bool.and_eq_true, Bool.not_eq_true', and_assoc]

@[simp] theorem State.setSlot_drained (s : State) (k : Nat) (x : Slot) (j : Nat) :
    (s.setSlot k x).drained j = s.drained j := rfl

@[simp] theorem State.setSlot_mustSnoop (s : State) (k : Nat) (x : Slot) (line : Nat) (write : Bool) :
    (s.setSlot k x).mustSnoop line write = s.mustSnoop line write := rfl

/-- The frame of the next entry depends on the written slot by its level alone. -/
theorem State.setSlot_frameLine {s : State} {k : Nat} {x : Slot} (h : x.level = (s.slot k).level) :
    (s.setSlot k x).frameLine k = s.frameLine k := by
  rw [State.frameLine, State.frameLine, State.slot_setSlot_same, State.setSlot_core_at, h]

/-- A slot written at its level, with what it has issued still finished, may enter as it might before. -/
theorem State.mayEnter_setSlot {s : State} {k : Nat} {x : Slot} (hset : x.settled = (s.slot k).settled)
    (hlevel : x.level = (s.slot k).level) (h : s.mayEnter k = true) : (s.setSlot k x).mayEnter k = true := by
  rwa [State.mayEnter, State.slot_setSlot_same, State.setSlot_drained, State.setSlot_mustSnoop,
    State.setSlot_frameLine hlevel, hset]

theorem State.enterSync_eq_enter {s : State} {k : Nat} {t : Sync} (hsync : (s.slot k).sync = some t)
    (h : s.mayEnter k = true) : s.enterSync k = s.enter k t.cause t.tval t.epc false t.word := by
  simp only [State.enterSync, hsync, h, if_true]

/-- A synchronous trap is entered at once where the slot may enter. -/
theorem State.raiseWord_eq_enter {s : State} {k : Nat} (cause : Nat) (tval epc : Word) (word : Nat)
    (h : s.mayEnter k = true) :
    s.raiseWord k cause tval epc word =
      (s.setSlot k { s.slot k with
        sync := some { cause := cause, tval := tval, epc := epc, word := word }, st := .ready,
        wait := .none }).enter k cause tval epc false word := by
  rw [State.raiseWord]
  exact State.enterSync_eq_enter (t := { cause := cause, tval := tval, epc := epc, word := word })
    (by rw [State.slot_setSlot_same]) (State.mayEnter_setSlot rfl rfl h)

/-! ## trap -/

theorem exec_trap (s : State) (c : Nat) :
    exec (.trap c) s =
      .next (s.run [] [] (s.raiseWord s.cur 0x13 (BitVec.ofNat 64 c) (s.pc + 4) (s.wordAt s.cur (s.pc + 4)))) :=
  rfl

theorem encode_trap {c : Nat} (hc : c < 4096) : encode (.trap c) = some (0xF0000000 + c) :=
  calc encode (.trap c) = some (pack [(c, 12), (0, 14), (0x3C, 6)]) := rfl
    _ = some (c % 4096 + 0xF0000000) := rfl
    _ = some (0xF0000000 + c) := by rw [Nat.mod_eq_of_lt hc, Nat.add_comm]

/-- Settles O29: the thread's slot may enter, so the trap, with TEPC at the next word, is entered at once. -/
theorem softwareTrapIsTaken : Obligations.SoftwareTrapIsTaken := by
  intro s c hissue hsettled hdrained hsnoop hc
  have henter : s.mayEnter s.cur = true := (s.mayEnter_iff s.cur).mpr ⟨hsettled, hdrained, hsnoop⟩
  refine ⟨encode_trap hc, s.wordAt s.cur (s.pc + 4), ?_⟩
  rw [exec_trap, State.run_issues hissue, State.raiseWord_eq_enter _ _ _ _ henter]
  rfl

end Sys2Proof.Machine
end
